-- ==== Sys2Proof/Word.lean ====
section
/-! DEFINITION. The word types of the model and their plainest operations (R4, R5: bit 0 is the least significant bit, register and memory fields are little-endian). -/

namespace Sys2Proof

/-- One byte. -/
abbrev Byte := BitVec 8
/-- A run of bytes, lowest address first. -/
abbrev Bytes := List Byte
/-- A 32-bit register word (R62). -/
abbrev Word := BitVec 32
/-- A 64-bit word of a handshake channel, a digest or a region (R13, R206, R207). -/
abbrev DWord := BitVec 64
/-- The information word of an element (R79). -/
abbrev Info := BitVec 24
/-- The index of an element (R79: 0 to 8,388,607). -/
abbrev ElemIx := Nat

end Sys2Proof
end

