-- ==== Sys2Proof/Syntax.lean ====
section
/-! DEFINITION. The commands of the block: one constructor of `Instr` per row of spec/opcode_table.json, with the operands that the row's event carries, and the plain data types of those operands. -/

namespace Sys2Proof

/-- The three lanes (R10). -/
inductive Lane | a | b | c
deriving DecidableEq, Repr

/-- Where a register access comes from (R63). -/
inductive Src | pcie | maint
deriving DecidableEq, Repr

/-- The three rails of the I/O island and the Sieve whose loss is a power-on reset (R439). -/
inductive IoiRail | vddIo | vddq | vdd33
deriving DecidableEq, Repr

/-- The level of one of them, in mV, as its monitor sees it (R439, R475). -/
structure IoiReading where
  rail : IoiRail
  mv : BitVec 16
deriving DecidableEq, Repr

/-- The level of a lane's core or memory rail, in mV, as the lane's monitor sees it (R438, R475). -/
structure LaneReading where
  mem : Bool
  mv : BitVec 16
deriving DecidableEq, Repr

/-- VDD33 crosses the BU threshold, downwards or upwards, with the level of VBAT in mV (R451, R452, R477). -/
structure BuCross where
  below : Bool
  vbat : BitVec 16
deriving DecidableEq, Repr

/-- A disturbance of the coded execution that a comparator, rail checker or close check reports (R191 to R195): KIND, UNIT and ELEM as DBG_CXFAULT and DBG_CXELEM code them (R202). -/
structure Disturb where
  kind : BitVec 3
  unit : BitVec 7
  elem : BitVec 23
deriving DecidableEq, Repr

/-- What a lane scrub engine has just read and checked (R34, R181, R207). -/
inductive ScrubRead
  | word (i : BitVec 23)                 -- a state SRAM word, checked against its own check field
  | spareEcc (i : BitVec 23)             -- an uncorrectable ECC error at that word
  | crcScan (ok : Bool)                  -- the static Loam image CRC scan of this scan period
  | kSum (recomputed : DWord)            -- the sum over the regions of R207
deriving DecidableEq, Repr

/-- A Kiln measurement window: each lane clock's deviation in ppm (signed) and the levels of the nine logic rails in mV, in the order of R435 (R425). -/
structure KilnMeas where
  devA : Word
  devB : Word
  devC : Word
  rails : List (BitVec 16)
deriving DecidableEq, Repr

/-- One failure that Kiln finds: UNIT, BLOCK, TEST, BIT and ADDR of its log entry (R430, R433). -/
structure KilnFail where
  unit : BitVec 3
  block : BitVec 7
  test : BitVec 4
  bit : BitVec 7
  addr : Word
deriving DecidableEq, Repr

/-- What a t0 brings of one lane: its clock's deviation in ppm over the latest full drift window (R148), and the failures that its background logic test has found since the t0 before (R432). -/
structure LaneT0 where
  ppm : Int
  failed : List KilnFail
deriving DecidableEq, Repr

/-- The handshake channels (table of R13). -/
inductive Chan
  | snapshot (l : Lane) (sub : BitVec 5)
  | report (l : Lane)
  | inter (sender receiver : Lane)
  | laneOut (l : Lane)
  | agreed
  | toBu
  | fromBu
deriving DecidableEq, Repr

/-- A request as a snapshot carries it (R237, R242): the descriptor without its opcode, and the transport words. `args` holds descriptor bytes 20 to 63; `maint` marks a request from PORT_MAINT (R412). -/
structure Req where
  sq : BitVec 4
  index : BitVec 12
  seq : Word
  tag : Word
  flags : BitVec 16
  bufaddr : DWord
  length : Word
  args : Bytes
  bufFailed : Bool
  maint : Bool
deriving DecidableEq, Repr

/-- The result of one descriptor read (R239, R242, R253): the 64 bytes with what the buffer read for it returned (none where that read failed), or a failed read. -/
inductive DescRead
  | ok (bytes : Bytes) (buffer : Option Bytes)
  | failed
deriving DecidableEq, Repr

/-- A register read: its offset, and its width in bytes (R62). -/
structure RegAccess where
  off : BitVec 22
  width : Nat
deriving DecidableEq, Repr

/-- The bytes of an up frame, with its arrival (R375). -/
structure VioIn where
  frame : Bytes
  arrival : Nat
deriving DecidableEq, Repr

/-- The end of work on a block of Shale flash (R399): the erase that is due completes, or fails, or a block fails to program while a flush writes it. -/
inductive BlockEnd
  | erased
  | failed
  | programFails (block : Byte)
deriving DecidableEq, Repr

/-- An access to a doorbell (R232): a naturally aligned 32-bit write or read, or an access of another offset of the page, width or alignment. -/
inductive Bell
  | write (v : Word)
  | read
  | other (isRead : Bool)
deriving DecidableEq, Repr

/-- An access to the function's configuration space beside its power state and reset (R229): the size fields of Device Control, the completion timeout, or a read of one of its words. -/
inductive ConfigAccess
  | sizes (payload readRequest : BitVec 3)
  | timeout (range : BitVec 4) (off : Bool)
  | read (off : BitVec 12)
deriving DecidableEq, Repr

/-- An access to the MSI-X structures (R231, R266): a change of the function mask, an aligned 32-bit write or read of BAR4, or an access to another field of the configuration space that holds the function mask. -/
inductive MsixAccess
  | functionMask (on : Bool)
  | config (a : ConfigAccess)
  | write (off : BitVec 13) (v : Word)
  | read (off : BitVec 13)
deriving DecidableEq, Repr

/-- The class of an Event Gate bank (R257). -/
inductive EvClass | normal | fast
deriving DecidableEq, Repr

/-- What resets the PCI Express function (R230). -/
inductive FnCause | perst | hotReset | linkDown | flr
deriving DecidableEq, Repr

/-- A reset of the function, with the bytes that each check unit had read by then of a scan of host memory (R386). -/
structure FnReset where
  cause : FnCause
  scanned : List Bytes
deriving DecidableEq, Repr

/-- The ordinary units of R153, in the order of the CYC_OVR bits. -/
inductive OrdUnit | xchg | recorder | compl | stat | mgmt | diag
deriving DecidableEq, Repr

/-- The privileged units and the t0 fault, coded as CYC_PRIV.UNIT (R174). -/
inductive PrivUnit | consensus | sigClose | commit | t0Fault
deriving DecidableEq, Repr

/-- The networks of a coded output message: NET of the element table (R104). -/
inductive Net | etlF | etlR | can | vio | pair
deriving DecidableEq, Repr

/-- One coded message word: an entry of R278, R316 or R333 for an object, with both codes. -/
structure Msg where
  net : Net
  chan : BitVec 4
  obj : BitVec 20
  record : BitVec 16
  code1 : Word
  code2 : Word
deriving DecidableEq, Repr

/-- The agreed content of one completion (R243): `result` holds bytes 12 to 27, `data` the buffer words that are agreed content, for the buffer at `buf` (R246); `maint` marks a request from PORT_MAINT (R412), whose completion goes back there. -/
structure Cmpl where
  sq : BitVec 4
  seq : Word
  tag : Word
  status : Byte
  opcode : BitVec 16
  cycle : BitVec 16
  result : Bytes
  imm : Bool
  buf : DWord
  data : Bytes
  maint : Bool
deriving DecidableEq, Repr

/-- A word a lane presents over its lane output channel (R204, item 1). -/
inductive OutWord
  | msg (m : Msg)
  | cmpl (c : Cmpl)
deriving DecidableEq, Repr

/-- The state of a wave record that is not FREE (R107). -/
inductive WaveState | searching | retreating | paused | locking
deriving DecidableEq, Repr

/-- The role of an element in a wave's trail (R107). -/
inductive TrailRole | path | overlap | flank | ovl
deriving DecidableEq, Repr

/-- One trail entry (R107): element, exit port, required position (0 none), role, and whether the claim is a shared flank. `untried` keeps the leg of a choice point that has not been tried yet (R118). -/
structure TrailEntry where
  elem : ElemIx
  exit : BitVec 2
  pos : BitVec 2
  role : TrailRole
  shared : Bool
  inPort : BitVec 2
  untried : Option (BitVec 2)
deriving DecidableEq, Repr

/-- What a retreat leads to (R123, R124): a retry, an end with a FAIL code, or a return to the last choice point. -/
inductive RetreatFor
  | retry
  | ending (fail : BitVec 4)
  | backtrack
  | altOverlap
deriving DecidableEq, Repr

/-- The part of the search a wave is in: its path, its overlap towards OVL port 1 or (alt) 2, or the OVL element itself, which is next (R115, R120). -/
inductive SearchPart | path | overlap (alt : Bool) | ovl (alt : Bool)
deriving DecidableEq, Repr

/-- One wave record (R107). `flanks` is the list of flank members still to be claimed; `here` is the element to be examined next with the port it is entered by. `copied` marks a wave that has come with the partner's state copy, whose request completes at no host (R358); it is no word of the record. -/
structure Wave where
  num : BitVec 8
  st : WaveState
  rte : ElemIx
  age : Word
  accepted : Nat
  wait : Bool
  altok : Bool
  cancel : Bool
  fail : BitVec 4
  failElem : Option ElemIx
  trail : List TrailEntry
  part : SearchPart
  here : ElemIx
  inPort : BitVec 2
  dirUp : Bool
  stepNo : Nat
  fwd : Nat
  flanks : List (ElemIx × BitVec 2)
  retreat : RetreatFor
  committed : Nat
  req : Req
  copied : Bool
deriving DecidableEq, Repr

/-- A proposal of R167: element, proposed PARAM0, PTAG and the cycle p of its snapshot. -/
structure Proposal where
  elem : ElemIx
  value : Word
  ptag : BitVec 16
  cycle : Nat
deriving DecidableEq, Repr

/-- The regions of R207, which with the element words make up the state a digest covers: wave table and trails, acceptance counter, open proposal with the change that has been confirmed and waits for the next LOGIC (R152), expired-proposal record, override table, route map and dirty map. -/
structure Regions where
  waves : List Wave
  ageCtr : Word
  proposal : Option Proposal
  expired : Option Proposal
  confirmed : Option Proposal
  overrides : List (ElemIx × Word)
  routeMap : List ElemIx
  dirty : List ElemIx
deriving DecidableEq, Repr

/-- A copy word of R222: an element's information word, a word of the regions, or the mark that the full pass has ended. -/
inductive CopyItem
  | elem (i : BitVec 23) (w : Info)
  | regions (r : Regions)
  | sigma (w : DWord)
  | passEnd
deriving DecidableEq, Repr

/-- The body of a copy block of the standby link (R352). Beside its entries, address and word, a block of region words names the regions whose words they are; the codes do not cover these, and a standby takes them once every word has come (log 68). -/
inductive CopyBody
  | delta (ws : List (BitVec 23 × Info))
  | fullRun (first : BitVec 23) (ws : List Info)
  | regions (ws : List (Nat × DWord)) (r : Regions)
  | close (pairsum : DWord) (handover : Bool)
deriving DecidableEq, Repr

/-- A copy block (R352): the cycle and the block number of its header, its body, and both codes. COUNT and KIND follow from the body. -/
structure CopyBlock where
  cycle : Nat
  number : Word
  body : CopyBody
  code1 : Word
  code2 : Word
deriving DecidableEq, Repr

/-- The content of a STATUS frame (R348). -/
structure PartnerStatus where
  level : BitVec 4
  role : BitVec 2
  elig : Bool
  imageId : DWord
  imageVer : Word
  hcrc : Word
  pairfmt : Byte
  tcyc : BitVec 9
  cycle : BitVec 48
  t0Diff : Nat
deriving DecidableEq, Repr

/-- One CAN frame as a controller receives it (R327, R335). -/
structure CanFrame where
  id : BitVec 29
  ide : Bool
  fdf : Bool
  brs : Bool
  esi : Bool
  rtr : Bool
  dlc : BitVec 4
  data : Bytes
deriving DecidableEq, Repr

/-- How a CAN frame arrives (R322, R327): without error, or ended by an error frame, with the number of times that the standard makes the receiver count eight for it beside one. -/
inductive CanRx
  | frame (f : CanFrame)
  | error (eights : Nat)
deriving DecidableEq, Repr

/-- How a transmitted CAN frame ends (R330, R332): without error, with an error, with an error that counts as a duplicate event, or for want of an acknowledgement, which an error-passive transmitter does not count (ISO 11898-1). -/
inductive CanEnd | done | failed | duplicate | unacked
deriving DecidableEq, Repr

/-- What the field side knows beside the levels of its inputs as it samples them (R368, R371): the inputs under test, and the readbacks at the output contacts. -/
structure FieldSample where
  testing : BitVec 32
  readback : BitVec 16
deriving DecidableEq, Repr

/-- Why the guardian cuts a frame (R279, R280). -/
inductive CutWhy | noWindow | wrongNode | drifting | tooLong
deriving DecidableEq, Repr

/-- The regions of flash: each image region, Shale flash, and configuration and identity storage (R409, R490). -/
inductive FlashRegion | firmware0 | firmware1 | loam0 | loam1 | shale | config
deriving DecidableEq, Repr

/-- The end of a refresh of a region: its copy in the spare area has been checked, and holds the stored bytes or not (R490). -/
structure Refresh where
  region : FlashRegion
  copyOk : Bool
deriving DecidableEq, Repr

/-- The blocks of BAR0 that have a CLRCNT bit (R144, and the maps of R142, R174, R227, R255, R298, R320, R341, R364, R379, R402, R455). -/
inductive ClrBlock | rge | cyc | lane | hif | fsn | frn | can (n : BitVec 2) | sby | vio | shale | pwr
deriving DecidableEq, Repr

/-- The blocks that hold slow-domain registers which can be written (R72, R73): the BU part of GLB, and PWR. -/
inductive SlowBlock | glb | pwr
deriving DecidableEq, Repr

/-- The commands: one constructor per row of the table of operations and events. -/
inductive Instr
  -- power, reset and clocks
  | powerUp (role : Bool) (addr : BitVec 6)
  | resetN (role : Bool) (addr : BitVec 6)
  | railOutOfRange (r : IoiReading)
  | laneRailLoss (l : Lane) (r : LaneReading)
  | buThreshold (x : BuCross)
  | laneThermalTrip (l : Lane)
  | ioiThermalTrip
  | pfwNAsserted
  | pfwNDeasserted
  | temperatureSample (s0 s1 s2 s3 s4 : BitVec 16)
  | laneClockStop (l : Lane)
  -- boot and Kiln
  | boot (read0 read1 readLoam : Bool)
  | kilnStart (m : KilnMeas)
  | kilnWaitExpiry (m : KilnMeas)
  | kilnComplete (fails : List KilnFail) (ms : BitVec 16)
  | klnCmdRun (src : Src) (v : Word)
  | directRunComplete (fails : List KilnFail) (ms : BitVec 16)
  -- test access port
  | bypass (tdi : Bool)
  | idcode
  | samplePreload (captured loaded : List Bool)
  | extest (sensed driven : List Bool)
  | kilnReg (dr : BitVec 40)
  | elemAcc (dr : BitVec 48)
  -- the cycle
  | managementTick
  | t0 (ivA ivB ivC : Nat) (ma mb mc : LaneT0)
  | t0WindowEnd (l : Lane)
  | snapshot (l : Lane)
  | snapshotDigest (receiver sender : Lane) (d : DWord)
  | consensusDeadline
  | logic (l : Lane) (x : Option Disturb)
  | timerExpired (i : BitVec 23)
  | moveMax (i : BitVec 23)
  | mismLimit (i : BitVec 23)
  | propMax (l : Lane)
  | wSteps (l : Lane)
  | searchMax (w : BitVec 8)
  | waveLife (w : BitVec 8)
  | confirmWindow
  | signatureClose (l : Lane) (x : Option Disturb)
  | outputCommit
  | housekeeping
  | ordinaryOverrun (l : Lane) (u : OrdUnit)
  | privilegedOverrun (l : Lane) (u : PrivUnit)
  | scrub (l : Lane) (r : ScrubRead)
  | handshakeWord (ch : Chan) (toggle : Bool) (payload : DWord) (crc : BitVec 16)
  | ackTimeout (ch : Chan)
  | laneReport (l : Lane) (work : BitVec 20) (near : Bool)
  -- voting
  | laneDigest (l : Lane) (d : DWord)
  | withdrawRail (l : Lane)
  | laneOutputWord (l : Lane) (w : OutWord)
  | checkWord (l : Lane) (w : DWord) (demand : Bool)
  | keepClearLapse
  | stateCopy (sender : Lane) (item : CopyItem)
  | rjLimit
  | proofTest
  | proofTestComplete (passed : Bool) (testFailed : List KilnFail)
  -- requests
  | routeSet (q : Req)
  | routeCancel (q : Req)
  | routeReleaseEmergency (q : Req)
  | pointMove (q : Req)
  | signalRestore (q : Req)
  | elementRead (q : Req)
  | elementBlockBlock (q : Req)
  | elementBlockUnblock (q : Req)
  | elementBlockClear (q : Req)
  | paramPropose (q : Req)
  | paramConfirm (q : Req)
  | recordRead (q : Req)
  | updateOpen (q : Req)
  | updateWrite (q : Req) (data : Bytes)
  | updateClose (q : Req)
  | updateActivate (q : Req)
  | updateConfirmHealth (q : Req)
  | laneRelease (q : Req)
  | laneRejoin (q : Req)
  | attest (q : Req)
  | modeRequest (q : Req)
  | standbySwitch (q : Req)
  | reservedOpcode (op : BitVec 16) (q : Req)
  -- host interface
  | submissionTail (n : BitVec 4) (x : Bell)
  | completionHead (n : BitVec 4) (x : Bell)
  | fetchTurn
  | descriptorRead (r : DescRead)
  | completionWrite
  | modTime (n : BitVec 4)
  | hifSqEn (n : BitVec 4) (v : Word)
  | hifCqEn (n : BitVec 4) (v : Word)
  | stoppingEnd (n : BitVec 4)
  | functionReset (k : FnReset)
  | d3Hot (pmeEn : Bool)
  | d0Return
  | l1Entry
  | msixUnmask (x : MsixAccess)
  -- Event Gate
  | evgClaim (k : EvClass)
  | evgComplete (k : EvClass) (v : Word)
  | evgSetPend (k : BitVec 2) (v : Word)
  | evgClrPend (k : BitVec 2) (v : Word)
  | evgFast (k : BitVec 2) (v : Word)
  | evgPrio (k : BitVec 4) (v : Word)
  | levelLine (src : BitVec 7) (level : Bool)
  -- register access
  | registerWrite (src : Src) (off : BitVec 22) (width : Nat) (v : DWord)
  | readShadow (src : Src) (x : RegAccess)
  | writeShadow (src : Src) (off : BitVec 22) (v : Word)
  | aliasSet (src : Src) (off : BitVec 22) (v : Word)
  | aliasClr (src : Src) (off : BitVec 22) (v : Word)
  | aliasMasked (src : Src) (off : BitVec 22) (v : Word)
  | postedWrite (src : Src) (off : BitVec 22) (v : Word)
  | postedWriteDone (b : SlowBlock)
  | glbAccCntClear (src : Src) (v : Word)
  | clrCnt (b : ClrBlock)
  -- debug
  | dbgCtrlEn (src : Src) (en : Bool)
  | halt (src : Src)
  | resume (src : Src)
  | stepCmd (src : Src)
  -- field star
  | roundStart
  | downlinkSlot (p : BitVec 4) (slot : BitVec 6)
  | etlFFrame (p : BitVec 4) (start : Nat) (frame : Bytes)
  | frameCut (p : BitVec 4) (start : Nat) (node : BitVec 3) (why : CutWhy)
  | linkLoss (p : BitVec 4)
  | linkReturn (p : BitVec 4)
  | absentTimeout (p : BitVec 4) (node : BitVec 3)
  | startPeriod (p : BitVec 4) (node : BitVec 3)
  | screeRel (p : BitVec 4) (scree : BitVec 4)
  | fsnCtrlEn (v : Word)
  | fsnSchChkGo (v : Word)
  | fsnModeGo (v : Word)
  | ackTo
  | swRound
  -- federation ring
  | etlRFrame (link : BitVec 2) (arrival : Nat) (residence : Nat) (frame : Bytes)
  | origination
  | linkFailed (link : BitVec 2)
  | linkRestore (link : BitVec 2)
  | coldStart
  | backoff
  | holdover
  | holdoverLimit
  | ppsIn (at1024 : Nat)
  -- CAN FD
  | canCtrlEn (n : BitVec 2) (v : Word)
  | txReq (n : BitVec 2) (v : Word)
  | txCan (n : BitVec 2) (v : Word) (inArbitration : BitVec 3)
  | objReqReq (n : BitVec 2) (v : Word)
  | objReqCan (n : BitVec 2) (v : Word) (inArbitration : Bool)
  | recover (n : BitVec 2)
  | canFrameReceived (n : BitVec 2) (ts : Nat) (f : CanRx)
  | canFrameEnd (n : BitVec 2) (e : CanEnd)
  | busOff (n : BitVec 2)
  | rxfData15 (n : BitVec 2)
  | objWindowRead (n : BitVec 2) (w : BitVec 5)
  | objData15 (n : BitVec 2)
  | objSel (n : BitVec 2) (v : Word)
  | basicCycle (n : BitVec 2)
  | ttTrigger (n : BitVec 2) (obj : BitVec 7)
  | ttMasterTimeout (n : BitVec 2)
  | ttErr (n : BitVec 2)
  -- standby pairing
  | status (p : PartnerStatus)
  | time (tb : Nat) (linkDelay : Nat) (startupDone : Bool)
  | vote (fcsOk : Bool) (b : CopyBlock)
  | copy (b : Option CopyBlock)
  | ack (cycle : BitVec 48)
  | refuse
  | mshipInStatic
  | standbyLinkDown
  | cpLimit
  | waitExpiry
  -- vital I/O
  | downFrame (frame : Bytes)
  | upFrame (f : VioIn)
  | downErr
  | isolationLinkSilent
  | vfldThreshold (mv : BitVec 16)
  | vfldClear
  | fieldSideReset (mv : BitVec 16)
  | inputTest (j : BitVec 5) (readsOn : Bool)
  | darkTest (k : BitVec 4) (ends : Bool) (fell : Bool)
  | overload (k : BitVec 4)
  -- recorder
  | recordEntry (code : BitVec 16) (sev : BitVec 3) (src : Byte) (payload : Bytes)
  | flush (v : Word)
  | flushComplete
  | blockErase (x : BlockEnd)
  -- check units
  | chkGo (u : BitVec 2) (v : Word) (busMaster : Bool)
  | chkStop (u : BitVec 2) (v : Word) (read : Bytes)
  | scanComplete (u : BitVec 2) (read : Bytes)
  | scanReadFailure (u : BitVec 2) (read : Bytes)
  | bgEn (v : Word)
  | backgroundScan (lost0 lost1 : List (Nat × Byte))
  -- update and life cycle
  | regionErased
  | bytesProgrammed
  | idle
  | healthWindowEnd
  | loamLoadChecked (readOk : Bool)
  | updLcCmdGo (v : Word)
  | tokenProcessed (madeByBoniora : Bool)
  | flashRefresh (r : Refresh)
  -- the rows at the end of the table
  | mshipInEdge (intervalNs : Nat)
  | inputSample (levels : BitVec 32) (more : FieldSample)
  | vbatLoss
  | busOffRecoveryEnd (n : BitVec 2)
  | arbitration (n : BitVec 2) (won : Bool)
  | functionReady
  | buCrystalStop
deriving DecidableEq, Repr

end Sys2Proof
end

