-- ==== Sys2Proof/Config.lean ====
section
/-! DEFINITION. What an implementation fixes and the spec leaves open: free values without a body (nothing can be proved of their value), and the lane constants of R176. -/

namespace Sys2Proof.Config

/-- A value the spec leaves open, drawn for the n-th time (log 1). -/
opaque freeBits : Nat → BitVec 64

/-- The words of controller-local SRAM that hold the wave table, the trails, the acceptance counter, the cancel-pending bits, the proposals and the expired-proposal record (R207 gives the sum over them, no chapter their packing; log 2): from the waves, the counter, and the open, the confirmed and the expired proposal. -/
opaque localWords : List Wave → Word → Option Proposal → Option Proposal → Option Proposal → List DWord

/-- The words of the override table (R165, R207; the packing of an entry is not given, log 2). -/
opaque overrideWords : List (ElemIx × Word) → List DWord

/-- The byte address of the override table in program and parameter SRAM (R207; not given, log 2). -/
opaque overrideAt : Nat

/-- The byte address of the route map there. -/
opaque routeMapAt : Nat

/-- The byte address of the dirty map there. -/
opaque dirtyMapAt : Nat

/-- The terms of a wave table, trail or message word in the signature: its index part and its word (R193; the packing is not given, log 2). -/
opaque messageWords : List OutWord → List (Nat × DWord)

/-- The ninth word of a descriptor in a snapshot (R242; the places of its fields are not given, log 2): ring number, index, fetch sequence number and buffer-failed marker. -/
opaque transportWord : BitVec 4 → BitVec 12 → Word → Bool → DWord

/-- The two words of an input entry in a snapshot (R16; the packing is not given, log 2), by its network (1 star, 2 ring, 3 CAN FD), source, OBJ, record, codes and stamp. -/
opaque entryWords : Nat → Nat → BitVec 24 → BitVec 16 → Word → Word → Nat → List DWord

/-- The verdict word (R212; the places of its fields are not given, log 2), from the sets it holds. -/
opaque verdictWord : List Nat → DWord

/-- The words of management-plane data in a snapshot (R16; the packing is not given, log 2), from the numbers they carry. -/
opaque planeWords : List Nat → List DWord

/-- The header of a copy block (R352; its layout is not given, log 2): cycle, block number, COUNT and KIND. -/
opaque blockHeader : Nat → Word → Nat → Nat → Bytes

/-- The entries of a copy block of KIND 0x2 to 0x4 (R352; their layout is not given, log 2). -/
opaque blockEntries : CopyBody → Bytes

/-- The code of a Shale record that no chapter gives, by the kind of event (R392, log 14): 0 level change, 1 lane exclusion, 2 debug write, 3 background mismatch, 4 session ended, 5 boot step failed, 6 Kiln failure, 7 health window ended, 8 fault of the backup channel. -/
opaque recordCode : Nat → BitVec 16

/-- The payload of such a record (log 14), for a kind of event and a draw. -/
opaque recordPayload : Nat → Nat → Bytes

/-- The severity of such a record where no chapter gives it (log 14). -/
opaque recordSev : Nat → BitVec 3

/-- The reporting unit of such a record where no chapter gives it (log 14). -/
opaque recordSrc : Nat → Byte

/-- Boniora's vendor identifier (R229; the value is not given, log 61). -/
opaque vendorId : BitVec 16

/-- The identification register of the test access port (R431; the value is not given, log 3). -/
opaque idcode : BitVec 32

/-- The signature part of an attestation report over the bytes before it while the module holds no identity key pair (R408, R422; log 4). -/
opaque sign : Bytes → Bytes

/-- A digest field of an attestation report (R422) over bytes that no chapter gives, by its kind and a draw: 0 the booted header and body while no container is booted, 1 the digest that the Loam signature covers while no image is loaded (log 4). -/
opaque attestDigest : Nat → Nat → Bytes

/-- The wave table and trail words that a wave stage writes, with their word addresses (R193; the packing is not given, log 2): from the regions that it leaves and the steps it took. -/
opaque stageWords : Regions → Nat → List (Nat × DWord)

end Sys2Proof.Config
end

