-- ==== Sys2Proof/Machine/RegMap.lean ====
section
/-! DEFINITION. The BAR0 register maps, row by row from the maps of spec/ (R75, R76, R142, R174, R202, R227, R255, R269, R298, R320, R341, R364, R379, R390, R402, R423, R433, R455): for each register its offset, its array shape, which bits each access code of R6 covers, its reset value, and the encodings that its fields allow (R7). Where a map gives no number for a reset value (Per module, Stored, Booted, After Kiln, From flash, kept, ROLE, ADDR) the row holds 0 (DESIGN CHOICE, log 11) and the value, if any, is set when the module resets. -/

namespace Sys2Proof.Machine

/-- The values an encoding of a field allows: its lowest bit, its width, and the allowed ranges, ends included (R3, R7). -/
structure Enc where
  lsb : Nat
  width : Nat
  allowed : List (Nat × Nat)
deriving DecidableEq, Repr

/-- One register of a BAR0 map. `stride` and `count` give an array of registers; `rw`, `w1c`, `wo` and `rsvk` are the bits of each access code (R6; the rest are RO); `slow` marks a slow-domain register (R72). -/
structure RegRow where
  name : String
  base : Nat
  stride : Nat
  count : Nat
  rw : Word
  w1c : Word
  wo : Word
  rsvk : Word
  reset : Word
  slow : Bool
  enc : List Enc
deriving DecidableEq, Repr

/-- The HDR registers (R75). -/
def mapHDR : List RegRow := [
  ⟨"BLKID", 0x000000, 0x10000, 20, 0x00000000, 0x00000000, 0x00000000, 0xFFFF0000, 0x00000000, false, []⟩,
  ⟨"PSTAT", 0x000004, 0x10000, 20, 0x00000000, 0x00000002, 0x00000000, 0xFFFFFFFC, 0x00000000, false, []⟩
]

/-- The GLB registers (R76). -/
def mapGLB : List RegRow := [
  ⟨"GLB_DEVICE", 0x000008, 0x0, 1, 0x00000000, 0x00000000, 0x00000000, 0xFF000000, 0x00014B33, false, []⟩,
  ⟨"GLB_REV", 0x00000C, 0x0, 1, 0x00000000, 0x00000000, 0x00000000, 0x00000000, 0x00000000, false, []⟩,
  ⟨"GLB_SERIAL_LO", 0x000010, 0x0, 1, 0x00000000, 0x00000000, 0x00000000, 0x00000000, 0x00000000, false, []⟩,
  ⟨"GLB_SERIAL_HI", 0x000014, 0x0, 1, 0x00000000, 0x00000000, 0x00000000, 0x00000000, 0x00000000, false, []⟩,
  ⟨"GLB_IMGVER", 0x000018, 0x0, 1, 0x00000000, 0x00000000, 0x00000000, 0x00000000, 0x00000000, false, []⟩,
  ⟨"GLB_LCS", 0x000020, 0x0, 1, 0x00000000, 0x00000000, 0x00000000, 0xFFFFFEF8, 0x00000000, false, []⟩,
  ⟨"GLB_SVCLVL", 0x000024, 0x0, 1, 0x00000000, 0x00000000, 0x00000000, 0xFFFF0000, 0x00000000, false, []⟩,
  ⟨"GLB_SVCCNT", 0x000028, 0x0, 1, 0x00000000, 0x00000000, 0x00000000, 0x00000000, 0x00000000, false, []⟩,
  ⟨"GLB_OPTIME_LO", 0x000030, 0x0, 1, 0x00000000, 0x00000000, 0x00000000, 0x00000000, 0x00000000, true, []⟩,
  ⟨"GLB_OPTIME_HI", 0x000034, 0x0, 1, 0x00000000, 0x00000000, 0x00000000, 0xFFFF0000, 0x00000000, true, []⟩,
  ⟨"GLB_PWRCYC", 0x000038, 0x0, 1, 0x00000000, 0x00000000, 0x00000000, 0x00000000, 0x00000000, true, []⟩,
  ⟨"GLB_BUSTAT", 0x00003C, 0x0, 1, 0x00000000, 0x00000001, 0x00000000, 0xFFFFFFFC, 0x00000000, true, []⟩,
  ⟨"GLB_ACCERR", 0x000040, 0x0, 1, 0x00000000, 0x00000000, 0x00000000, 0xF0C00000, 0x00000000, false, []⟩,
  ⟨"GLB_ACCCNT", 0x000044, 0x0, 1, 0x00000000, 0x00000000, 0x00010000, 0xFFFE0000, 0x00000000, false, []⟩,
  ⟨"GLB_SCRATCH", 0x000048, 0x0, 1, 0xFFFFFFFF, 0x00000000, 0x00000000, 0x00000000, 0x00000000, false, []⟩
]

/-- The HIF registers (R255). -/
def mapHIF : List RegRow := [
  ⟨"HIF_CTRL", 0x010008, 0x0, 1, 0x00000001, 0x00000000, 0x00000000, 0xFFFFFFFE, 0x00000000, false, []⟩,
  ⟨"HIF_STAT", 0x01000C, 0x0, 1, 0x00000000, 0x00000000, 0x00000000, 0xFFFFFFF0, 0x00000000, false, []⟩,
  ⟨"HIF_STAGE", 0x010010, 0x0, 1, 0x00000000, 0x00000000, 0x00000000, 0xFFFFE000, 0x00000000, false, []⟩,
  ⟨"HIF_HELD", 0x010014, 0x0, 1, 0x00000000, 0x00000000, 0x00000000, 0xFFFE0000, 0x00000000, false, []⟩,
  ⟨"HIF_CLR", 0x010018, 0x0, 1, 0x00000000, 0x00000000, 0x00000001, 0xFFFFFFFE, 0x00000000, false, []⟩,
  ⟨"HIF_FETCHCNT", 0x010020, 0x0, 1, 0x00000000, 0x00000000, 0x00000000, 0x00000000, 0x00000000, false, []⟩,
  ⟨"HIF_CMPLCNT", 0x010024, 0x0, 1, 0x00000000, 0x00000000, 0x00000000, 0x00000000, 0x00000000, false, []⟩,
  ⟨"HIF_DISCCNT", 0x010028, 0x0, 1, 0x00000000, 0x00000000, 0x00000000, 0x00000000, 0x00000000, false, []⟩,
  ⟨"HIF_RINGERR", 0x010030, 0x0, 1, 0x00000000, 0x00000000, 0x00000000, 0xFFFFF8E0, 0x00000000, false, []⟩,
  ⟨"HIF_RINGERRCNT", 0x010034, 0x0, 1, 0x00000000, 0x00000000, 0x00000000, 0x00000000, 0x00000000, false, []⟩,
  ⟨"HIF_SQ_BASE_LO", 0x011000, 0x40, 16, 0xFFFFFFC0, 0x00000000, 0x00000000, 0x0000003F, 0x00000000, false, []⟩,
  ⟨"HIF_SQ_BASE_HI", 0x011004, 0x40, 16, 0xFFFFFFFF, 0x00000000, 0x00000000, 0x00000000, 0x00000000, false, []⟩,
  ⟨"HIF_SQ_CFG", 0x011008, 0x40, 16, 0x00000FFF, 0x00000000, 0x00000000, 0xFFFFF000, 0x00000004, false, [⟨0, 4, [(4, 12)]⟩]⟩,
  ⟨"HIF_SQ_CTRL", 0x01100C, 0x40, 16, 0x00000001, 0x00000000, 0x00000000, 0xFFFFFFFE, 0x00000000, false, []⟩,
  ⟨"HIF_SQ_STAT", 0x011010, 0x40, 16, 0x00000000, 0x00002000, 0x00000000, 0xF000C000, 0x00000000, false, []⟩,
  ⟨"HIF_SQ_OUT", 0x011014, 0x40, 16, 0x00000000, 0x00000000, 0x00000000, 0xFFFFE000, 0x00000000, false, []⟩,
  ⟨"HIF_CQ_BASE_LO", 0x012000, 0x40, 16, 0xFFFFFFE0, 0x00000000, 0x00000000, 0x0000001F, 0x00000000, false, []⟩,
  ⟨"HIF_CQ_BASE_HI", 0x012004, 0x40, 16, 0xFFFFFFFF, 0x00000000, 0x00000000, 0x00000000, 0x00000000, false, []⟩,
  ⟨"HIF_CQ_CFG", 0x012008, 0x40, 16, 0xFFFFFF0F, 0x00000000, 0x00000000, 0x000000F0, 0x00000104, false, [⟨0, 4, [(4, 12)]⟩, ⟨8, 8, [(1, 255)]⟩]⟩,
  ⟨"HIF_CQ_CTRL", 0x01200C, 0x40, 16, 0x00000001, 0x00000000, 0x00000000, 0xFFFFFFFC, 0x00000000, false, []⟩,
  ⟨"HIF_CQ_STAT", 0x012010, 0x40, 16, 0x00000000, 0x00004000, 0x00000000, 0xF0008000, 0x00001000, false, []⟩,
  ⟨"HIF_CQ_PEND", 0x012014, 0x40, 16, 0x00000000, 0x00000000, 0x00000000, 0xFFE00000, 0x00000000, false, []⟩
]

/-- The EVG registers (R269). -/
def mapEVG : List RegRow := [
  ⟨"EVG_CTRL", 0x020008, 0x0, 1, 0x00000001, 0x00000000, 0x00000000, 0xFFFFFFFE, 0x00000000, false, []⟩,
  ⟨"EVG_STAT", 0x02000C, 0x0, 1, 0x00000000, 0x00000001, 0x00000000, 0xFFFFFFFE, 0x00000000, false, []⟩,
  ⟨"EVG_VECCLS", 0x020010, 0x0, 1, 0xFFFFFFFF, 0x00000000, 0x00000000, 0x00000000, 0x00000000, false, [⟨0, 2, [(0, 2)]⟩, ⟨2, 2, [(0, 2)]⟩, ⟨4, 2, [(0, 2)]⟩, ⟨6, 2, [(0, 2)]⟩, ⟨8, 2, [(0, 2)]⟩, ⟨10, 2, [(0, 2)]⟩, ⟨12, 2, [(0, 2)]⟩, ⟨14, 2, [(0, 2)]⟩, ⟨16, 2, [(0, 2)]⟩, ⟨18, 2, [(0, 2)]⟩, ⟨20, 2, [(0, 2)]⟩, ⟨22, 2, [(0, 2)]⟩, ⟨24, 2, [(0, 2)]⟩, ⟨26, 2, [(0, 2)]⟩, ⟨28, 2, [(0, 2)]⟩, ⟨30, 2, [(0, 2)]⟩]⟩,
  ⟨"EVG_RR", 0x020014, 0x0, 1, 0x00000000, 0x00000000, 0x00000000, 0xFFFFF0F0, 0x00000F0F, false, []⟩,
  ⟨"EVG_SETPEND", 0x020020, 0x4, 4, 0x00000000, 0x00000000, 0xFFFFFFFF, 0x00000000, 0x00000000, false, []⟩,
  ⟨"EVG_CLRPEND", 0x020030, 0x4, 4, 0x00000000, 0x00000000, 0xFFFFFFFF, 0x00000000, 0x00000000, false, []⟩,
  ⟨"EVG_FAST", 0x020040, 0x4, 4, 0xFFFFFFFF, 0x00000000, 0x00000000, 0x00000000, 0x00000000, false, []⟩,
  ⟨"EVG_LEVEL", 0x020050, 0x4, 4, 0x00000000, 0x00000000, 0x00000000, 0x00000000, 0x00000000, false, []⟩,
  ⟨"EVG_ACTIVE", 0x020060, 0x4, 4, 0x00000000, 0x00000000, 0x00000000, 0x00000000, 0x00000000, false, []⟩,
  ⟨"EVG_LINE", 0x020070, 0x4, 4, 0x00000000, 0x00000000, 0x00000000, 0x00000000, 0x00000000, false, []⟩,
  ⟨"EVG_PRIO", 0x020080, 0x4, 16, 0xFFFFFFFF, 0x00000000, 0x00000000, 0x00000000, 0x11111111, false, []⟩,
  ⟨"EVG_FAULTINFO", 0x0200C0, 0x0, 1, 0x00000000, 0x00000000, 0x00000000, 0xFFFF0000, 0x00000000, false, []⟩,
  ⟨"EVG_FAULTCNT", 0x0200C4, 0x0, 1, 0x00000000, 0x00000000, 0x00000000, 0x00000000, 0x00000000, false, []⟩,
  ⟨"EVG_NPEND", 0x020100, 0x4, 4, 0x00000000, 0x00000000, 0x00000000, 0x00000000, 0x00000000, false, []⟩,
  ⟨"EVG_FPEND", 0x020200, 0x4, 4, 0x00000000, 0x00000000, 0x00000000, 0x00000000, 0x00000000, false, []⟩,
  ⟨"EVG_NEN", 0x020110, 0x4, 4, 0xFFFFFFFF, 0x00000000, 0x00000000, 0x00000000, 0x00000000, false, []⟩,
  ⟨"EVG_FEN", 0x020210, 0x4, 4, 0xFFFFFFFF, 0x00000000, 0x00000000, 0x00000000, 0x00000000, false, []⟩,
  ⟨"EVG_NCLAIM", 0x020120, 0x0, 1, 0x00000000, 0x00000000, 0x00000000, 0x7FFFF080, 0x00000000, false, []⟩,
  ⟨"EVG_FCLAIM", 0x020220, 0x0, 1, 0x00000000, 0x00000000, 0x00000000, 0x7FFFF080, 0x00000000, false, []⟩,
  ⟨"EVG_NCOMPLETE", 0x020124, 0x0, 1, 0x00000000, 0x00000000, 0x0000007F, 0xFFFFFF80, 0x00000000, false, []⟩,
  ⟨"EVG_FCOMPLETE", 0x020224, 0x0, 1, 0x00000000, 0x00000000, 0x0000007F, 0xFFFFFF80, 0x00000000, false, []⟩,
  ⟨"EVG_NSTACK", 0x020128, 0x0, 1, 0x00000000, 0x00000000, 0x00000000, 0xFFFF0000, 0x00000000, false, []⟩,
  ⟨"EVG_FSTACK", 0x020228, 0x0, 1, 0x00000000, 0x00000000, 0x00000000, 0xFFFF0000, 0x00000000, false, []⟩,
  ⟨"EVG_NDELIVCNT", 0x02012C, 0x0, 1, 0x00000000, 0x00000000, 0x00000000, 0x00000000, 0x00000000, false, []⟩,
  ⟨"EVG_FDELIVCNT", 0x02022C, 0x0, 1, 0x00000000, 0x00000000, 0x00000000, 0x00000000, 0x00000000, false, []⟩
]

/-- The CYC registers (R174). -/
def mapCYC : List RegRow := [
  ⟨"CYC_PERIOD", 0x030008, 0x0, 1, 0x000001FF, 0x00000000, 0x00000000, 0xFE00FE00, 0x00320032, false, [⟨0, 9, [(10, 500)]⟩]⟩,
  ⟨"CYC_REQMAX", 0x03000C, 0x0, 1, 0x000007FF, 0x00000000, 0x00000000, 0xFFFFF800, 0x00000100, false, [⟨0, 11, [(16, 1024)]⟩]⟩,
  ⟨"CYC_OLCCFG", 0x030010, 0x0, 1, 0x0000001F, 0x00000000, 0x00000000, 0xFFFFFFE0, 0x00000014, false, [⟨0, 5, [(2, 31)]⟩]⟩,
  ⟨"CYC_OLCSTAT", 0x030014, 0x0, 1, 0x00000000, 0x00000000, 0x00000000, 0xFFFFC000, 0x00000000, false, []⟩,
  ⟨"CYC_NUM_LO", 0x030018, 0x0, 1, 0x00000000, 0x00000000, 0x00000000, 0x00000000, 0x00000000, false, []⟩,
  ⟨"CYC_NUM_HI", 0x03001C, 0x0, 1, 0x00000000, 0x00000000, 0x00000000, 0xFFFF0000, 0x00000000, false, []⟩,
  ⟨"CYC_T0_LO", 0x030020, 0x0, 1, 0x00000000, 0x00000000, 0x00000000, 0x00000000, 0x00000000, false, []⟩,
  ⟨"CYC_T0_HI", 0x030024, 0x0, 1, 0x00000000, 0x00000000, 0x00000000, 0x00000000, 0x00000000, false, []⟩,
  ⟨"CYC_TB_LO", 0x030028, 0x0, 1, 0x00000000, 0x00000000, 0x00000000, 0x00000000, 0x00000000, false, []⟩,
  ⟨"CYC_TB_HI", 0x03002C, 0x0, 1, 0x00000000, 0x00000000, 0x00000000, 0x00000000, 0x00000000, false, []⟩,
  ⟨"CYC_WORK", 0x030030, 0x0, 1, 0x00000000, 0x00000000, 0x00000000, 0xFFF00000, 0x00000000, false, []⟩,
  ⟨"CYC_WORKPEAK", 0x030034, 0x0, 1, 0x00000000, 0x00000000, 0x00000000, 0xFFF00000, 0x00000000, false, []⟩,
  ⟨"CYC_MARGIN", 0x030038, 0x0, 1, 0x0000007F, 0x00000000, 0x00000000, 0xFFFFFF80, 0x0000000A, false, [⟨0, 7, [(0, 50)]⟩]⟩,
  ⟨"CYC_CTRL", 0x03003C, 0x0, 1, 0x00000000, 0x00000000, 0x00000001, 0xFFFFFFFE, 0x00000000, false, []⟩,
  ⟨"CYC_OVR", 0x030040, 0x0, 1, 0x00000000, 0x000000FF, 0x00000000, 0xFFFFFF00, 0x00000000, false, []⟩,
  ⟨"CYC_OVRCNT", 0x030044, 0x0, 1, 0x00000000, 0x00000000, 0x00000000, 0x00000000, 0x00000000, false, []⟩,
  ⟨"CYC_SKIPCNT", 0x030048, 0x0, 1, 0x00000000, 0x00000000, 0x00000000, 0x00000000, 0x00000000, false, []⟩,
  ⟨"CYC_DEFERCNT", 0x03004C, 0x0, 1, 0x00000000, 0x00000000, 0x00000000, 0x00000000, 0x00000000, false, []⟩,
  ⟨"CYC_PRIV", 0x030050, 0x0, 1, 0x00000000, 0x00000000, 0x00000000, 0x00000000, 0x00000003, false, []⟩
]

/-- The RGE registers (R142). -/
def mapRGE : List RegRow := [
  ⟨"RGE_BUDGET", 0x040008, 0x0, 1, 0x0001FFFF, 0x00000000, 0x00000000, 0xFFFE0000, 0x00002000, false, [⟨0, 17, [(256, 65536)]⟩]⟩,
  ⟨"RGE_LIFE", 0x04000C, 0x0, 1, 0xFFFF0FFF, 0x00000000, 0x00000000, 0x0000F000, 0x10000064, false, [⟨0, 12, [(1, 4095)]⟩, ⟨16, 16, [(64, 65535)]⟩]⟩,
  ⟨"RGE_CTRL", 0x040010, 0x0, 1, 0x00000000, 0x00000000, 0x00000001, 0xFFFFFFFE, 0x00000000, false, []⟩,
  ⟨"RGE_WAVES", 0x040014, 0x0, 1, 0x00000000, 0x00000000, 0x00000000, 0xFE00FE00, 0x00000000, false, []⟩,
  ⟨"RGE_STEPS", 0x040018, 0x0, 1, 0x00000000, 0x00000000, 0x00000000, 0x7F000000, 0x00000000, false, []⟩,
  ⟨"RGE_SETCNT", 0x040020, 0x0, 1, 0x00000000, 0x00000000, 0x00000000, 0x00000000, 0x00000000, false, []⟩,
  ⟨"RGE_LOCKCNT", 0x040024, 0x0, 1, 0x00000000, 0x00000000, 0x00000000, 0x00000000, 0x00000000, false, []⟩,
  ⟨"RGE_UNSETCNT", 0x040028, 0x0, 1, 0x00000000, 0x00000000, 0x00000000, 0x00000000, 0x00000000, false, []⟩,
  ⟨"RGE_RETCNT", 0x04002C, 0x0, 1, 0x00000000, 0x00000000, 0x00000000, 0x00000000, 0x00000000, false, []⟩,
  ⟨"RGE_EXHCNT", 0x040030, 0x0, 1, 0x00000000, 0x00000000, 0x00000000, 0x00000000, 0x00000000, false, []⟩,
  ⟨"RGE_ORPHCNT", 0x040034, 0x0, 1, 0x00000000, 0x00000000, 0x00000000, 0x00000000, 0x00000000, false, []⟩,
  ⟨"RGE_ERELCNT", 0x040038, 0x0, 1, 0x00000000, 0x00000000, 0x00000000, 0x00000000, 0x00000000, false, []⟩,
  ⟨"RGE_LASTFAIL", 0x040040, 0x0, 1, 0x00000000, 0x00000000, 0x00000000, 0xF8000000, 0x00000000, false, []⟩,
  ⟨"RGE_LASTBLK", 0x040044, 0x0, 1, 0x00000000, 0x00000000, 0x00000000, 0xFF800000, 0x00000000, false, []⟩
]

/-- The LANE registers (R227). -/
def mapLANE : List RegRow := [
  ⟨"LANE_STATA", 0x050008, 0x0, 1, 0x00000000, 0x00000000, 0x00000000, 0x00000008, 0x00000000, false, []⟩,
  ⟨"LANE_STATB", 0x05000C, 0x0, 1, 0x00000000, 0x00000000, 0x00000000, 0x00000008, 0x00000000, false, []⟩,
  ⟨"LANE_STATC", 0x050010, 0x0, 1, 0x00000000, 0x00000000, 0x00000000, 0x00000008, 0x00000000, false, []⟩,
  ⟨"LANE_GROUP", 0x050014, 0x0, 1, 0x00000000, 0x00000000, 0x00000000, 0xFFFFF088, 0x00000000, false, []⟩,
  ⟨"LANE_CTRL", 0x050018, 0x0, 1, 0x00000000, 0x00000000, 0x00000001, 0xFFFFFFFE, 0x00000000, false, []⟩,
  ⟨"LANE_RJCFG", 0x050020, 0x0, 1, 0x00000FFF, 0x00000000, 0x00000000, 0xFFFFF000, 0x00000190, false, [⟨0, 12, [(8, 4095)]⟩]⟩,
  ⟨"LANE_RJSTAT", 0x050024, 0x0, 1, 0x00000000, 0x00000000, 0x00000000, 0xFFFFF800, 0x00000003, false, []⟩,
  ⟨"LANE_COPYWORDS", 0x050028, 0x0, 1, 0x00000000, 0x00000000, 0x00000000, 0x00000000, 0x00000000, false, []⟩,
  ⟨"LANE_COPYCYC", 0x05002C, 0x0, 1, 0x00000000, 0x00000000, 0x00000000, 0xFFFFF000, 0x00000000, false, []⟩,
  ⟨"LANE_PTCFG", 0x050030, 0x0, 1, 0x00007FFF, 0x00000000, 0x00000000, 0xFFFF8000, 0x00000000, false, [⟨0, 15, [(0, 28799)]⟩]⟩,
  ⟨"LANE_PTSTAT", 0x050034, 0x0, 1, 0x00000000, 0x00000000, 0x00000000, 0xFFFFFF80, 0x0000000C, false, []⟩,
  ⟨"LANE_PTDUE", 0x050038, 0x0, 1, 0x00000000, 0x00000000, 0x00000000, 0x00000000, 0x00007080, false, []⟩,
  ⟨"LANE_TICK", 0x05003C, 0x0, 1, 0x00000000, 0x00000000, 0x00000000, 0x00000000, 0x00000000, true, []⟩,
  ⟨"LANE_DIGA_LO", 0x050040, 0x0, 1, 0x00000000, 0x00000000, 0x00000000, 0x00000000, 0x00000000, false, []⟩,
  ⟨"LANE_DIGA_HI", 0x050044, 0x0, 1, 0x00000000, 0x00000000, 0x00000000, 0x00000000, 0x00000000, false, []⟩,
  ⟨"LANE_DIGB_LO", 0x050048, 0x0, 1, 0x00000000, 0x00000000, 0x00000000, 0x00000000, 0x00000000, false, []⟩,
  ⟨"LANE_DIGB_HI", 0x05004C, 0x0, 1, 0x00000000, 0x00000000, 0x00000000, 0x00000000, 0x00000000, false, []⟩,
  ⟨"LANE_DIGC_LO", 0x050050, 0x0, 1, 0x00000000, 0x00000000, 0x00000000, 0x00000000, 0x00000000, false, []⟩,
  ⟨"LANE_DIGC_HI", 0x050054, 0x0, 1, 0x00000000, 0x00000000, 0x00000000, 0x00000000, 0x00000000, false, []⟩,
  ⟨"LANE_MSGDROP", 0x050058, 0x0, 1, 0x00000000, 0x00000000, 0x00000000, 0x00000000, 0x00000000, false, []⟩,
  ⟨"LANE_EXCNT", 0x05005C, 0x0, 1, 0x00000000, 0x00000000, 0x00000000, 0x00000000, 0x00000000, false, []⟩,
  ⟨"LANE_RJCNT", 0x050060, 0x0, 1, 0x00000000, 0x00000000, 0x00000000, 0x00000000, 0x00000000, false, []⟩
]

/-- The FSN registers (R298). -/
def mapFSN : List RegRow := [
  ⟨"FSN_CTRL", 0x060008, 0x0, 1, 0x0000FFFF, 0x00000000, 0x00000000, 0xFFFF0000, 0x00000000, false, []⟩,
  ⟨"FSN_GCFG", 0x06000C, 0x0, 1, 0xFFFF0007, 0x00000000, 0x00000000, 0x0000FFF8, 0x03E80002, false, [⟨0, 3, [(1, 4)]⟩, ⟨16, 16, [(16, 65535)]⟩]⟩,
  ⟨"FSN_STAT", 0x060010, 0x0, 1, 0x00000000, 0x00000001, 0x00000000, 0xFFFFFF0E, 0x00000000, false, []⟩,
  ⟨"FSN_ROUND", 0x060014, 0x0, 1, 0x00000000, 0x00000000, 0x00000000, 0x00000000, 0x00000000, false, []⟩,
  ⟨"FSN_MODE", 0x060018, 0x0, 1, 0x00000000, 0x00000000, 0x00000700, 0xFFFFF880, 0x00000000, false, []⟩,
  ⟨"FSN_MODECFG", 0x06001C, 0x0, 1, 0x00000FFF, 0x00000000, 0x00000000, 0xFFFFF000, 0x00000440, false, [⟨0, 8, [(16, 255)]⟩, ⟨8, 4, [(2, 15)]⟩]⟩,
  ⟨"FSN_SWROUND", 0x060020, 0x0, 1, 0x00000000, 0x00000000, 0x00000000, 0x00000000, 0x00000000, false, []⟩,
  ⟨"FSN_SCHADDR", 0x060024, 0x0, 1, 0x00000FFF, 0x00000000, 0x00000000, 0xFFFFF000, 0x00000000, false, []⟩,
  ⟨"FSN_SCHDATA", 0x060028, 0x0, 1, 0xFFFFFFFF, 0x00000000, 0x00000000, 0x00000000, 0x00000000, false, []⟩,
  ⟨"FSN_SCHCHK", 0x06002C, 0x0, 1, 0x00000000, 0x00000000, 0x00000007, 0xFFFC0000, 0x00000000, false, []⟩,
  ⟨"FSN_NODESEL", 0x060030, 0x0, 1, 0x0000007F, 0x00000000, 0x00000000, 0xFFFFFF80, 0x00000000, false, []⟩,
  ⟨"FSN_NODEINFO", 0x060034, 0x0, 1, 0x00000000, 0x00000000, 0x00000000, 0xFFE00004, 0x00008000, false, []⟩,
  ⟨"FSN_CLR", 0x060038, 0x0, 1, 0x00000000, 0x00000000, 0x00000001, 0xFFFFFFFE, 0x00000000, false, []⟩,
  ⟨"FSN_P_STAT", 0x060100, 0x20, 16, 0x00000000, 0x00000000, 0x00000000, 0xFFFC0000, 0x00000000, false, []⟩,
  ⟨"FSN_P_EVT", 0x060104, 0x20, 16, 0x00000000, 0x000003FF, 0x00000000, 0xFFFFFC00, 0x00000000, false, []⟩,
  ⟨"FSN_P_EVTEN", 0x060108, 0x20, 16, 0x000003FF, 0x00000000, 0x00000000, 0xFFFFFC00, 0x00000000, false, []⟩,
  ⟨"FSN_P_RXCNT", 0x06010C, 0x20, 16, 0x00000000, 0x00000000, 0x00000000, 0x00000000, 0x00000000, false, []⟩,
  ⟨"FSN_P_RXERRCNT", 0x060110, 0x20, 16, 0x00000000, 0x00000000, 0x00000000, 0x00000000, 0x00000000, false, []⟩,
  ⟨"FSN_P_CUTCNT", 0x060114, 0x20, 16, 0x00000000, 0x00000000, 0x00000000, 0x00000000, 0x00000000, false, []⟩,
  ⟨"FSN_P_BABCNT", 0x060118, 0x20, 16, 0x00000000, 0x00000000, 0x00000000, 0x00000000, 0x00000000, false, []⟩,
  ⟨"FSN_P_LATECNT", 0x06011C, 0x20, 16, 0x00000000, 0x00000000, 0x00000000, 0x00000000, 0x00000000, false, []⟩
]

/-- The FRN registers (R320). -/
def mapFRN : List RegRow := [
  ⟨"FRN_CTRL", 0x070008, 0x0, 1, 0x00000001, 0x00000000, 0x00000000, 0xFFFFFFFE, 0x00000000, false, []⟩,
  ⟨"FRN_CFG", 0x07000C, 0x0, 1, 0x00071F1F, 0x00000000, 0x00000000, 0xFFF8E0E0, 0x00070000, false, [⟨16, 3, [(0, 3), (7, 7)]⟩]⟩,
  ⟨"FRN_MEMBERS", 0x070010, 0x0, 1, 0xFFFFFFFF, 0x00000000, 0x00000000, 0x00000000, 0x00000000, false, []⟩,
  ⟨"FRN_SCREE", 0x070014, 0x0, 1, 0xFFFFFFFF, 0x00000000, 0x00000000, 0x00000000, 0x00000000, false, []⟩,
  ⟨"FRN_TIMECFG", 0x070018, 0x0, 1, 0x00001FFF, 0x00000000, 0x00000000, 0xFFFFE000, 0x0000003C, false, [⟨0, 12, [(1, 3600)]⟩]⟩,
  ⟨"FRN_SCREECFG", 0x07001C, 0x0, 1, 0x0000FFFF, 0x00000000, 0x00000000, 0xFFFF0000, 0x000003E8, false, [⟨0, 16, [(16, 65535)]⟩]⟩,
  ⟨"FRN_STAT", 0x070020, 0x0, 1, 0x00000000, 0x00000080, 0x00000000, 0xFFFF0000, 0x0000E000, false, []⟩,
  ⟨"FRN_OFFSET", 0x070024, 0x0, 1, 0x00000000, 0x00000000, 0x00000000, 0x00000000, 0x00000000, false, []⟩,
  ⟨"FRN_RATE", 0x070028, 0x0, 1, 0x00000000, 0x00000000, 0x00000000, 0xFFFF0000, 0x00000000, false, []⟩,
  ⟨"FRN_HOLDTIME", 0x07002C, 0x0, 1, 0x00000000, 0x00000000, 0x00000000, 0xFFFFF000, 0x00000000, false, []⟩,
  ⟨"FRN_LIVE", 0x070030, 0x0, 1, 0x00000000, 0x00000000, 0x00000000, 0x00000000, 0x00000000, false, []⟩,
  ⟨"FRN_GRANTED", 0x070034, 0x0, 1, 0x00000000, 0x00000000, 0x00000000, 0x00000000, 0x00000000, false, []⟩,
  ⟨"FRN_CLR", 0x070038, 0x0, 1, 0x00000000, 0x00000000, 0x00000001, 0xFFFFFFFE, 0x00000000, false, []⟩,
  ⟨"FRN_L_STAT", 0x070100, 0x20, 4, 0x00000000, 0x00000000, 0x00000000, 0xFFFFFFF8, 0x00000000, false, []⟩,
  ⟨"FRN_L_EVT", 0x070104, 0x20, 4, 0x00000000, 0x0000007F, 0x00000000, 0xFFFFFF80, 0x00000000, false, []⟩,
  ⟨"FRN_L_EVTEN", 0x070108, 0x20, 4, 0x0000007F, 0x00000000, 0x00000000, 0xFFFFFF80, 0x00000000, false, []⟩,
  ⟨"FRN_L_RXCNT", 0x07010C, 0x20, 4, 0x00000000, 0x00000000, 0x00000000, 0x00000000, 0x00000000, false, []⟩,
  ⟨"FRN_L_RXERRCNT", 0x070110, 0x20, 4, 0x00000000, 0x00000000, 0x00000000, 0x00000000, 0x00000000, false, []⟩,
  ⟨"FRN_L_CUTCNT", 0x070114, 0x20, 4, 0x00000000, 0x00000000, 0x00000000, 0x00000000, 0x00000000, false, []⟩,
  ⟨"FRN_L_DELAY", 0x070118, 0x20, 4, 0x00000000, 0x00000000, 0x00000000, 0x00000000, 0x00000000, false, []⟩
]

/-- The CAN registers (R341). The map of CAN1; CAN2 to CAN4 lie 0x1_0000 apart (R61). REFID bits [2:0] must be 0, and R341 does not say what a write of another value there does: it is treated as a write of a reserved value, which keeps the rest of the word and is logged with cause 7 (DESIGN CHOICE, log 50). -/
def mapCAN : List RegRow := [
  ⟨"CAN_CTRL", 0x080008, 0x0, 1, 0x000000FF, 0x00000000, 0x00000000, 0xFFFFFF00, 0x00000028, false, []⟩,
  ⟨"CAN_NBT", 0x08000C, 0x0, 1, 0x0FFFFFFF, 0x00000000, 0x00000000, 0xF0000000, 0x04081FC1, false, [⟨0, 6, [(1, 32)]⟩, ⟨6, 8, [(2, 255)]⟩, ⟨14, 7, [(1, 127)]⟩, ⟨21, 7, [(1, 127)]⟩]⟩,
  ⟨"CAN_DBT", 0x080010, 0x0, 1, 0x07FFFFFF, 0x00000000, 0x00000000, 0xF8000000, 0x020C47C1, false, [⟨0, 6, [(1, 32)]⟩, ⟨6, 5, [(1, 31)]⟩, ⟨11, 4, [(1, 15)]⟩, ⟨15, 4, [(1, 15)]⟩]⟩,
  ⟨"CAN_STAT", 0x080014, 0x0, 1, 0x00000000, 0x00100000, 0x00000000, 0xFFE00000, 0x00000000, false, []⟩,
  ⟨"CAN_CMD", 0x080018, 0x0, 1, 0x00000000, 0x00000000, 0x00000003, 0xFFFFFFFC, 0x00000000, false, []⟩,
  ⟨"CAN_EVT", 0x08001C, 0x0, 1, 0x00000000, 0x000000FF, 0x00000000, 0xFFFFFF00, 0x00000000, false, []⟩,
  ⟨"CAN_EVTEN", 0x080020, 0x0, 1, 0x000000FF, 0x00000000, 0x00000000, 0xFFFFFF00, 0x00000000, false, []⟩,
  ⟨"CAN_TXCNT", 0x080024, 0x0, 1, 0x00000000, 0x00000000, 0x00000000, 0x00000000, 0x00000000, false, []⟩,
  ⟨"CAN_RXCNT", 0x080028, 0x0, 1, 0x00000000, 0x00000000, 0x00000000, 0x00000000, 0x00000000, false, []⟩,
  ⟨"CAN_ERRCNT", 0x08002C, 0x0, 1, 0x00000000, 0x00000000, 0x00000000, 0x00000000, 0x00000000, false, []⟩,
  ⟨"CAN_DUPCNT", 0x080030, 0x0, 1, 0x00000000, 0x00000000, 0x00000000, 0x00000000, 0x00000000, false, []⟩,
  ⟨"CAN_VLATECNT", 0x080034, 0x0, 1, 0x00000000, 0x00000000, 0x00000000, 0x00000000, 0x00000000, false, []⟩,
  ⟨"CAN_VRXERRCNT", 0x080038, 0x0, 1, 0x00000000, 0x00000000, 0x00000000, 0x00000000, 0x00000000, false, []⟩,
  ⟨"CAN_VMARK", 0x080040, 0x0, 1, 0x3FFFFFFF, 0x00000000, 0x00000000, 0xC0000000, 0x00000000, false, []⟩,
  ⟨"CAN_VCMD", 0x080044, 0x0, 1, 0x3FFFFFFF, 0x00000000, 0x00000000, 0xC0000000, 0x00000000, false, []⟩,
  ⟨"CAN_VIN", 0x080048, 0x0, 1, 0x3FFFFFFF, 0x00000000, 0x00000000, 0xC0000000, 0x00000000, false, []⟩,
  ⟨"CAN_VINMASK", 0x08004C, 0x0, 1, 0x1FFFFFFF, 0x00000000, 0x00000000, 0xE0000000, 0x1FFFFFFF, false, []⟩,
  ⟨"CAN_VCTL", 0x080050, 0x0, 1, 0x00000007, 0x00000000, 0x00000000, 0xFFFFFFF8, 0x00000004, false, []⟩,
  ⟨"CAN_TXREQ", 0x080060, 0x0, 1, 0x00000000, 0x00000000, 0x00000007, 0xFFFFFFF8, 0x00000000, false, []⟩,
  ⟨"CAN_TXCAN", 0x080064, 0x0, 1, 0x00000000, 0x00000000, 0x00000007, 0xFFFFFFF8, 0x00000000, false, []⟩,
  ⟨"CAN_OBJREQ", 0x080068, 0x0, 1, 0x00000000, 0x00000000, 0x000001FF, 0xFFFFFE00, 0x00000000, false, []⟩,
  ⟨"CAN_TTCFG", 0x080070, 0x0, 1, 0x0000000F, 0x00000000, 0x00000000, 0xFFFFFFF0, 0x00000000, false, []⟩,
  ⟨"CAN_TTCYC", 0x080074, 0x0, 1, 0x003FFFFF, 0x00000000, 0x00000000, 0xFFC00000, 0x000003E8, false, [⟨0, 16, [(100, 65535)]⟩, ⟨16, 6, [(0, 1), (3, 3), (7, 7), (15, 15), (31, 31), (63, 63)]⟩]⟩,
  ⟨"CAN_TTREF", 0x080078, 0x0, 1, 0x000007FF, 0x00000000, 0x00000000, 0xFFFFF800, 0x00000000, false, [⟨0, 3, [(0, 0)]⟩]⟩,
  ⟨"TXB_ID", 0x080400, 0x80, 3, 0x3FFFFFFF, 0x00000000, 0x00000000, 0xC0000000, 0x00000000, false, []⟩,
  ⟨"TXB_CTRL", 0x080404, 0x80, 3, 0x0000003F, 0x00000000, 0x00000000, 0xFFFFFFC0, 0x00000000, false, []⟩,
  ⟨"TXB_RES", 0x080408, 0x80, 3, 0x00000000, 0x00000000, 0x00000000, 0xFFFFFE00, 0x00000000, false, []⟩,
  ⟨"TXB0_DATA", 0x080440, 0x4, 16, 0xFFFFFFFF, 0x00000000, 0x00000000, 0x00000000, 0x00000000, false, []⟩,
  ⟨"TXB1_DATA", 0x0804C0, 0x4, 16, 0xFFFFFFFF, 0x00000000, 0x00000000, 0x00000000, 0x00000000, false, []⟩,
  ⟨"TXB2_DATA", 0x080540, 0x4, 16, 0xFFFFFFFF, 0x00000000, 0x00000000, 0x00000000, 0x00000000, false, []⟩,
  ⟨"CAN_OBJSEL", 0x080200, 0x0, 1, 0x0000007F, 0x00000000, 0x00000000, 0xFFFFFF80, 0x00000000, false, []⟩,
  ⟨"OBJ_ID", 0x080240, 0x0, 1, 0xFFFFFFFF, 0x00000000, 0x00000000, 0x00000000, 0x00000000, false, []⟩,
  ⟨"OBJ_MASK", 0x080244, 0x0, 1, 0x1FFFFFFF, 0x00000000, 0x00000000, 0xE0000000, 0x1FFFFFFF, false, []⟩,
  ⟨"OBJ_CTRL", 0x080248, 0x0, 1, 0x0000003F, 0x00000000, 0x00000000, 0xFFFE0000, 0x00000000, false, []⟩,
  ⟨"OBJ_TT", 0x08024C, 0x0, 1, 0x07FFFFFF, 0x00000000, 0x00000000, 0xF8000000, 0x00000000, false, [⟨22, 3, [(0, 6)]⟩]⟩,
  ⟨"OBJ_DATA", 0x080250, 0x4, 16, 0xFFFFFFFF, 0x00000000, 0x00000000, 0x00000000, 0x00000000, false, []⟩,
  ⟨"RXF_ID", 0x080300, 0x0, 1, 0x00000000, 0x00000000, 0x00000000, 0xC0000000, 0x00000000, false, []⟩,
  ⟨"RXF_CTRL", 0x080304, 0x0, 1, 0x00000000, 0x00000000, 0x00000000, 0xFFFFC080, 0x00000000, false, []⟩,
  ⟨"RXF_TS", 0x080308, 0x0, 1, 0x00000000, 0x00000000, 0x00000000, 0x00000000, 0x00000000, false, []⟩,
  ⟨"RXF_DATA", 0x080340, 0x4, 16, 0x00000000, 0x00000000, 0x00000000, 0x00000000, 0x00000000, false, []⟩,
  ⟨"FLT_ID", 0x080380, 0x8, 8, 0xBFFFFFFF, 0x00000000, 0x00000000, 0x40000000, 0x00000000, false, []⟩,
  ⟨"FLT_MASK", 0x080384, 0x8, 8, 0x1FFFFFFF, 0x00000000, 0x00000000, 0xE0000000, 0x1FFFFFFF, false, []⟩
]

/-- The SBY registers (R364). -/
def mapSBY : List RegRow := [
  ⟨"SBY_CFG", 0x0C0008, 0x0, 1, 0x0FFFFF01, 0x00000000, 0x00000000, 0xF00000FE, 0x00000000, false, [⟨8, 8, [(1, 255)]⟩, ⟨16, 12, [(8, 4095)]⟩]⟩,
  ⟨"SBY_STAT", 0x0C000C, 0x0, 1, 0x00000000, 0x00000000, 0x00000000, 0xFFFF0C00, 0x00000020, false, []⟩,
  ⟨"SBY_EVT", 0x0C0010, 0x0, 1, 0x00000000, 0x0000003F, 0x00000000, 0xFFFFFFC0, 0x00000000, false, []⟩,
  ⟨"SBY_EVTEN", 0x0C0014, 0x0, 1, 0x0000003F, 0x00000000, 0x00000000, 0xFFFFFFC0, 0x00000000, false, []⟩,
  ⟨"SBY_PARTNER", 0x0C0018, 0x0, 1, 0x00000000, 0x00000000, 0x00000000, 0xFFFF0080, 0x00000000, false, []⟩,
  ⟨"SBY_COFFSET_LO", 0x0C0020, 0x0, 1, 0x00000000, 0x00000000, 0x00000000, 0x00000000, 0x00000000, false, []⟩,
  ⟨"SBY_COFFSET_HI", 0x0C0024, 0x0, 1, 0x00000000, 0x00000000, 0x00000000, 0xFFFF0000, 0x00000000, false, []⟩,
  ⟨"SBY_VOTE_LO", 0x0C0028, 0x0, 1, 0x00000000, 0x00000000, 0x00000000, 0x00000000, 0x00000000, false, []⟩,
  ⟨"SBY_VOTE_HI", 0x0C002C, 0x0, 1, 0x00000000, 0x00000000, 0x00000000, 0xFFFF0000, 0x00000000, false, []⟩,
  ⟨"SBY_TOFFSET", 0x0C0030, 0x0, 1, 0x00000000, 0x00000000, 0x00000000, 0x00000000, 0x00000000, false, []⟩,
  ⟨"SBY_COPYWORDS", 0x0C0034, 0x0, 1, 0x00000000, 0x00000000, 0x00000000, 0x00000000, 0x00000000, false, []⟩,
  ⟨"SBY_DELTA", 0x0C0038, 0x0, 1, 0x00000000, 0x00000000, 0x00000000, 0xFF000000, 0x00000000, false, []⟩,
  ⟨"SBY_CTRL", 0x0C003C, 0x0, 1, 0x00000000, 0x00000000, 0x00000001, 0xFFFFFFFE, 0x00000000, false, []⟩,
  ⟨"SBY_SWCNT", 0x0C0040, 0x0, 1, 0x00000000, 0x00000000, 0x00000000, 0x00000000, 0x00000000, false, []⟩,
  ⟨"SBY_LOSTCNT", 0x0C0044, 0x0, 1, 0x00000000, 0x00000000, 0x00000000, 0x00000000, 0x00000000, false, []⟩
]

/-- The VIO registers (R379). -/
def mapVIO : List RegRow := [
  ⟨"VIO_STAT", 0x0D0008, 0x0, 1, 0x00000000, 0x00000000, 0x00000000, 0xFFFF0000, 0x00000001, true, []⟩,
  ⟨"VIO_IN", 0x0D000C, 0x0, 1, 0x00000000, 0x00000000, 0x00000000, 0x00000000, 0x00000000, true, []⟩,
  ⟨"VIO_OUT", 0x0D0010, 0x0, 1, 0x00000000, 0x00000000, 0x00000000, 0xFFFF0000, 0x00000000, true, []⟩,
  ⟨"VIO_CFCNT", 0x0D0014, 0x0, 1, 0x00000000, 0x00000000, 0x00000000, 0x00000000, 0x00000000, false, []⟩,
  ⟨"VIO_CRCCNT", 0x0D0018, 0x0, 1, 0x00000000, 0x00000000, 0x00000000, 0x00000000, 0x00000000, false, []⟩,
  ⟨"VIO_CTRL", 0x0D001C, 0x0, 1, 0x00000000, 0x00000000, 0x00000001, 0xFFFFFFFE, 0x00000000, false, []⟩
]

/-- The CHK registers (R390). -/
def mapCHK : List RegRow := [
  ⟨"CHK_CTRL", 0x0E0008, 0x0, 1, 0x00000001, 0x00000000, 0x00000000, 0xFFFFFFFE, 0x00000000, false, []⟩,
  ⟨"CHK_BGCFG", 0x0E000C, 0x0, 1, 0x0000FFFF, 0x00000000, 0x00000000, 0xFFFF0000, 0x00000E10, false, [⟨0, 16, [(60, 65535)]⟩]⟩,
  ⟨"CHK_BGSTAT", 0x0E0010, 0x0, 1, 0x00000000, 0x00000006, 0x00000000, 0x0000FFF8, 0x00000000, false, []⟩,
  ⟨"CHKU_CFG", 0x0E0100, 0x40, 4, 0x000000F7, 0x00000000, 0x00000000, 0xFFFFFF08, 0x00000000, false, [⟨0, 3, [(0, 4)]⟩, ⟨4, 3, [(0, 4)]⟩]⟩,
  ⟨"CHKU_CTRL", 0x0E0104, 0x40, 4, 0x00000000, 0x00000000, 0x00000007, 0xFFFFFFF8, 0x00000000, false, []⟩,
  ⟨"CHKU_STAT", 0x0E0108, 0x40, 4, 0x00000000, 0x00000020, 0x00000000, 0xFFFFFFC0, 0x00000000, false, []⟩,
  ⟨"CHKU_EVT", 0x0E010C, 0x40, 4, 0x00000000, 0x0000001F, 0x00000000, 0xFFFFFFE0, 0x00000000, false, []⟩,
  ⟨"CHKU_EVTEN", 0x0E0110, 0x40, 4, 0x0000001F, 0x00000000, 0x00000000, 0xFFFFFFE0, 0x00000000, false, []⟩,
  ⟨"CHKU_LEN", 0x0E0114, 0x40, 4, 0xFFFFFFFF, 0x00000000, 0x00000000, 0x00000000, 0x00000000, false, []⟩,
  ⟨"CHKU_ADDR_LO", 0x0E0118, 0x40, 4, 0xFFFFFFFF, 0x00000000, 0x00000000, 0x00000000, 0x00000000, false, []⟩,
  ⟨"CHKU_ADDR_HI", 0x0E011C, 0x40, 4, 0xFFFFFFFF, 0x00000000, 0x00000000, 0x00000000, 0x00000000, false, []⟩,
  ⟨"CHKU_RUN_LO", 0x0E0120, 0x40, 4, 0xFFFFFFFF, 0x00000000, 0x00000000, 0x00000000, 0x00000000, false, []⟩,
  ⟨"CHKU_RUN_HI", 0x0E0124, 0x40, 4, 0xFFFFFFFF, 0x00000000, 0x00000000, 0x00000000, 0x00000000, false, []⟩,
  ⟨"CHKU_EXP_LO", 0x0E0128, 0x40, 4, 0xFFFFFFFF, 0x00000000, 0x00000000, 0x00000000, 0x00000000, false, []⟩,
  ⟨"CHKU_EXP_HI", 0x0E012C, 0x40, 4, 0xFFFFFFFF, 0x00000000, 0x00000000, 0x00000000, 0x00000000, false, []⟩,
  ⟨"CHKU_RES_LO", 0x0E0130, 0x40, 4, 0x00000000, 0x00000000, 0x00000000, 0x00000000, 0x00000000, false, []⟩,
  ⟨"CHKU_RES_HI", 0x0E0134, 0x40, 4, 0x00000000, 0x00000000, 0x00000000, 0x00000000, 0x00000000, false, []⟩
]

/-- The REC registers (R402). -/
def mapREC : List RegRow := [
  ⟨"REC_CTRL", 0x0F0008, 0x0, 1, 0x00000000, 0x00000000, 0x00000003, 0xFFFFFFFC, 0x00000000, false, []⟩,
  ⟨"REC_RATECFG", 0x0F000C, 0x0, 1, 0x0000FFFF, 0x00000000, 0x00000000, 0xFFFF0000, 0x00000410, false, [⟨0, 8, [(1, 255)]⟩, ⟨8, 8, [(1, 255)]⟩]⟩,
  ⟨"REC_STAT", 0x0F0010, 0x0, 1, 0x00000000, 0x00000000, 0x00000000, 0xFFFF0000, 0x00000000, false, []⟩,
  ⟨"REC_OLDEST", 0x0F0014, 0x0, 1, 0x00000000, 0x00000000, 0x00000000, 0x00000000, 0x00000000, false, []⟩,
  ⟨"REC_NEWEST", 0x0F0018, 0x0, 1, 0x00000000, 0x00000000, 0x00000000, 0x00000000, 0x00000000, false, []⟩,
  ⟨"REC_FLUSHED", 0x0F001C, 0x0, 1, 0x00000000, 0x00000000, 0x00000000, 0x00000000, 0x00000000, false, []⟩,
  ⟨"REC_EVT", 0x0F0020, 0x0, 1, 0x00000000, 0x0000001F, 0x00000000, 0xFFFFFFE0, 0x00000000, false, []⟩,
  ⟨"REC_EVTEN", 0x0F0024, 0x0, 1, 0x0000001F, 0x00000000, 0x00000000, 0xFFFFFFE0, 0x00000000, false, []⟩,
  ⟨"REC_DROPCNT", 0x0F0028, 0x0, 1, 0x00000000, 0x00000000, 0x00000000, 0x00000000, 0x00000000, false, []⟩,
  ⟨"REC_SUPPCNT", 0x0F002C, 0x0, 1, 0x00000000, 0x00000000, 0x00000000, 0x00000000, 0x00000000, false, []⟩,
  ⟨"REC_FLUSHCNT", 0x0F0030, 0x0, 1, 0x00000000, 0x00000000, 0x00000000, 0x00000000, 0x00000000, false, []⟩,
  ⟨"REC_CRCCNT", 0x0F0034, 0x0, 1, 0x00000000, 0x00000000, 0x00000000, 0x00000000, 0x00000000, false, []⟩
]

/-- The UPD registers (R423). -/
def mapUPD : List RegRow := [
  ⟨"UPD_CFG", 0x100008, 0x0, 1, 0x00000FFF, 0x00000000, 0x00000000, 0xFFFFF000, 0x0000003C, false, [⟨0, 12, [(10, 3600)]⟩]⟩,
  ⟨"UPD_SESS", 0x10000C, 0x0, 1, 0x00000000, 0x00000000, 0x00000000, 0xFFE00000, 0x00000000, false, []⟩,
  ⟨"UPD_RECV", 0x100010, 0x0, 1, 0x00000000, 0x00000000, 0x00000000, 0x00000000, 0x00000000, false, []⟩,
  ⟨"UPD_TOTAL", 0x100014, 0x0, 1, 0x00000000, 0x00000000, 0x00000000, 0x00000000, 0x00000000, false, []⟩,
  ⟨"UPD_BANK_STAT", 0x100018, 0x10, 2, 0x00000000, 0x00000000, 0x00000000, 0xFFFFF080, 0x00000000, false, []⟩,
  ⟨"UPD_BANK_VER", 0x10001C, 0x10, 2, 0x00000000, 0x00000000, 0x00000000, 0x00000000, 0x00000000, false, []⟩,
  ⟨"UPD_BANK_SVN", 0x100020, 0x10, 2, 0x00000000, 0x00000000, 0x00000000, 0x00000000, 0x00000000, false, []⟩,
  ⟨"UPD_BANK_LVER", 0x100024, 0x10, 2, 0x00000000, 0x00000000, 0x00000000, 0x00000000, 0x00000000, false, []⟩,
  ⟨"UPD_FLOOR", 0x100038, 0x0, 1, 0x00000000, 0x00000000, 0x00000000, 0x00000000, 0x00000000, false, []⟩,
  ⟨"UPD_TRIAL", 0x10003C, 0x0, 1, 0x00000000, 0x00000000, 0x00000000, 0xFFFF80FC, 0x00000000, false, []⟩,
  ⟨"UPD_BOOT", 0x100040, 0x0, 1, 0x00000000, 0x00000000, 0x00000000, 0xFFFFFFC0, 0x00000000, false, []⟩,
  ⟨"UPD_BOOTCNT", 0x100044, 0x0, 1, 0x00000000, 0x00000000, 0x00000000, 0x00000000, 0x00000000, true, []⟩,
  ⟨"UPD_LCCMD", 0x100048, 0x0, 1, 0x00000000, 0x00000000, 0x00000001, 0xFFFFFFFE, 0x00000000, false, []⟩,
  ⟨"UPD_LCSTAT", 0x10004C, 0x0, 1, 0x00000000, 0x00000000, 0x00000000, 0xFFFFFC00, 0x00000000, false, []⟩,
  ⟨"UPD_EVT", 0x100050, 0x0, 1, 0x00000000, 0x0000007F, 0x00000000, 0xFFFFFF80, 0x00000000, false, []⟩,
  ⟨"UPD_EVTEN", 0x100054, 0x0, 1, 0x0000007F, 0x00000000, 0x00000000, 0xFFFFFF80, 0x00000000, false, []⟩,
  ⟨"UPD_TOKEN", 0x100400, 0x4, 256, 0xFFFFFFFF, 0x00000000, 0x00000000, 0x00000000, 0x00000000, false, []⟩
]

/-- The KLN registers (R433). -/
def mapKLN : List RegRow := [
  ⟨"KLN_STAT", 0x110008, 0x0, 1, 0x00000000, 0x00000000, 0x00000000, 0xFFFFFF80, 0x00000000, false, []⟩,
  ⟨"KLN_RESULT", 0x11000C, 0x0, 1, 0x00000000, 0x00000000, 0x00000000, 0xFFFFFF00, 0x00000000, false, []⟩,
  ⟨"KLN_CLKA", 0x110010, 0x0, 1, 0x00000000, 0x00000000, 0x00000000, 0x00000000, 0x00000000, false, []⟩,
  ⟨"KLN_CLKB", 0x110014, 0x0, 1, 0x00000000, 0x00000000, 0x00000000, 0x00000000, 0x00000000, false, []⟩,
  ⟨"KLN_CLKC", 0x110018, 0x0, 1, 0x00000000, 0x00000000, 0x00000000, 0x00000000, 0x00000000, false, []⟩,
  ⟨"KLN_SUPPLY", 0x11001C, 0x0, 1, 0x00000000, 0x00000000, 0x00000000, 0xFFFFFE00, 0x00000000, false, []⟩,
  ⟨"KLN_EVDIS", 0x110020, 0x0, 1, 0x00000000, 0x00000000, 0x00000000, 0xFF808080, 0x00000000, false, []⟩,
  ⟨"KLN_SPARE", 0x110024, 0x0, 1, 0x00000000, 0x00000000, 0x00000000, 0xFF808080, 0x00000000, false, []⟩,
  ⟨"KLN_LOGCNT", 0x110028, 0x0, 1, 0x00000000, 0x00000000, 0x00000000, 0x0000FFC0, 0x00000000, false, []⟩,
  ⟨"KLN_LOGSEL", 0x11002C, 0x0, 1, 0x0000001F, 0x00000000, 0x00000000, 0xFFFFFFE0, 0x00000000, false, []⟩,
  ⟨"KLN_LOGINFO", 0x110030, 0x0, 1, 0x00000000, 0x00000000, 0x00000000, 0xFF000000, 0x00000000, false, []⟩,
  ⟨"KLN_LOGADDR", 0x110034, 0x0, 1, 0x00000000, 0x00000000, 0x00000000, 0x00000000, 0x00000000, false, []⟩,
  ⟨"KLN_CMD", 0x110038, 0x0, 1, 0x00000000, 0x00000000, 0x00000007, 0xFFFFFFF8, 0x00000000, false, []⟩,
  ⟨"KLN_EVT", 0x11003C, 0x0, 1, 0x00000000, 0x0000000F, 0x00000000, 0xFFFFFFF0, 0x00000000, false, []⟩,
  ⟨"KLN_EVTEN", 0x110040, 0x0, 1, 0x0000000F, 0x00000000, 0x00000000, 0xFFFFFFF0, 0x00000000, false, []⟩,
  ⟨"KLN_RUNTIME", 0x110044, 0x0, 1, 0x00000000, 0x00000000, 0x00000000, 0xFFFF0000, 0x00000000, false, []⟩
]

/-- The PWR registers (R455). -/
def mapPWR : List RegRow := [
  ⟨"PWR_STAT", 0x120008, 0x0, 1, 0x00000000, 0x00000000, 0x00000000, 0xFFFFE000, 0x00000000, true, []⟩,
  ⟨"PWR_RSTCAUSE", 0x12000C, 0x0, 1, 0x00000000, 0x00000000, 0x00000000, 0xFFFFFFF0, 0x00000000, false, []⟩,
  ⟨"PWR_PFWCNT", 0x120010, 0x0, 1, 0x00000000, 0x00000000, 0x00000000, 0x00000000, 0x00000000, false, []⟩,
  ⟨"PWR_CTRL", 0x120014, 0x0, 1, 0x00000000, 0x00000000, 0x00000001, 0xFFFFFFFE, 0x00000000, false, []⟩,
  ⟨"PWR_TEMPCFG", 0x120018, 0x0, 1, 0x000000FF, 0x00000000, 0x00000000, 0xFFFFFF00, 0x00000078, true, [⟨0, 8, [(60, 125)]⟩]⟩,
  ⟨"PWR_VMON", 0x120020, 0x4, 10, 0x00000000, 0x00000000, 0x00000000, 0xFFFF0000, 0x00000000, true, []⟩,
  ⟨"PWR_TEMP", 0x120048, 0x4, 5, 0x00000000, 0x00000000, 0x00000000, 0xFFFE0000, 0x00000000, true, []⟩,
  ⟨"PWR_TEMPPEAK", 0x12005C, 0x0, 1, 0x00000000, 0x00000000, 0x00000000, 0xFFFF0000, 0x00000000, true, []⟩
]

/-- The DBG registers (R202). -/
def mapDBG : List RegRow := [
  ⟨"DBG_WYLCFG", 0x130008, 0x0, 1, 0x0000000F, 0x00000000, 0x00000000, 0xFFFFFFF0, 0x00000004, false, [⟨0, 4, [(1, 8)]⟩]⟩,
  ⟨"DBG_EVALS", 0x13000C, 0x0, 1, 0x00000000, 0x00000000, 0x00000000, 0xFF808080, 0x00000000, false, []⟩,
  ⟨"DBG_CXFAULT", 0x130010, 0x0, 1, 0x00000000, 0x00000000, 0x00000000, 0x00000000, 0x00000003, false, []⟩,
  ⟨"DBG_CXELEM", 0x130014, 0x0, 1, 0x00000000, 0x00000000, 0x00000000, 0xFF800000, 0x00000000, false, []⟩,
  ⟨"DBG_CXCNT", 0x130018, 0x0, 1, 0x00000000, 0x00000000, 0x00000000, 0x00000000, 0x00000000, false, []⟩,
  ⟨"DBG_CANARY", 0x13001C, 0x0, 1, 0x00000000, 0x00000000, 0x00000000, 0xFFFFFEC0, 0x00000000, false, []⟩,
  ⟨"DBG_SIG_LO", 0x130020, 0x0, 1, 0x00000000, 0x00000000, 0x00000000, 0x00000000, 0x00000000, false, []⟩,
  ⟨"DBG_SIG_HI", 0x130024, 0x0, 1, 0x00000000, 0x00000000, 0x00000000, 0x00000000, 0x00000000, false, []⟩,
  ⟨"DBG_CTRL", 0x130030, 0x0, 1, 0x00000001, 0x00000000, 0x0000000E, 0xFFFFFFC0, 0x00000000, false, []⟩,
  ⟨"DBG_BRK0", 0x130034, 0x0, 1, 0x1FFFFFFF, 0x00000000, 0x00000000, 0xE0000000, 0x00000000, false, [⟨23, 3, [(0, 5)]⟩, ⟨26, 3, [(0, 3)]⟩]⟩,
  ⟨"DBG_BRK1", 0x130038, 0x0, 1, 0x1FFFFFFF, 0x00000000, 0x00000000, 0xE0000000, 0x00000000, false, [⟨23, 3, [(0, 5)]⟩, ⟨26, 3, [(0, 3)]⟩]⟩,
  ⟨"DBG_HALTPT", 0x130040, 0x0, 1, 0x00000000, 0x00000000, 0x00000000, 0xFFFF0000, 0x00000000, false, []⟩,
  ⟨"DBG_HALTCYC_LO", 0x130044, 0x0, 1, 0x00000000, 0x00000000, 0x00000000, 0x00000000, 0x00000000, false, []⟩,
  ⟨"DBG_HALTCYC_HI", 0x130048, 0x0, 1, 0x00000000, 0x00000000, 0x00000000, 0xFFFF0000, 0x00000000, false, []⟩,
  ⟨"DBG_JSTAT", 0x13004C, 0x0, 1, 0x00000000, 0x00000000, 0x00000000, 0xFFFFC000, 0x00000000, false, []⟩
]

/-- The registers of every block, in the order of the table of R61. -/
def regMap : List RegRow :=
  mapHDR ++ mapGLB ++ mapHIF ++ mapEVG ++ mapCYC ++ mapRGE ++ mapLANE ++ mapFSN ++ mapFRN ++ mapCAN ++ mapSBY ++ mapVIO ++ mapCHK ++ mapREC ++ mapUPD ++ mapKLN ++ mapPWR ++ mapDBG

end Sys2Proof.Machine

/-! The offsets by name, from the same maps. A name with `k` is an array; CAN names take the controller number first. -/
namespace Sys2Proof.Machine.R

abbrev BLKID (k : Nat) : Nat := 0x000000 + 0x10000 * k
abbrev PSTAT (k : Nat) : Nat := 0x000004 + 0x10000 * k
abbrev GLB_DEVICE : Nat := 0x000008
abbrev GLB_REV : Nat := 0x00000C
abbrev GLB_SERIAL_LO : Nat := 0x000010
abbrev GLB_SERIAL_HI : Nat := 0x000014
abbrev GLB_IMGVER : Nat := 0x000018
abbrev GLB_LCS : Nat := 0x000020
abbrev GLB_SVCLVL : Nat := 0x000024
abbrev GLB_SVCCNT : Nat := 0x000028
abbrev GLB_OPTIME_LO : Nat := 0x000030
abbrev GLB_OPTIME_HI : Nat := 0x000034
abbrev GLB_PWRCYC : Nat := 0x000038
abbrev GLB_BUSTAT : Nat := 0x00003C
abbrev GLB_ACCERR : Nat := 0x000040
abbrev GLB_ACCCNT : Nat := 0x000044
abbrev GLB_SCRATCH : Nat := 0x000048
abbrev HIF_CTRL : Nat := 0x010008
abbrev HIF_STAT : Nat := 0x01000C
abbrev HIF_STAGE : Nat := 0x010010
abbrev HIF_HELD : Nat := 0x010014
abbrev HIF_CLR : Nat := 0x010018
abbrev HIF_FETCHCNT : Nat := 0x010020
abbrev HIF_CMPLCNT : Nat := 0x010024
abbrev HIF_DISCCNT : Nat := 0x010028
abbrev HIF_RINGERR : Nat := 0x010030
abbrev HIF_RINGERRCNT : Nat := 0x010034
abbrev HIF_SQ_BASE_LO (k : Nat) : Nat := 0x011000 + 0x40 * k
abbrev HIF_SQ_BASE_HI (k : Nat) : Nat := 0x011004 + 0x40 * k
abbrev HIF_SQ_CFG (k : Nat) : Nat := 0x011008 + 0x40 * k
abbrev HIF_SQ_CTRL (k : Nat) : Nat := 0x01100C + 0x40 * k
abbrev HIF_SQ_STAT (k : Nat) : Nat := 0x011010 + 0x40 * k
abbrev HIF_SQ_OUT (k : Nat) : Nat := 0x011014 + 0x40 * k
abbrev HIF_CQ_BASE_LO (k : Nat) : Nat := 0x012000 + 0x40 * k
abbrev HIF_CQ_BASE_HI (k : Nat) : Nat := 0x012004 + 0x40 * k
abbrev HIF_CQ_CFG (k : Nat) : Nat := 0x012008 + 0x40 * k
abbrev HIF_CQ_CTRL (k : Nat) : Nat := 0x01200C + 0x40 * k
abbrev HIF_CQ_STAT (k : Nat) : Nat := 0x012010 + 0x40 * k
abbrev HIF_CQ_PEND (k : Nat) : Nat := 0x012014 + 0x40 * k
abbrev EVG_CTRL : Nat := 0x020008
abbrev EVG_STAT : Nat := 0x02000C
abbrev EVG_VECCLS : Nat := 0x020010
abbrev EVG_RR : Nat := 0x020014
abbrev EVG_SETPEND (k : Nat) : Nat := 0x020020 + 0x4 * k
abbrev EVG_CLRPEND (k : Nat) : Nat := 0x020030 + 0x4 * k
abbrev EVG_FAST (k : Nat) : Nat := 0x020040 + 0x4 * k
abbrev EVG_LEVEL (k : Nat) : Nat := 0x020050 + 0x4 * k
abbrev EVG_ACTIVE (k : Nat) : Nat := 0x020060 + 0x4 * k
abbrev EVG_LINE (k : Nat) : Nat := 0x020070 + 0x4 * k
abbrev EVG_PRIO (k : Nat) : Nat := 0x020080 + 0x4 * k
abbrev EVG_FAULTINFO : Nat := 0x0200C0
abbrev EVG_FAULTCNT : Nat := 0x0200C4
abbrev EVG_NPEND (k : Nat) : Nat := 0x020100 + 0x4 * k
abbrev EVG_FPEND (k : Nat) : Nat := 0x020200 + 0x4 * k
abbrev EVG_NEN (k : Nat) : Nat := 0x020110 + 0x4 * k
abbrev EVG_FEN (k : Nat) : Nat := 0x020210 + 0x4 * k
abbrev EVG_NCLAIM : Nat := 0x020120
abbrev EVG_FCLAIM : Nat := 0x020220
abbrev EVG_NCOMPLETE : Nat := 0x020124
abbrev EVG_FCOMPLETE : Nat := 0x020224
abbrev EVG_NSTACK : Nat := 0x020128
abbrev EVG_FSTACK : Nat := 0x020228
abbrev EVG_NDELIVCNT : Nat := 0x02012C
abbrev EVG_FDELIVCNT : Nat := 0x02022C
abbrev CYC_PERIOD : Nat := 0x030008
abbrev CYC_REQMAX : Nat := 0x03000C
abbrev CYC_OLCCFG : Nat := 0x030010
abbrev CYC_OLCSTAT : Nat := 0x030014
abbrev CYC_NUM_LO : Nat := 0x030018
abbrev CYC_NUM_HI : Nat := 0x03001C
abbrev CYC_T0_LO : Nat := 0x030020
abbrev CYC_T0_HI : Nat := 0x030024
abbrev CYC_TB_LO : Nat := 0x030028
abbrev CYC_TB_HI : Nat := 0x03002C
abbrev CYC_WORK : Nat := 0x030030
abbrev CYC_WORKPEAK : Nat := 0x030034
abbrev CYC_MARGIN : Nat := 0x030038
abbrev CYC_CTRL : Nat := 0x03003C
abbrev CYC_OVR : Nat := 0x030040
abbrev CYC_OVRCNT : Nat := 0x030044
abbrev CYC_SKIPCNT : Nat := 0x030048
abbrev CYC_DEFERCNT : Nat := 0x03004C
abbrev CYC_PRIV : Nat := 0x030050
abbrev RGE_BUDGET : Nat := 0x040008
abbrev RGE_LIFE : Nat := 0x04000C
abbrev RGE_CTRL : Nat := 0x040010
abbrev RGE_WAVES : Nat := 0x040014
abbrev RGE_STEPS : Nat := 0x040018
abbrev RGE_SETCNT : Nat := 0x040020
abbrev RGE_LOCKCNT : Nat := 0x040024
abbrev RGE_UNSETCNT : Nat := 0x040028
abbrev RGE_RETCNT : Nat := 0x04002C
abbrev RGE_EXHCNT : Nat := 0x040030
abbrev RGE_ORPHCNT : Nat := 0x040034
abbrev RGE_ERELCNT : Nat := 0x040038
abbrev RGE_LASTFAIL : Nat := 0x040040
abbrev RGE_LASTBLK : Nat := 0x040044
abbrev LANE_STATA : Nat := 0x050008
abbrev LANE_STATB : Nat := 0x05000C
abbrev LANE_STATC : Nat := 0x050010
abbrev LANE_GROUP : Nat := 0x050014
abbrev LANE_CTRL : Nat := 0x050018
abbrev LANE_RJCFG : Nat := 0x050020
abbrev LANE_RJSTAT : Nat := 0x050024
abbrev LANE_COPYWORDS : Nat := 0x050028
abbrev LANE_COPYCYC : Nat := 0x05002C
abbrev LANE_PTCFG : Nat := 0x050030
abbrev LANE_PTSTAT : Nat := 0x050034
abbrev LANE_PTDUE : Nat := 0x050038
abbrev LANE_TICK : Nat := 0x05003C
abbrev LANE_DIGA_LO : Nat := 0x050040
abbrev LANE_DIGA_HI : Nat := 0x050044
abbrev LANE_DIGB_LO : Nat := 0x050048
abbrev LANE_DIGB_HI : Nat := 0x05004C
abbrev LANE_DIGC_LO : Nat := 0x050050
abbrev LANE_DIGC_HI : Nat := 0x050054
abbrev LANE_MSGDROP : Nat := 0x050058
abbrev LANE_EXCNT : Nat := 0x05005C
abbrev LANE_RJCNT : Nat := 0x050060
abbrev FSN_CTRL : Nat := 0x060008
abbrev FSN_GCFG : Nat := 0x06000C
abbrev FSN_STAT : Nat := 0x060010
abbrev FSN_ROUND : Nat := 0x060014
abbrev FSN_MODE : Nat := 0x060018
abbrev FSN_MODECFG : Nat := 0x06001C
abbrev FSN_SWROUND : Nat := 0x060020
abbrev FSN_SCHADDR : Nat := 0x060024
abbrev FSN_SCHDATA : Nat := 0x060028
abbrev FSN_SCHCHK : Nat := 0x06002C
abbrev FSN_NODESEL : Nat := 0x060030
abbrev FSN_NODEINFO : Nat := 0x060034
abbrev FSN_CLR : Nat := 0x060038
abbrev FSN_P_STAT (k : Nat) : Nat := 0x060100 + 0x20 * k
abbrev FSN_P_EVT (k : Nat) : Nat := 0x060104 + 0x20 * k
abbrev FSN_P_EVTEN (k : Nat) : Nat := 0x060108 + 0x20 * k
abbrev FSN_P_RXCNT (k : Nat) : Nat := 0x06010C + 0x20 * k
abbrev FSN_P_RXERRCNT (k : Nat) : Nat := 0x060110 + 0x20 * k
abbrev FSN_P_CUTCNT (k : Nat) : Nat := 0x060114 + 0x20 * k
abbrev FSN_P_BABCNT (k : Nat) : Nat := 0x060118 + 0x20 * k
abbrev FSN_P_LATECNT (k : Nat) : Nat := 0x06011C + 0x20 * k
abbrev FRN_CTRL : Nat := 0x070008
abbrev FRN_CFG : Nat := 0x07000C
abbrev FRN_MEMBERS : Nat := 0x070010
abbrev FRN_SCREE : Nat := 0x070014
abbrev FRN_TIMECFG : Nat := 0x070018
abbrev FRN_SCREECFG : Nat := 0x07001C
abbrev FRN_STAT : Nat := 0x070020
abbrev FRN_OFFSET : Nat := 0x070024
abbrev FRN_RATE : Nat := 0x070028
abbrev FRN_HOLDTIME : Nat := 0x07002C
abbrev FRN_LIVE : Nat := 0x070030
abbrev FRN_GRANTED : Nat := 0x070034
abbrev FRN_CLR : Nat := 0x070038
abbrev FRN_L_STAT (k : Nat) : Nat := 0x070100 + 0x20 * k
abbrev FRN_L_EVT (k : Nat) : Nat := 0x070104 + 0x20 * k
abbrev FRN_L_EVTEN (k : Nat) : Nat := 0x070108 + 0x20 * k
abbrev FRN_L_RXCNT (k : Nat) : Nat := 0x07010C + 0x20 * k
abbrev FRN_L_RXERRCNT (k : Nat) : Nat := 0x070110 + 0x20 * k
abbrev FRN_L_CUTCNT (k : Nat) : Nat := 0x070114 + 0x20 * k
abbrev FRN_L_DELAY (k : Nat) : Nat := 0x070118 + 0x20 * k
abbrev CAN_CTRL (n : Nat) : Nat := 0x080008 + 0x10000 * n
abbrev CAN_NBT (n : Nat) : Nat := 0x08000C + 0x10000 * n
abbrev CAN_DBT (n : Nat) : Nat := 0x080010 + 0x10000 * n
abbrev CAN_STAT (n : Nat) : Nat := 0x080014 + 0x10000 * n
abbrev CAN_CMD (n : Nat) : Nat := 0x080018 + 0x10000 * n
abbrev CAN_EVT (n : Nat) : Nat := 0x08001C + 0x10000 * n
abbrev CAN_EVTEN (n : Nat) : Nat := 0x080020 + 0x10000 * n
abbrev CAN_TXCNT (n : Nat) : Nat := 0x080024 + 0x10000 * n
abbrev CAN_RXCNT (n : Nat) : Nat := 0x080028 + 0x10000 * n
abbrev CAN_ERRCNT (n : Nat) : Nat := 0x08002C + 0x10000 * n
abbrev CAN_DUPCNT (n : Nat) : Nat := 0x080030 + 0x10000 * n
abbrev CAN_VLATECNT (n : Nat) : Nat := 0x080034 + 0x10000 * n
abbrev CAN_VRXERRCNT (n : Nat) : Nat := 0x080038 + 0x10000 * n
abbrev CAN_VMARK (n : Nat) : Nat := 0x080040 + 0x10000 * n
abbrev CAN_VCMD (n : Nat) : Nat := 0x080044 + 0x10000 * n
abbrev CAN_VIN (n : Nat) : Nat := 0x080048 + 0x10000 * n
abbrev CAN_VINMASK (n : Nat) : Nat := 0x08004C + 0x10000 * n
abbrev CAN_VCTL (n : Nat) : Nat := 0x080050 + 0x10000 * n
abbrev CAN_TXREQ (n : Nat) : Nat := 0x080060 + 0x10000 * n
abbrev CAN_TXCAN (n : Nat) : Nat := 0x080064 + 0x10000 * n
abbrev CAN_OBJREQ (n : Nat) : Nat := 0x080068 + 0x10000 * n
abbrev CAN_TTCFG (n : Nat) : Nat := 0x080070 + 0x10000 * n
abbrev CAN_TTCYC (n : Nat) : Nat := 0x080074 + 0x10000 * n
abbrev CAN_TTREF (n : Nat) : Nat := 0x080078 + 0x10000 * n
abbrev TXB_ID (n k : Nat) : Nat := 0x080400 + 0x10000 * n + 0x80 * k
abbrev TXB_CTRL (n k : Nat) : Nat := 0x080404 + 0x10000 * n + 0x80 * k
abbrev TXB_RES (n k : Nat) : Nat := 0x080408 + 0x10000 * n + 0x80 * k
abbrev TXB0_DATA (n k : Nat) : Nat := 0x080440 + 0x10000 * n + 0x4 * k
abbrev TXB1_DATA (n k : Nat) : Nat := 0x0804C0 + 0x10000 * n + 0x4 * k
abbrev TXB2_DATA (n k : Nat) : Nat := 0x080540 + 0x10000 * n + 0x4 * k
abbrev CAN_OBJSEL (n : Nat) : Nat := 0x080200 + 0x10000 * n
abbrev OBJ_ID (n : Nat) : Nat := 0x080240 + 0x10000 * n
abbrev OBJ_MASK (n : Nat) : Nat := 0x080244 + 0x10000 * n
abbrev OBJ_CTRL (n : Nat) : Nat := 0x080248 + 0x10000 * n
abbrev OBJ_TT (n : Nat) : Nat := 0x08024C + 0x10000 * n
abbrev OBJ_DATA (n k : Nat) : Nat := 0x080250 + 0x10000 * n + 0x4 * k
abbrev RXF_ID (n : Nat) : Nat := 0x080300 + 0x10000 * n
abbrev RXF_CTRL (n : Nat) : Nat := 0x080304 + 0x10000 * n
abbrev RXF_TS (n : Nat) : Nat := 0x080308 + 0x10000 * n
abbrev RXF_DATA (n k : Nat) : Nat := 0x080340 + 0x10000 * n + 0x4 * k
abbrev FLT_ID (n k : Nat) : Nat := 0x080380 + 0x10000 * n + 0x8 * k
abbrev FLT_MASK (n k : Nat) : Nat := 0x080384 + 0x10000 * n + 0x8 * k
abbrev SBY_CFG : Nat := 0x0C0008
abbrev SBY_STAT : Nat := 0x0C000C
abbrev SBY_EVT : Nat := 0x0C0010
abbrev SBY_EVTEN : Nat := 0x0C0014
abbrev SBY_PARTNER : Nat := 0x0C0018
abbrev SBY_COFFSET_LO : Nat := 0x0C0020
abbrev SBY_COFFSET_HI : Nat := 0x0C0024
abbrev SBY_VOTE_LO : Nat := 0x0C0028
abbrev SBY_VOTE_HI : Nat := 0x0C002C
abbrev SBY_TOFFSET : Nat := 0x0C0030
abbrev SBY_COPYWORDS : Nat := 0x0C0034
abbrev SBY_DELTA : Nat := 0x0C0038
abbrev SBY_CTRL : Nat := 0x0C003C
abbrev SBY_SWCNT : Nat := 0x0C0040
abbrev SBY_LOSTCNT : Nat := 0x0C0044
abbrev VIO_STAT : Nat := 0x0D0008
abbrev VIO_IN : Nat := 0x0D000C
abbrev VIO_OUT : Nat := 0x0D0010
abbrev VIO_CFCNT : Nat := 0x0D0014
abbrev VIO_CRCCNT : Nat := 0x0D0018
abbrev VIO_CTRL : Nat := 0x0D001C
abbrev CHK_CTRL : Nat := 0x0E0008
abbrev CHK_BGCFG : Nat := 0x0E000C
abbrev CHK_BGSTAT : Nat := 0x0E0010
abbrev CHKU_CFG (k : Nat) : Nat := 0x0E0100 + 0x40 * k
abbrev CHKU_CTRL (k : Nat) : Nat := 0x0E0104 + 0x40 * k
abbrev CHKU_STAT (k : Nat) : Nat := 0x0E0108 + 0x40 * k
abbrev CHKU_EVT (k : Nat) : Nat := 0x0E010C + 0x40 * k
abbrev CHKU_EVTEN (k : Nat) : Nat := 0x0E0110 + 0x40 * k
abbrev CHKU_LEN (k : Nat) : Nat := 0x0E0114 + 0x40 * k
abbrev CHKU_ADDR_LO (k : Nat) : Nat := 0x0E0118 + 0x40 * k
abbrev CHKU_ADDR_HI (k : Nat) : Nat := 0x0E011C + 0x40 * k
abbrev CHKU_RUN_LO (k : Nat) : Nat := 0x0E0120 + 0x40 * k
abbrev CHKU_RUN_HI (k : Nat) : Nat := 0x0E0124 + 0x40 * k
abbrev CHKU_EXP_LO (k : Nat) : Nat := 0x0E0128 + 0x40 * k
abbrev CHKU_EXP_HI (k : Nat) : Nat := 0x0E012C + 0x40 * k
abbrev CHKU_RES_LO (k : Nat) : Nat := 0x0E0130 + 0x40 * k
abbrev CHKU_RES_HI (k : Nat) : Nat := 0x0E0134 + 0x40 * k
abbrev REC_CTRL : Nat := 0x0F0008
abbrev REC_RATECFG : Nat := 0x0F000C
abbrev REC_STAT : Nat := 0x0F0010
abbrev REC_OLDEST : Nat := 0x0F0014
abbrev REC_NEWEST : Nat := 0x0F0018
abbrev REC_FLUSHED : Nat := 0x0F001C
abbrev REC_EVT : Nat := 0x0F0020
abbrev REC_EVTEN : Nat := 0x0F0024
abbrev REC_DROPCNT : Nat := 0x0F0028
abbrev REC_SUPPCNT : Nat := 0x0F002C
abbrev REC_FLUSHCNT : Nat := 0x0F0030
abbrev REC_CRCCNT : Nat := 0x0F0034
abbrev UPD_CFG : Nat := 0x100008
abbrev UPD_SESS : Nat := 0x10000C
abbrev UPD_RECV : Nat := 0x100010
abbrev UPD_TOTAL : Nat := 0x100014
abbrev UPD_BANK_STAT (k : Nat) : Nat := 0x100018 + 0x10 * k
abbrev UPD_BANK_VER (k : Nat) : Nat := 0x10001C + 0x10 * k
abbrev UPD_BANK_SVN (k : Nat) : Nat := 0x100020 + 0x10 * k
abbrev UPD_BANK_LVER (k : Nat) : Nat := 0x100024 + 0x10 * k
abbrev UPD_FLOOR : Nat := 0x100038
abbrev UPD_TRIAL : Nat := 0x10003C
abbrev UPD_BOOT : Nat := 0x100040
abbrev UPD_BOOTCNT : Nat := 0x100044
abbrev UPD_LCCMD : Nat := 0x100048
abbrev UPD_LCSTAT : Nat := 0x10004C
abbrev UPD_EVT : Nat := 0x100050
abbrev UPD_EVTEN : Nat := 0x100054
abbrev UPD_TOKEN (k : Nat) : Nat := 0x100400 + 0x4 * k
abbrev KLN_STAT : Nat := 0x110008
abbrev KLN_RESULT : Nat := 0x11000C
abbrev KLN_CLKA : Nat := 0x110010
abbrev KLN_CLKB : Nat := 0x110014
abbrev KLN_CLKC : Nat := 0x110018
abbrev KLN_SUPPLY : Nat := 0x11001C
abbrev KLN_EVDIS : Nat := 0x110020
abbrev KLN_SPARE : Nat := 0x110024
abbrev KLN_LOGCNT : Nat := 0x110028
abbrev KLN_LOGSEL : Nat := 0x11002C
abbrev KLN_LOGINFO : Nat := 0x110030
abbrev KLN_LOGADDR : Nat := 0x110034
abbrev KLN_CMD : Nat := 0x110038
abbrev KLN_EVT : Nat := 0x11003C
abbrev KLN_EVTEN : Nat := 0x110040
abbrev KLN_RUNTIME : Nat := 0x110044
abbrev PWR_STAT : Nat := 0x120008
abbrev PWR_RSTCAUSE : Nat := 0x12000C
abbrev PWR_PFWCNT : Nat := 0x120010
abbrev PWR_CTRL : Nat := 0x120014
abbrev PWR_TEMPCFG : Nat := 0x120018
abbrev PWR_VMON (k : Nat) : Nat := 0x120020 + 0x4 * k
abbrev PWR_TEMP (k : Nat) : Nat := 0x120048 + 0x4 * k
abbrev PWR_TEMPPEAK : Nat := 0x12005C
abbrev DBG_WYLCFG : Nat := 0x130008
abbrev DBG_EVALS : Nat := 0x13000C
abbrev DBG_CXFAULT : Nat := 0x130010
abbrev DBG_CXELEM : Nat := 0x130014
abbrev DBG_CXCNT : Nat := 0x130018
abbrev DBG_CANARY : Nat := 0x13001C
abbrev DBG_SIG_LO : Nat := 0x130020
abbrev DBG_SIG_HI : Nat := 0x130024
abbrev DBG_CTRL : Nat := 0x130030
abbrev DBG_BRK0 : Nat := 0x130034
abbrev DBG_BRK1 : Nat := 0x130038
abbrev DBG_HALTPT : Nat := 0x130040
abbrev DBG_HALTCYC_LO : Nat := 0x130044
abbrev DBG_HALTCYC_HI : Nat := 0x130048
abbrev DBG_JSTAT : Nat := 0x13004C

end Sys2Proof.Machine.R
end

