-- ==== Sys2Proof/Machine/State.lean ====
section
/-! DEFINITION. The state of the module: every piece of state that spec/ gives it, as plain data, with its value after reset, and the reasons a step can stop. -/

namespace Sys2Proof.Machine

/-- Three like things, one for each lane (R10). -/
structure Tri (α : Type) where
  a : α
  b : α
  c : α
deriving DecidableEq, Repr

/-- Lane states, coded as LANE_STATx.STATE (R216). -/
inductive LaneState | member | silent | copy | released | proof | out | dead
deriving DecidableEq, Repr

/-- The service levels (R42). -/
inductive Level | stopped | bedrock | reduced | full
deriving DecidableEq, Repr

/-- The module's role of a pair, coded as SBY_STAT.ROLE (R343). -/
inductive Role | alone | active | standby
deriving DecidableEq, Repr

/-- A cursor over an element table entry (R104): TYPE, FIELD, STRATUM, INIT, the four neighbour words (R94), RULEPTR and RULELEN, PARAM0, OBJ, CHAN and NET. -/
structure Elem where
  type : BitVec 4
  field : Bool
  stratum : Nat
  init : Info
  nbr : List Word
  rulePtr : Nat
  ruleLen : Nat
  param0 : Word
  obj : BitVec 20
  chan : BitVec 4
  net : BitVec 4
deriving DecidableEq, Repr

/-- A route table row (R105). -/
structure RouteRow where
  entry : ElemIx
  kind : BitVec 2
  exit : ElemIx
  overlap : Option ElemIx
  pathOff : Nat
  pathLen : Nat
deriving DecidableEq, Repr

/-- A path step (R105). -/
structure PathStep where
  elem : ElemIx
  exit : BitVec 2
  pos : BitVec 2
deriving DecidableEq, Repr

/-- A KEYMAP entry (R105). -/
structure KeyRow where
  key : ElemIx
  erelease : Bool
  reset : Bool
  stop : Bool
deriving DecidableEq, Repr

/-- A Loam image as the lanes hold it after the checks of R106: the header fields they use the loaded sections (R102, R103), and the bytes that its signature covers (R104, R422). -/
structure Loam where
  imageId : DWord
  imageVer : Word
  hcrc : Word
  certId : Bytes
  canary : ElemIx
  strata : Nat
  propmax : Nat
  elems : List Elem
  routes : List RouteRow
  path : List PathStep
  rules : List Word
  keymap : List KeyRow
  signed : Bytes
deriving DecidableEq, Repr

/-- An input entry of the field star in a snapshot (R287); `pad` holds bits [23:20] of the OBJ bytes as received, which the codes cover (R278). -/
structure FieldIn where
  port : BitVec 4
  obj : BitVec 20
  pad : BitVec 4
  record : BitVec 16
  code1 : Word
  code2 : Word
  round : Word
deriving DecidableEq, Repr

/-- An input entry of the federation ring in a snapshot (R317). -/
structure RingIn where
  src : BitVec 5
  obj : BitVec 20
  pad : BitVec 4
  record : BitVec 16
  code1 : Word
  code2 : Word
  round : Word
deriving DecidableEq, Repr

/-- An input entry of a CAN FD controller in a snapshot (R335). -/
structure CanIn where
  ctrl : BitVec 2
  obj : BitVec 20
  pad : BitVec 4
  record : BitVec 16
  code1 : Word
  code2 : Word
  cycle : BitVec 48
deriving DecidableEq, Repr

/-- The Sieve's verdict word (R212): members, agreeing set, lanes excluded, and the result of the check-word vote, where there is one, with the lanes whose check words it compared; `before` holds the members of the cycle n whose verdict it is and `cycle` its number, which the lanes hold from the cycle itself (R215). In a lane set, bit 0 is A, bit 1 B, bit 2 C. -/
structure Verdict where
  members : BitVec 3
  agree : BitVec 3
  excluded : BitVec 3
  check : Option (BitVec 3)
  voted : BitVec 3
  before : BitVec 3
  cycle : Nat
deriving DecidableEq, Repr

/-- The register values that the lanes take from a snapshot (R60, R143, R145, R163, R189, R198, R227). -/
structure Settings where
  wsteps : Nat
  wavelife : Nat
  searchmax : Nat
  offset : Nat
  window : Nat
  reqmax : Nat
  tcyc : Nat
  rjlimit : Nat
  cplimit : Nat
  dbg : Bool
deriving DecidableEq, Repr

/-- What the lanes know of an open update session (R412, R413): its number, kind and port, TOTAL, and the bytes received. -/
structure SessRep where
  num : Nat
  loam : Bool
  maint : Bool
  total : Nat
  recv : Nat
deriving DecidableEq, Repr

/-- The update engine's progress report, as a snapshot carries it (R413): the open session, the sessions and banks of the READY regions, the trial with the end of its window, and whether a Loam load or an ATTEST is in progress. -/
structure Progress where
  sess : Option SessRep
  readyF : List (Nat × Bool)
  readyL : List (Nat × Bool)
  trial : Option Bool
  trialEnd : Nat
  loading : Bool
  attesting : Bool
deriving DecidableEq, Repr

/-- A snapshot as the IOI sends it (R16, R19, R20, R147, R212, R242): with the breakpoint settings and a pending HALT (R199), and the completions of deferred work that it shows (R413). -/
structure Snap where
  cycle : Nat
  tb : Nat
  verdict : Option Verdict
  descs : List (BitVec 16 × Req)
  etlF : List FieldIn
  etlR : List RingIn
  can : List CanIn
  vio : Option VioIn
  newTick : Bool
  holdLost : Bool
  set : Settings
  recOldest : Word
  recNewest : Word
  upd : Progress
  copies : List CopyBlock
  align : Bool
  brks : List Word
  halt : Bool
  shown : List (BitVec 16 × Req × Nat × Bytes)
deriving DecidableEq, Repr

/-- Where a lane stands in LOGIC (R152), at the halt points of R199: at its entry, before a stratum of a ripple of propagation (with the elements that were dirty when the ripple began) or after its last, at the requests that follow propagation, before a wave pass, before a stratum of the sweep or after its last, at OUTPUT, or done. -/
inductive LogicAt
  | entry
  | ripple (k st : Nat) (set : List ElemIx)
  | requests
  | pass (k : Nat)
  | sweep (st : Nat)
  | output
  | done
deriving DecidableEq, Repr

/-- A delay register (R187): a primary result that waits for the shadow pass, with its element index and its check field c_p. -/
structure DelayReg where
  elem : ElemIx
  x : Info
  c : Nat
deriving DecidableEq, Repr

/-- An evaluator (0 to 63) or the lane controller (64): the primary steps it has issued in this cycle, those that its comparator has agreed, its signature accumulator, and the delay registers in use, oldest first (R187, R190, R193, R194). -/
structure UnitSt where
  issued : Nat
  agreed : Nat
  acc : DWord
  delay : List DelayReg
deriving DecidableEq, Repr

/-- What a lane reports of a cycle (R144): the counts of its route engine, whether a wave stage ran, and the state it leaves. -/
structure Report where
  setCnt : Nat
  lockCnt : Nat
  unsetCnt : Nat
  retCnt : Nat
  orphCnt : Nat
  erelCnt : Nat
  staged : Bool
  steps : Nat
  exh : Bool
  active : Nat
  lastFail : Option (ElemIx × BitVec 4 × Option ElemIx)
  sources : List Nat
deriving DecidableEq, Repr

/-- The reference up frame of R375: its FCNT and the t0 of the snapshot that carried it. -/
structure VioRef where
  fcnt : BitVec 16
  t0 : Nat
deriving DecidableEq, Repr

/-- One lane (R10): its state of R216, its rails, its memories and its work of the present cycle. `units` holds the evaluators and the controller that have worked since the latest signature close, `hot` that the die's thermal trip has opened its supply and it has not cooled since (R454), `cx` a code fault that a load or a compare has just found, `timers` the timers that the route engine has started in this cycle, `words` what assembly has built and `presented` what the latest commit presented, `place` the point that LOGIC has reached, `passHalt` that the halt point it stands at has been left by RESUME, `logicDone` that LOGIC has run in this cycle, `outNext` the vital outputs that assembly commands on, `brks` the breakpoint settings of its latest snapshot, and `armed` a HALT that has reached it and that it has not met yet (R199). -/
structure LaneSt where
  st : LaneState
  cause : BitVec 4
  chCycle : BitVec 24
  running : Bool
  rail : Bool
  inReset : Bool
  hot : Bool
  dbgHold : Bool
  sram : List Host.Cell
  eOld : Nat
  eCur : Nat
  stepped : List ElemIx
  timers : List ElemIx
  cx : Option Disturb
  reg : Regions
  units : List (Nat × UnitSt)
  sigma : DWord
  canaryBit : Nat
  canaryOk : Bool
  evalOff : Option (BitVec 6)
  set : Settings
  snap : Option Snap
  digests : Tri (Option DWord)
  decided : Bool
  inputs : List (ElemIx × BitVec 16)
  prevInputs : List (ElemIx × BitVec 16)
  vioRef : Option VioRef
  vioOk : Bool
  vioCf : Bool
  place : LogicAt
  passHalt : Bool
  logicDone : Bool
  logicPrev : Bool
  closed : Bool
  words : List OutWord
  presented : List OutWord
  digest : Option DWord
  checkOut : Option DWord
  demand : Bool
  copyReg : List (Nat × DWord)
  outOn : BitVec 16
  outNext : BitVec 16
  drive : BitVec 18
  skip : List OrdUnit
  overran : List OrdUnit
  brks : List Word
  armed : Bool
  rpt : Report
deriving DecidableEq, Repr

/-- What a lane's work of a cycle rests on besides its own state: the lane, the image, the service level, the cycle number, the module's member number (R445), the life-cycle state, whether the cycle carries a new management tick (R92), whether the module stands by or is the active of a pair (R359, R360), and whether it runs in recovery (R421). -/
structure Ctx where
  lane : Lane
  loam : Option Loam
  level : Level
  cycle : Nat
  mem : Nat
  lcs : Nat
  newTick : Bool
  standby : Bool
  recovery : Bool
deriving DecidableEq, Repr

/-- The registers of a rule program (R96): the accumulator A, the condition C, the flags U and F, and the working word W. -/
structure RuleSt where
  a : Nat
  c : Bool
  u : Bool
  f : Bool
  w : Info
deriving DecidableEq, Repr

/-- The same registers as the shadow pass holds them (R185): Ā, C̄, Ū and F̄ complemented, and W̄ transformed. -/
structure DualSt where
  na : Nat
  nc : Bool
  nu : Bool
  nf : Bool
  tw : Info
deriving DecidableEq, Repr

/-- The Sieve (R10, R48, R210 to R215). `value` is the digest of the agreeing set, and `excluded` the lanes that have left the group since the latest t0. -/
structure SieveSt where
  latch : Bool
  armed : Bool
  members : BitVec 3
  digests : Tri (Option DWord)
  concluded : Bool
  agree : BitVec 3
  value : Option DWord
  excluded : BitVec 3
  words : Tri (List OutWord)
  checks : Tri (Option DWord)
  demands : BitVec 3
  check : Option (BitVec 3)
  voted : BitVec 3
  checkOk : Bool
  suspended : Bool
deriving DecidableEq, Repr

/-- The time base and the cycle (R21, R145 to R149). `tcycW` is the T_cyc latest written in STOPPED, `tcycNext` the one that the present snapshot carries for it, `tcycLate` that it has been written in STOPPED since the present snapshot, `moved` that the latest boundary has changed the level (R45), `halted` the halted time since the latest t0 (R200), `startFrom` the count at which the last condition of the IOI's start-up came to hold (R311), `tickOld` and `tickNew` the range of stored records as it stood before the latest management tick (R19), `near` that source 79 has been raised in this cycle (R175), and `housed` that HOUSEKEEPING has run in it (R150). -/
structure CycleSt where
  tcycW : Nat
  tcycLate : Bool
  moved : Bool
  halted : Nat
  startFrom : Nat
  timeBase : Nat
  cycle : Nat
  started : Bool
  lastT0 : Nat
  tcyc : Nat
  tcycNext : Nat
  tick : Nat
  tickSeen : Nat
  tickOld : Word
  tickNew : Word
  loadedAt : Nat
  holdSince : Option Nat
  holdLost : Bool
  consensusDone : Bool
  committed : Bool
  near : Bool
  housed : Bool
deriving DecidableEq, Repr

/-- A submission ring (R233, R255). -/
structure SqSt where
  head : Nat
  tail : Nat
  err : Bool
  out : Nat
deriving DecidableEq, Repr

/-- A completion ring (R233, R240, R250, R255). -/
structure CqSt where
  head : Nat
  tail : Nat
  phase : Bool
  credit : Nat
  unsig : Nat
  oldest : Option Nat
  err : Bool
  stopping : Bool
deriving DecidableEq, Repr

/-- The descriptor reads that a turn has issued and not yet completed (R239). -/
structure Turn where
  ring : BitVec 4
  left : Nat
deriving DecidableEq, Repr

/-- The fields of the function's configuration space that host software sets (R229): the codes of the maximum payload and read request sizes, and the completion timeout with its disable. -/
structure PcieCfg where
  payload : BitVec 3
  readRequest : BitVec 3
  timeout : BitVec 4
  timeoutOff : Bool
deriving DecidableEq, Repr

/-- The host interface (R230 to R254, R266). `maint` holds the requests from PORT_MAINT that wait for a snapshot, and `maintSeq` numbers them (R412). `cfg` holds what host software has set of its configuration space, `bufs` holds the buffers read with their descriptors (R242), `bound` names the completion ring of each fetched descriptor by its fetch sequence, `lost` the descriptors whose completion a reset of R230 discards. -/
structure HifSt where
  ready : Bool
  sq : List SqSt
  cq : List CqSt
  lastRing : BitVec 4
  turn : Option Turn
  fetchSeq : Word
  staging : List (BitVec 16 × Req)
  maint : List (BitVec 16 × Req)
  maintSeq : Word
  outstanding : List (BitVec 16 × Req)
  held : List Cmpl
  reads : List (Nat × Bytes)
  bufs : List (Word × Bytes)
  bound : List (Word × BitVec 4)
  lost : List Word
  d3hot : Bool
  l1 : Bool
  pmeSent : Bool
  pmeStatus : Bool
  pmeEn : Bool
  cfg : PcieCfg
deriving DecidableEq, Repr

/-- The Event Gate (R257 to R266). `sticky` marks level sources whose pending bit SETPEND has set, `vecFast` the vectors whose held message is of the fast class, and `table` the address and data of each MSI-X vector (R231). -/
structure EvgSt where
  pend : BitVec 128
  active : BitVec 128
  line : BitVec 128
  sticky : BitVec 128
  nstack : List Nat
  fstack : List Nat
  nflag : Bool
  fflag : Bool
  nlast : BitVec 4
  flast : BitVec 4
  vecMask : BitVec 16
  fnMask : Bool
  vecPend : BitVec 16
  vecFast : BitVec 16
  table : List (DWord × Word)
deriving DecidableEq, Repr

/-- A node of a field star port (R282 to R284, R296). `cuts` holds the rounds of the charged cuts; `silent` counts the consecutive rounds without an accepted frame, `startEnd` is the round with which START's 64 rounds end, and in ADMITTED the round that follows START (0 after DRIFTING), `good` counts the consecutive good rounds of a DRIFTING node, `badStart` is the latest round with a start beyond ACCW, `seenSlots` are the owned slots started well in the present round, `mack` that the announced mode has been acknowledged, and `late` that the node became ABSENT within the present round. -/
structure NodeSt where
  st : BitVec 2
  cuts : List Nat
  offset : Byte
  silent : Nat
  startEnd : Nat
  badStart : Option Nat
  good : Nat
  seenSlots : List Nat
  heard : Bool
  mack : Bool
  late : Bool
deriving DecidableEq, Repr

/-- A Scree claim (R294, R295): number, node, and the rounds its node has been ABSENT. -/
structure Claim where
  scree : BitVec 4
  node : BitVec 3
  absent : Nat
deriving DecidableEq, Repr

/-- A field star port (R270 to R299). `on` tells that it takes part in the present round, `dropped` that EN has been cleared in it, `link` is the PHY's report at the last round start, `linkNow` its present one and `linkLost` that it has reported a loss since, `babHist` holds the rounds of the cuts charged to no slot, `asked` the claims of the present round by Scree number and node, `grant` the grant of the present round, `pos` the next queue entry to send and `sent` the entries sent so far. -/
structure PortSt where
  on : Bool
  dropped : Bool
  link : Bool
  linkNow : Bool
  linkLost : Bool
  babble : Bool
  babHist : List Nat
  nodes : List NodeSt
  claims : List Claim
  asked : List (BitVec 4 × BitVec 3)
  grant : Option (BitVec 3 × BitVec 4)
  queue : List Msg
  qcycle : Nat
  pos : Nat
  sent : Nat
  rx : List FieldIn
deriving DecidableEq, Repr

/-- The field star (R270 to R299). The schedule is sparse, keyed by mode, port and slot (R274). -/
structure FsnSt where
  round : Nat
  sched : List (Nat × Word)
  ports : List PortSt
  goRound : Nat
  swRound : Nat
deriving DecidableEq, Repr

/-- A ring link (R306, R307, R309, R320): the round of its latest frame with a correct FCS, the rounds of its cuts, the consecutive rounds with an accepted frame while it is failed, whether the present round has had one, the arrival of the latest frame that the neighbour originated, its ECHO, and whether ECHO has moved in the present round. -/
structure LinkSt where
  lastGood : Nat
  cuts : List Nat
  probeRun : Nat
  probed : Bool
  neigh : Nat
  echo : Nat
  echoed : Bool
deriving DecidableEq, Repr

/-- An accepted CLAIM (R315): the member number, the claimant's serial number, its ROUND, and whether it was accepted in the present round. -/
structure RingClaimIn where
  src : BitVec 5
  serial : BitVec 64
  round : Nat
  fresh : Bool
deriving DecidableEq, Repr

/-- The federation ring (R300 to R319). `seen1` and `seen2` hold the frames accepted on each ring and `accepted` those of either, keyed by SRC, slot kind and ROUND; `live` the members heard in the present round; `lastRef` the accepted REFs of the latest rounds by rank, member and round; `lastAny` the round of the latest accepted frame; `steered` that the rate has been changed in this round; `refLoaded` that an accepted REF has loaded the time base, `txTimes` the starts of the latest own frames, `claims` the CLAIMs accepted of late, `silence` the rounds without a frame of each granted member, `claimFree` the SCREEFREE of the latest REF, `ppsLast` the latest PPS_IN edge used, and `sentRound` the round of the latest frame in the own slot. -/
structure FrnSt where
  links : List LinkSt
  seen1 : List Nat
  seen2 : List Nat
  accepted : List Nat
  live : BitVec 32
  lastRef : List (BitVec 3 × BitVec 5 × Nat)
  lastAny : Option Nat
  enabledAt : Nat
  okRounds : Nat
  offsetOk : Bool
  steered : Bool
  everSynced : Bool
  coldSent : Nat
  backoffEnd : Nat
  coldSource : Bool
  refLoaded : Bool
  txTimes : List Nat
  claims : List RingClaimIn
  claimFree : BitVec 32
  grantNext : Option (BitVec 5)
  silence : List (BitVec 5 × Nat)
  ppsLast : Option Nat
  sentRound : Option Nat
  queue : List Msg
  qcycle : Nat
  pos : Nat
  sent : Nat
  rx : List RingIn
deriving DecidableEq, Repr

/-- The request state of a transmit buffer or a send object (R330, R331). -/
structure TxSt where
  pending : Bool
  cancel : Bool
  res : Byte
  rvalid : Bool
deriving DecidableEq, Repr

/-- A received frame with its time stamp (R327). -/
structure RxFrame where
  frame : CanFrame
  ts : Word
deriving DecidableEq, Repr

/-- A message object (R328, R329, R341). -/
structure ObjSt where
  id : Word
  mask : Word
  dlc : BitVec 4
  fdf : Bool
  brs : Bool
  new : Bool
  ovr : Bool
  tt : Word
  data : List Word
  tx : TxSt
  shadow : Option CanFrame
  due : Bool
deriving DecidableEq, Repr

/-- What a controller is sending (R326, R328, R334). -/
inductive CanTx | buf (b : Nat) | obj (o : Nat) | vital | reference
deriving DecidableEq, Repr

/-- A vital frame in progress (R333, R334): a mark frame or the entries of a command frame, the cycle, and whether the entries are in their first pass. -/
structure VitalTx where
  mark : Bool
  cycle : Nat
  entries : List Msg
  first : Bool
deriving DecidableEq, Repr

/-- The window of time-triggered operation that is open (R339). -/
inductive TtWindow | none | exclusive (o : Nat) | arbitrating
deriving DecidableEq, Repr

/-- A CAN FD controller (R322 to R342). -/
structure CanSt where
  tec : Nat
  rec0 : Nat
  st : BitVec 2
  recovering : Bool
  txb : List TxSt
  fifo : List RxFrame
  objs : List (Nat × ObjSt)
  lock : Bool
  cur : Option CanTx
  won : Bool
  vcur : Option VitalTx
  refDue : Bool
  dup : List Nat
  markDue : Option Nat
  vqueue : List Msg
  vcycle : Nat
  vpos : Nat
  vpass : Nat
  vrx : List CanIn
  ttSync : Bool
  ttMaster : Bool
  ttCount : Nat
  ttRef : Nat
  window : TtWindow
deriving DecidableEq, Repr

/-- The standby pairing (R343 to R365): `role` is the role committed at the latest commit and `acting` the one in force in the present cycle (R345), `plan` what the active copies in this cycle (0 nothing, 1 the full pass, 2 a delta, `planHand` with a handover) and `blocks` what its lanes have presented for it, `fullIn` that a full copy has begun to arrive, `rxCycle` and `rxCount` the copy blocks received of the latest cycle, `inbox` holds the copy blocks received since the latest t0; `base` and `baseReg` are the words that the partner has been sent, against which a delta is formed (R354), `pairenNow` and `cpLimit` the PAIREN and CPLIMIT that the latest reset took (R364), `deltaLost` that a delta copy has overrun and no full copy has begun since (R154), `malformed` the malformed pair messages received (R52), and `openAt` the count after which the ports of a module that has become active are open (R272, R319, R358). -/
structure SbySt where
  role : Role
  acting : Role
  strap : Bool
  elig : Bool
  link : Bool
  heard : BitVec 4
  heardNow : Bool
  lastFrame : Nat
  min : BitVec 2
  copy : BitVec 2
  handover : Option Nat
  lost : BitVec 4
  partner : Option PartnerStatus
  coffset : Int
  vote : Option Nat
  held : Option Nat
  acked : Option Nat
  copyStart : Nat
  fullIn : Bool
  fullDone : Bool
  plan : BitVec 2
  planHand : Bool
  blocks : Tri (List CopyBlock)
  rxCycle : Nat
  rxCount : Nat
  offered : Bool
  switchReq : Option Req
  takeover : Option Nat
  timeDone : Bool
  waitOver : Bool
  refused : Bool
  pairenNow : Bool
  cpLimit : Nat
  firstDone : Bool
  inbox : List CopyBlock
  base : List Info
  baseReg : Option Regions
  deltaLost : Bool
  malformed : Nat
  openAt : Option Nat
deriving DecidableEq, Repr

/-- The vital field side and the IOI's end of its link (R366 to R380). In the sets by output or input, `otest` and `itest` hold the failed ones and `otMay` and `itMay` those that a reset has since allowed to clear (R378); `runs` counts, per input, the consecutive samples that differ from its filtered state; `darkOn` holds the outputs in a dark test and `darkTurn` those whose test is of S2 next (R370); `clearing` holds the causes, OV as true, in the order in which VFLD has come back within their limits (R366); `rbWant` is the state that each readback should have, `rbAge` the samples since it last changed, up to 40, and `rbBad` the readbacks that differ (R371); `badDown` counts the down frames with a wrong CRC (R374) and `sentCmd` is CMD of the latest one sent (R379); `s2` holds the closed S2 switches and `downOk` the consecutive accepted down frames. `last` is the latest up frame with a correct CRC and `prior` the latest one that arrived before the next t0 where `last` did not, `faulted` the common fault as the IOI holds it. -/
structure VioSt where
  mv : Nat
  inReset : Bool
  uv : Bool
  ov : Bool
  otest : BitVec 16
  itest : BitVec 32
  otMay : BitVec 16
  itMay : BitVec 32
  ovld : BitVec 16
  downErr : Bool
  start : Bool
  filt : BitVec 32
  runs : List Nat
  inTested : BitVec 32
  darkS1 : BitVec 16
  darkS2 : BitVec 16
  darkOn : BitVec 16
  darkTurn : BitVec 16
  clearing : List Bool
  rbWant : BitVec 16
  rbAge : List Nat
  rbBad : BitVec 16
  badDown : Nat
  sentCmd : BitVec 16
  cmd : BitVec 16
  run : Bool
  s2 : BitVec 16
  seq : Byte
  fcnt : BitVec 16
  downOk : Nat
  linkSilent : Bool
  faulted : Bool
  ioiCmd : BitVec 16
  ioiSeq : Byte
  last : Option VioIn
  prior : Option VioIn
deriving DecidableEq, Repr

/-- Shale (R392 to R403). `flash` holds the stored bytes; block `wblock` is being written at record `wslot`; `eraseDue`: writing has begun in a block, and the erase of the next is still to come; `eraseHeld`: it came due under a power-fail warning, which lets none begin. `tokens` holds the buckets that differ from `burst`, the tokens of every bucket not listed; `supp` holds each code's suppressed count with the operating time of its first suppressed record. -/
structure RecSt where
  buf : List Bytes
  next : Word
  flash : List Host.Cell
  oldest : Word
  flushed : Word
  wblock : Nat
  wslot : Nat
  eraseDue : Bool
  eraseHeld : Bool
  blocks : List (Nat × Word)
  bad : List Nat
  flushing : Option Nat
  pfwStop : Bool
  tokens : List (BitVec 16 × Nat)
  supp : List (BitVec 16 × Nat × Nat)
  burst : Nat
deriving DecidableEq, Repr

/-- An image bank's regions as configuration and identity storage records them (R409, R418, R423). -/
structure BankSt where
  fstate : BitVec 3
  fcause : BitVec 3
  pref : Bool
  lstate : BitVec 3
  lact : Bool
  version : Word
  svn : Word
  pairfmt : Byte
  lver : Word
  lid : DWord
  flen : Nat
  llen : Nat
  fcrc : Word
  lcrc : Word
deriving DecidableEq, Repr

/-- Configuration and identity storage and the image banks (R405 to R409, R423), with the keys of R408: symmetric keys of 32 bytes, and moduli and the private exponent of the identity key of 384. `refreshed` names for each region of R490 the interval of operating time in which it was last refreshed. -/
structure StoredSt where
  lcs : BitVec 3
  pendLcs : BitVec 3
  ownerKey : Bytes
  loamKey : Bytes
  loamKeyNew : Bytes
  keySeq : Word
  imageKey : Bytes
  firmwareKey : Bytes
  storageKey : Bytes
  identityKey : Bytes
  identityPrivate : Bytes
  identityCert : Bytes
  refreshed : List Nat
  sbyCfg : Word
  floor : Word
  bank0 : BankSt
  bank1 : BankSt
  mem0 : List Host.Cell
  mem1 : List Host.Cell
deriving DecidableEq, Repr

/-- The backup domain (R451, R452). `us` counts the microseconds of operation since the count began. -/
structure BackupSt where
  us : Nat
  pwrcyc : Word
  bootcnt : Word
  tempPeak : BitVec 16
  lcs : BitVec 3
  trial : Option Bool
  valid : Bool
  onVbat : Bool
  vbatLost : Bool
  vbatLow : Bool
  osc : Bool
deriving DecidableEq, Repr

/-- An open update session (R412, R413). `waiting` holds the descriptors whose completion waits on the engine, in their order: an open until the region is erased, writes with their buffer bytes until these are programmed, and a close behind writes. -/
structure Sess where
  num : Nat
  loam : Bool
  maint : Bool
  bank : Bool
  total : Nat
  recv : Nat
  erased : Bool
  lastAt : Nat
  waiting : List (BitVec 16 × Req × Bytes)
deriving DecidableEq, Repr

/-- The update engine (R412 to R422). `readyF` and `readyL` name the session and bank of each READY region; `load` is the Loam activation in progress; `attest` is the fetch sequence of an ATTEST that has not completed; `loamRead` tells whether the Loam region in use can be read at this boot; `erasing` names the region, by bank and kind, whose erase goes on after its session has ended, and `held` the programs of storage, an activation or (true) a confirm of a bank, that a power-fail warning holds (R446). -/
structure UpdSt where
  sess : Option Sess
  opened : Nat
  readyF : List (Nat × Bool)
  readyL : List (Nat × Bool)
  trial : Option Bool
  trialEnd : Nat
  booted : Option Bool
  recovery : Bool
  activate : Bool
  load : Option (Bool × Req)
  attest : Option Word
  tokenBusy : Bool
  loamRead : Bool
  erasing : Option (Bool × Bool)
  held : List (Bool × Bool)
deriving DecidableEq, Repr

/-- One entry of Kiln's log (R430): the failure and its action code. -/
structure KilnLog where
  fail : KilnFail
  action : BitVec 3
deriving DecidableEq, Repr

/-- Kiln (R425 to R434). -/
structure KilnSt where
  log : List KilnLog
  direct : Option Lane
deriving DecidableEq, Repr

/-- One journalled write of the debugger: the cycle, the halt point as DBG_HALTPT codes it, the index, the old word and the new word (R201). -/
structure Journal where
  cycle : Nat
  point : Word
  elem : ElemIx
  old : Info
  new : Info
deriving DecidableEq, Repr

/-- The debug support (R198 to R201): `haltPend` a HALT that the next snapshot carries, `haltedAt` the time-base count of the present halt. -/
structure DbgSt where
  haltedAt : Nat
  halted : Bool
  haltPend : Bool
  journal : List Journal
deriving DecidableEq, Repr

/-- The check units beside their registers (R389): the management ticks since the background pass before. -/
structure ChkSt where
  ticks : Nat
deriving DecidableEq, Repr

/-- The test access port (R431): the instruction register, the boundary cells and the word last shifted out. -/
structure JtagSt where
  ir : Byte
  cells : List Bool
  dr : BitVec 64
deriving DecidableEq, Repr

/-- Power, reset and boot progress (R437 to R446, R420): `por` while in power-on reset, `railOut` where a rail has brought it about, `below` once VDD33 has been below the BU threshold, `resetN` where RESET_N was asserted meanwhile, `ioiHot` until the IOI die has cooled after a trip (R454); `rails` are the levels of the nine logic rails in mV (R435), `addr` the strap ADDR as it was sampled (R445), `pfwAt` the time base at the latest power-fail warning (R398); and `ioiLost` once a channel fault of the I/O island has been declared (R14). -/
structure PowerSt where
  por : Bool
  railOut : Bool
  below : Bool
  ioiTrip : Bool
  resetN : Bool
  ioiHot : Bool
  rails : List (BitVec 16)
  addr : BitVec 6
  pfwAt : Nat
  pfw : Bool
  booted : Bool
  kilnDone : Bool
  refused : Bool
  retired : Bool
  ioiLost : Bool
deriving DecidableEq, Repr

/-- A rejoin in progress (R220 to R223). `limit` is the RJLIMIT that reached the lanes before it was accepted (R227), `fromA` and `fromB` the copy words of the lower- and the higher-lettered member that wait for their like, and `gotRegions` tells that region words have been taken. -/
structure Rejoin where
  lane : Lane
  r : Nat
  step : BitVec 3
  fromA : List CopyItem
  fromB : List CopyItem
  ended : BitVec 2
  k : Option Nat
  silOk : Nat
  proof : Bool
  limit : Nat
  gotRegions : Bool
deriving DecidableEq, Repr

/-- Membership work that waits on a boundary or a vote (R44, R219, R224, R432), and the lanes whose static CRC scan found a mismatch in the present scan period, with the tick of the first (R43). `judged` holds the requests of the present snapshot that the module has judged, each with its completion unless that is deferred; `due` the deferred completions that the next snapshot shows as done, and `shown` those that the present one shows, and `upd` is the update engine as the lanes know it: the report of their snapshot, with what they have executed since (R413). -/
structure GroupSt where
  upd : Progress
  judged : List (Word × Option (Nat × Bytes))
  due : List (BitVec 16 × Req × Nat × Bytes)
  shown : List (BitVec 16 × Req × Nat × Bytes)
  modeTo : Option Level
  release : List (Lane × Req)
  rejoin : Option Rejoin
  proof : Option Lane
  directLeave : Option Lane
  scanBad : BitVec 3
  scanAt : Nat
deriving DecidableEq, Repr

/-- A channel's sender and receiver state (R13, R14): the toggle of the word latest delivered, the failed attempts at the present word, whether the sender has stopped using the channel, the request, acknowledge and reject rails, and the payload latest delivered. -/
structure ChanSt where
  chan : Chan
  toggle : Bool
  attempts : Nat
  stopped : Bool
  req : Bool
  ack : Bool
  rej : Bool
  word : Option DWord
deriving DecidableEq, Repr

/-- What the module sends out at its contacts and links: memory writes and reads on PCIe (R239, R244, R246), MSI-X messages (R265), PME (R252), completions for PORT_MAINT (R412), frames on each network, on the standby link and on the isolation link, and words at the test access port. -/
inductive Output
  | pcieWrite (addr : Nat) (b : Bytes)
  | pcieRead (addr : Nat) (n : Nat)
  | msix (v : BitVec 4) (addr : DWord) (data : Word)
  | maintCompletion (c : Cmpl)
  | pme
  | etlF (p : BitVec 4) (b : Bytes)
  | etlR (ring : BitVec 1) (b : Bytes)
  | canFrame (n : BitVec 2) (id : BitVec 29) (ide fdf brs : Bool) (b : Bytes)
  | pairVote (b : CopyBlock)
  | pairCopy (b : CopyBlock)
  | pairAck (cycle : Nat)
  | pairRefuse
  | pairStatus (p : PartnerStatus)
  | pairTime (tb : Nat)
  | isoDown (b : Bytes)
  | isoUp (b : Bytes)
  | tdo (w : BitVec 64)
  | pins (b : List Bool)
  | scan (b : List Bool)
  | ppsOut
deriving DecidableEq, Repr

/-- The state of the module. -/
structure State where
  -- power, storage and backup
  power : PowerSt
  bu : BackupSt
  stored : StoredSt
  -- BAR0: the register file (RW, W1C, RSVK bits, counters and plain status), the shadows of R70 and R71, the posted writes of R73, and the value the latest register read returned
  regs : List (Nat × Word)
  rdShadow : List (Nat × Src × Nat × Word)
  wrShadow : List (Nat × Nat × Word)
  posted : List (SlowBlock × Nat × Word)
  lastRead : Word
  lastLow : Word
  -- level and membership
  level : Level
  prevLevel : Level
  levelCause : BitVec 4
  group : GroupSt
  -- the islands
  lanes : Tri LaneSt
  sieve : SieveSt
  chans : List ChanSt
  cyc : CycleSt
  snap : Option Snap
  loam : Option Loam
  loamNext : Option Loam
  hif : HifSt
  evg : EvgSt
  fsn : FsnSt
  frn : FrnSt
  can : List CanSt
  sby : SbySt
  vio : VioSt
  chk : ChkSt
  shale : RecSt
  upd : UpdSt
  kiln : KilnSt
  dbg : DbgSt
  jtag : JtagSt
  -- the model's own fields: what has been sent, the counter of free values, and the queue of waiting commands
  out : List Output
  free : Nat
  pending : List Instr
deriving DecidableEq, Repr

/-- Nothing that a command does stops the module: the spec gives every command an effect, so no step ends in a fault. -/
inductive Fault
deriving DecidableEq, Repr

/-- The one reason a command is refused. -/
inductive Refusal
  /-- Raised by an arm of `exec` whose command has no meaning yet (safe: it says nothing about the module). -/
  | notModelled (mnemonic : String)
deriving DecidableEq, Repr

/-- The register values the lanes hold at reset (R142, R174, R202, R227). -/
def Settings.reset : Settings :=
  { wsteps := 8192, wavelife := 100, searchmax := 4096, offset := 4, window := 20, reqmax := 256, tcyc := 50, rjlimit := 400, cplimit := 8, dbg := false }

/-- The report of an engine that has done nothing. -/
def Progress.reset : Progress :=
  { sess := none, readyF := [], readyL := [], trial := none, trialEnd := 0, loading := false, attesting := false }

def Regions.empty : Regions :=
  { waves := [], ageCtr := 0, proposal := none, expired := none, confirmed := none, overrides := [], routeMap := [], dirty := [] }

def Report.empty : Report :=
  { setCnt := 0, lockCnt := 0, unsetCnt := 0, retCnt := 0, orphCnt := 0, erelCnt := 0, staged := false, steps := 0, exh := false, active := 0, lastFail := none, sources := [] }

/-- A lane right after a module reset (R441): its controller stopped and its withdraw rail raised until Kiln has judged it (R205, R428). -/
def LaneSt.reset : LaneSt :=
  { st := .out, cause := 0, chCycle := 0, running := false, rail := true, inReset := true, hot := false, dbgHold := false,
    sram := [], eOld := 0, eCur := 0, stepped := [], timers := [], cx := none, reg := Regions.empty, units := [], sigma := 0,
    canaryBit := 0, canaryOk := false, evalOff := none, set := Settings.reset, snap := none, digests := ⟨none, none, none⟩, decided := false,
    inputs := [], prevInputs := [], vioRef := none, vioOk := false, vioCf := true, place := .entry, passHalt := false, logicDone := false, logicPrev := false, closed := false, words := [], presented := [],
    digest := none, checkOut := none, demand := false, copyReg := [], outOn := 0, outNext := 0, drive := 0, skip := [], overran := [],
    brks := [], armed := false, rpt := Report.empty }

def SieveSt.reset : SieveSt :=
  { latch := false, armed := false, members := 0, digests := ⟨none, none, none⟩, concluded := false, agree := 0, value := none, excluded := 0,
    words := ⟨[], [], []⟩, checks := ⟨none, none, none⟩, demands := 0, check := none, voted := 0, checkOk := false, suspended := false }

def CycleSt.reset : CycleSt :=
  { tcycW := 50, tcycLate := false, moved := false, halted := 0, startFrom := 0, timeBase := 0, cycle := 0, started := false, lastT0 := 0, tcyc := 50, tcycNext := 50, tick := 0, tickSeen := 0, tickOld := 0, tickNew := 0, loadedAt := 0,
    holdSince := none, holdLost := false, consensusDone := false, committed := false, near := false, housed := false }

def SqSt.reset : SqSt := { head := 0, tail := 0, err := false, out := 0 }

def CqSt.reset : CqSt :=
  { head := 0, tail := 0, phase := true, credit := 0, unsig := 0, oldest := none, err := false, stopping := false }

/-- The configuration space after a reset of the function: payloads of 128 bytes and read requests of 512 (PRESUMED: the PCI family's reset values, log 61). -/
def PcieCfg.reset : PcieCfg := { payload := 0, readRequest := 2, timeout := 0, timeoutOff := false }

/-- The host interface after a module reset: every ring disabled, the fetch sequence at 0 (R230, R241, R441). The first turn searches from ring 0, as if ring 15 had been served before it (DESIGN CHOICE, log 75: R239 names the turn before, and there is none). -/
def HifSt.reset : HifSt :=
  { ready := false, sq := List.replicate 16 SqSt.reset, cq := List.replicate 16 CqSt.reset, lastRing := 15, turn := none, fetchSeq := 0,
    staging := [], maint := [], maintSeq := 0, outstanding := [], held := [], reads := [], bufs := [], bound := [], lost := [], d3hot := false, l1 := false, pmeSent := false, pmeStatus := false, pmeEn := false, cfg := PcieCfg.reset }

/-- The Event Gate after a reset (R268): nothing pending, every MSI-X vector masked as the PCI family leaves it (PRESUMED, log 24). -/
def EvgSt.reset : EvgSt :=
  { pend := 0, active := 0, line := 0, sticky := 0, nstack := [], fstack := [], nflag := false, fflag := false, nlast := 15, flast := 15,
    vecMask := 0xFFFF, fnMask := false, vecPend := 0, vecFast := 0, table := List.replicate 16 (0, 0) }

/-- The Event Gate at a module reset: source 57 is asserted, since the common fault is set (R257, R366). -/
def EvgSt.atReset : EvgSt := { EvgSt.reset with line := 1 <<< 57, pend := 1 <<< 57 }

def NodeSt.reset : NodeSt :=
  { st := 0, cuts := [], offset := 0x80, silent := 0, startEnd := 0, badStart := none, good := 0, seenSlots := [], heard := false, mack := false, late := false }

def PortSt.reset : PortSt :=
  { on := false, dropped := false, link := false, linkNow := false, linkLost := false, babble := false, babHist := [], nodes := List.replicate 8 NodeSt.reset, claims := [], asked := [],
    grant := none, queue := [], qcycle := 0, pos := 0, sent := 0, rx := [] }

def FsnSt.reset : FsnSt :=
  { round := 0, sched := [], ports := List.replicate 16 PortSt.reset, goRound := 0, swRound := 0 }

def LinkSt.reset : LinkSt := { lastGood := 0, cuts := [], probeRun := 0, probed := false, neigh := 0, echo := 0, echoed := false }

def FrnSt.reset : FrnSt :=
  { links := List.replicate 4 LinkSt.reset, seen1 := [], seen2 := [], accepted := [], live := 0, lastRef := [], lastAny := none, enabledAt := 0,
    okRounds := 0, offsetOk := false, steered := false, everSynced := false, coldSent := 0, backoffEnd := 0, coldSource := false,
    refLoaded := false, txTimes := [], claims := [], claimFree := 0, grantNext := none, silence := [], ppsLast := none, sentRound := none, queue := [], qcycle := 0,
    pos := 0, sent := 0, rx := [] }

def TxSt.reset : TxSt := { pending := false, cancel := false, res := 0, rvalid := false }

/-- A message object at reset (R341). -/
def ObjSt.reset : ObjSt :=
  { id := 0, mask := 0x1FFFFFFF, dlc := 0, fdf := false, brs := false, new := false, ovr := false, tt := 0, data := List.replicate 16 0,
    tx := TxSt.reset, shadow := none, due := false }

def CanSt.reset : CanSt :=
  { tec := 0, rec0 := 0, st := 0, recovering := false, txb := List.replicate 3 TxSt.reset, fifo := [], objs := [], lock := false, cur := none,
    won := false, vcur := none, refDue := false, dup := [], markDue := none, vqueue := [], vcycle := 0, vpos := 0, vpass := 0, vrx := [], ttSync := false, ttMaster := false,
    ttCount := 0, ttRef := 0, window := .none }

def SbySt.reset : SbySt :=
  { role := .alone, acting := .alone, strap := false, elig := false, link := false, heard := 0, heardNow := false, lastFrame := 0, min := 1, copy := 0,
    handover := none, lost := 0, partner := none, coffset := 0, vote := none, held := none, acked := none, copyStart := 0, fullIn := false, fullDone := false, plan := 0, planHand := false, blocks := ⟨[], [], []⟩, rxCycle := 0, rxCount := 0,
    offered := false, switchReq := none, takeover := none, timeDone := false, waitOver := false, refused := false, pairenNow := false, cpLimit := 0,
    firstDone := false, inbox := [], base := [], baseReg := none, deltaLost := false, malformed := 0, openAt := none }

/-- The field side before any field supply: in field-side reset, with the Start cause set (R366, R378). -/
def VioSt.reset : VioSt :=
  { mv := 0, inReset := true, uv := true, ov := false, otest := 0, itest := 0, otMay := 0, itMay := 0, ovld := 0, downErr := true, start := true,
    filt := 0, runs := List.replicate 32 0, inTested := 0, darkS1 := 0, darkS2 := 0, darkOn := 0, darkTurn := 0, clearing := [], rbWant := 0, rbAge := List.replicate 16 0, rbBad := 0, badDown := 0,
    sentCmd := 0, cmd := 0, run := false, s2 := 0, seq := 0, fcnt := 0,
    downOk := 0, linkSilent := true, faulted := true, ioiCmd := 0, ioiSeq := 0, last := none, prior := none }

/-- Shale with an empty flash, which starts at record 0 (R393); NEWEST then reads OLDEST − 1 (R402). -/
def RecSt.reset : RecSt :=
  { buf := [], next := 0, flash := [], oldest := 0, flushed := 0xFFFFFFFF, wblock := 0, wslot := 0, eraseDue := false, eraseHeld := false, blocks := [], bad := [], flushing := none,
    pfwStop := false, tokens := [], supp := [], burst := 16 }

def BankSt.reset : BankSt :=
  { fstate := 0, fcause := 0, pref := false, lstate := 0, lact := false, version := 0, svn := 0, pairfmt := 0, lver := 0, lid := 0, flen := 0,
    llen := 0, fcrc := 0, lcrc := 0 }

/-- Storage of a module as it leaves the factory: every stored value 0 (DESIGN CHOICE, log 11). -/
def StoredSt.reset : StoredSt :=
  { lcs := 0, pendLcs := 0, ownerKey := [], loamKey := [], loamKeyNew := [], keySeq := 0, imageKey := [], firmwareKey := [], storageKey := [], identityKey := [],
    identityPrivate := [], identityCert := [], refreshed := List.replicate 6 0, sbyCfg := 0, floor := 0,
    bank0 := BankSt.reset, bank1 := BankSt.reset, mem0 := [], mem1 := [] }

def BackupSt.reset : BackupSt :=
  { us := 0, pwrcyc := 0, bootcnt := 0, tempPeak := 0, lcs := 0, trial := none, valid := true, onVbat := false, vbatLost := false,
    vbatLow := false, osc := true }

def UpdSt.reset : UpdSt :=
  { sess := none, opened := 0, readyF := [], readyL := [], trial := none, trialEnd := 0, booted := none, recovery := false,
    activate := false, load := none, attest := none, tokenBusy := false, loamRead := true, erasing := none, held := [] }

def KilnSt.reset : KilnSt := { log := [], direct := none }

def DbgSt.reset : DbgSt := { haltedAt := 0, halted := false, haltPend := false, journal := [] }

def JtagSt.reset : JtagSt := { ir := 0xFF, cells := [], dr := 0 }

def PowerSt.reset : PowerSt :=
  { por := false, railOut := false, below := false, ioiTrip := false, resetN := false, ioiHot := false, rails := [800, 800, 800, 1100, 1100, 1100, 800, 1800, 3300],
    addr := 0, pfwAt := 0, pfw := false, booted := false, kilnDone := false, refused := false, retired := false, ioiLost := false }

def GroupSt.reset : GroupSt :=
  { upd := Progress.reset, judged := [], due := [], shown := [], modeTo := none, release := [], rejoin := none, proof := none, directLeave := none, scanBad := 0, scanAt := 0 }

/-- The module right after reset (R441, R444): the level STOPPED, every island reset, every register at its reset value, no command waiting. -/
def State.reset : State :=
  { power := PowerSt.reset, bu := BackupSt.reset, stored := StoredSt.reset, regs := [], rdShadow := [], wrShadow := [], posted := [],
    lastRead := 0, lastLow := 0, level := .stopped, prevLevel := .stopped, levelCause := 0, group := GroupSt.reset,
    lanes := ⟨LaneSt.reset, LaneSt.reset, LaneSt.reset⟩, sieve := SieveSt.reset, chans := [], cyc := CycleSt.reset, snap := none,
    loam := none, loamNext := none, hif := HifSt.reset, evg := EvgSt.atReset, fsn := FsnSt.reset, frn := FrnSt.reset,
    can := List.replicate 4 CanSt.reset, sby := SbySt.reset, vio := VioSt.reset, chk := { ticks := 0 }, shale := RecSt.reset, upd := UpdSt.reset,
    kiln := KilnSt.reset, dbg := DbgSt.reset, jtag := JtagSt.reset, out := [], free := 0, pending := [] }

end Sys2Proof.Machine
end

