-- ==== Sys2Proof/Machine/Ops.lean ====
section
/-! DEFINITION. The named operations over memory, registers, lanes and time that the commands share: sparse memories in canonical form, bit fields, CRCs, coded words (R176 to R181), the register file with the access log (R60 to R78), counters, and the module time base. -/

namespace Sys2Proof.Machine

/-! ### Sparse memories -/

/-- The value at key `k` of a sparse memory whose unlisted keys read as `d`. -/
def cellGet {α : Type} (d : Nat → α) (k : Nat) : List (Nat × α) → α
  | [] => d k
  | (j, v) :: t => if j = k then v else cellGet d k t

/-- Writes `v` at key `k`, keeping the canonical form: keys strictly rising, nothing listed that reads as its default. -/
def cellPut {α : Type} [DecidableEq α] (d : Nat → α) (k : Nat) (v : α) : List (Nat × α) → List (Nat × α)
  | [] => if v = d k then [] else [(k, v)]
  | (j, w) :: t =>
    if k < j then (if v = d k then (j, w) :: t else (k, v) :: (j, w) :: t)
    else if k = j then (if v = d k then t else (k, v) :: t)
    else (j, w) :: cellPut d k v t

/-- Every key of the list lies above `b`, the keys rise strictly, and no entry equals its default. -/
def cellsAbove {α : Type} [DecidableEq α] (d : Nat → α) : Option Nat → List (Nat × α) → Bool
  | _, [] => true
  | b, (j, v) :: t => (match b with | none => true | some m => decide (m < j)) && decide (v ≠ d j) && cellsAbove d (some j) t

/-- The canonical form of a sparse memory. -/
def Memory.wf {α : Type} [DecidableEq α] (d : Nat → α) (m : List (Nat × α)) : Bool := cellsAbove d none m

/-- Reads `n` consecutive bytes, lowest address first. -/
def bytesGet (d : Nat → Byte) (m : List Host.Cell) (a : Nat) : Nat → Bytes
  | 0 => []
  | n + 1 => cellGet d a m :: bytesGet d m (a + 1) n

/-- Writes consecutive bytes, lowest address first. -/
def bytesPut (d : Nat → Byte) (m : List Host.Cell) (a : Nat) : Bytes → List Host.Cell
  | [] => m
  | b :: t => bytesPut d (cellPut d a b m) (a + 1) t

/-- Removes every listed byte of a range, so that the range reads as unlisted. -/
def bytesErase (m : List Host.Cell) (a n : Nat) : List Host.Cell :=
  m.filter fun c => c.1 < a || a + n ≤ c.1

/-! ### Bytes and bit fields -/

/-- The number that little-endian bytes spell (R5). -/
def leNat : Bytes → Nat
  | [] => 0
  | b :: t => b.toNat + 256 * leNat t

/-- `n` little-endian bytes of a number (R5). -/
def leBytes : Nat → Nat → Bytes
  | 0, _ => []
  | n + 1, v => BitVec.ofNat 8 v :: leBytes n (v / 256)

/-- The number that big-endian bytes spell (R5, ETL and standby frames). -/
def beNat (b : Bytes) : Nat := leNat b.reverse

/-- `n` big-endian bytes of a number. -/
def beBytes (n v : Nat) : Bytes := (leBytes n v).reverse

/-- `n` bytes from offset `a`, taken as little-endian. -/
def leAt (b : Bytes) (a n : Nat) : Nat := leNat ((b.drop a).take n)

/-- `n` bytes from offset `a`, taken as big-endian. -/
def beAt (b : Bytes) (a n : Nat) : Nat := beNat ((b.drop a).take n)

/-- The field of `w` bits from bit `lsb` of a number (R4). -/
def fld (v lsb w : Nat) : Nat := v / 2 ^ lsb % 2 ^ w

/-- Bit `n` of a number. -/
def bitOf (v n : Nat) : Bool := v / 2 ^ n % 2 = 1

/-- A number with its field of `w` bits from bit `lsb` replaced by `x` (R4). -/
def putFld (v lsb w x : Nat) : Nat := v - fld v lsb w * 2 ^ lsb + x % 2 ^ w * 2 ^ lsb

/-- 1 for true, 0 for false. -/
def b2n (b : Bool) : Nat := if b then 1 else 0

/-- The same list padded with zero bytes, or cut, to `n` bytes. -/
def padTo (n : Nat) (b : Bytes) : Bytes := (b ++ List.replicate (n - b.length) 0).take n

/-- The pieces of a span of memory of which none holds more than m bytes or crosses a multiple of m: their addresses and lengths. -/
def spans (m addr n : Nat) : List (Nat × Nat) :=
  (List.range (n / m + 2)).filterMap fun i =>
    let lo := max addr ((addr / m + i) * m)
    let hi := min (addr + n) ((addr / m + i + 1) * m)
    if lo < hi then some (lo, hi - lo) else none

/-- Replaces the n-th entry of a list; a list that is too short stays as it is. -/
def setAt {α : Type} (l : List α) (n : Nat) (f : α → α) : List α := l.modify n f

/-- The entry of an association list. -/
def assoc {α β : Type} [DecidableEq α] (k : α) : List (α × β) → Option β
  | [] => none
  | (j, v) :: t => if j = k then some v else assoc k t

/-- Puts an entry into an association list, in place of the one with its key. -/
def assocPut {α β : Type} [DecidableEq α] (k : α) (v : β) : List (α × β) → List (α × β)
  | [] => [(k, v)]
  | (j, w) :: t => if j = k then (k, v) :: t else (j, w) :: assocPut k v t

/-- Puts an entry into an association list with rising keys. -/
def assocPutUp {β : Type} (k : Nat) (v : β) : List (Nat × β) → List (Nat × β)
  | [] => [(k, v)]
  | (j, w) :: t => if k < j then (k, v) :: (j, w) :: t else if k = j then (k, v) :: t else (j, w) :: assocPutUp k v t

/-- Puts an index into a rising list without repeats. -/
def insertUp (k : Nat) : List Nat → List Nat
  | [] => [k]
  | j :: t => if k < j then k :: j :: t else if k = j then j :: t else j :: insertUp k t

/-- Puts an entry before the first entry that it may not follow. -/
def insertBy {α : Type} (le : α → α → Bool) (x : α) : List α → List α
  | [] => [x]
  | y :: t => if le x y then x :: y :: t else y :: insertBy le x t

/-- The same list in order; entries that are level keep their order. -/
def sortBy {α : Type} (le : α → α → Bool) (l : List α) : List α := l.foldr (insertBy le) []

/-! ### CRCs (R13, R276, R381) -/

/-- One bit into a left-shifting CRC register. -/
def crcBit {w : Nat} (poly : BitVec w) (c : BitVec w) (b : Bool) : BitVec w :=
  if c.msb != b then (c <<< 1) ^^^ poly else c <<< 1

/-- One byte, most significant bit first. -/
def crcByte {w : Nat} (poly : BitVec w) (c : BitVec w) (b : Byte) : BitVec w :=
  [7, 6, 5, 4, 3, 2, 1, 0].foldl (fun c i => crcBit poly c (b.getLsbD i)) c

/-- One bit into a right-shifting CRC register; `rpoly` is the polynomial reversed. -/
def crcBitR {w : Nat} (rpoly : BitVec w) (c : BitVec w) (b : Bool) : BitVec w :=
  if c.getLsbD 0 != b then (c >>> 1) ^^^ rpoly else c >>> 1

/-- One byte, least significant bit first, into a right-shifting register. -/
def crcByteR {w : Nat} (rpoly : BitVec w) (c : BitVec w) (b : Byte) : BitVec w :=
  [0, 1, 2, 3, 4, 5, 6, 7].foldl (fun c i => crcBitR rpoly c (b.getLsbD i)) c

/-- The CRC-16 of the channels and records: polynomial 0x1021, initial value 0xFFFF, no reflection, no final XOR (R13). -/
def crc16 (b : Bytes) : BitVec 16 := b.foldl (crcByte 0x1021) 0xFFFF

/-- CRC-32C (R381). -/
def crc32c (b : Bytes) : Word := (b.foldl (crcByteR 0x82F63B78) 0xFFFFFFFF) ^^^ 0xFFFFFFFF

/-- CRC-32/ISO-HDLC (R381). -/
def crc32iso (b : Bytes) : Word := (b.foldl (crcByteR 0xEDB88320) 0xFFFFFFFF) ^^^ 0xFFFFFFFF

/-- CRC-64/ECMA-182 (R381). -/
def crc64 (b : Bytes) : DWord := b.foldl (crcByte 0x42F0E1EBA9EA3693) 0

/-- The first vital message polynomial, CODE1 (R381). -/
def vmp1 (b : Bytes) : Word := b.foldl (crcByte 0x814141AB) 0

/-- The second vital message polynomial, CODE2 (R381). -/
def vmp2 (b : Bytes) : Word := (b.foldl (crcByteR 0xC8DF352F) 0xFFFFFFFF) ^^^ 0xFFFFFFFF

/-- The 12-byte code input: DIRB, OBJ, record and STAMP, most significant byte first. -/
def codeInput (dirb : Nat) (obj : BitVec 24) (rcd : BitVec 16) (stamp : Nat) : Bytes :=
  beBytes 1 dirb ++ beBytes 3 obj.toNat ++ beBytes 2 rcd.toNat ++ beBytes 6 stamp

/-- A message with both codes for an object. The record of a NET 0x4 element goes to the IOI without codes (R374, R381). -/
def message (net : Net) (dirb : Nat) (chan : BitVec 4) (obj : BitVec 20) (rcd : BitVec 16) (stamp : Nat) : Msg :=
  let b := codeInput dirb (obj.setWidth 24) rcd stamp
  { net := net, chan := chan, obj := obj, record := rcd, code1 := vmp1 b, code2 := vmp2 b }

/-! ### Lanes -/

/-- The entry of a lane. -/
def Tri.get {α : Type} (t : Tri α) : Lane → α
  | .a => t.a
  | .b => t.b
  | .c => t.c

/-- The same with the entry of one lane replaced. -/
def Tri.set {α : Type} (t : Tri α) (l : Lane) (x : α) : Tri α :=
  match l with
  | .a => { t with a := x }
  | .b => { t with b := x }
  | .c => { t with c := x }

/-- A function applied to every entry, with its lane. -/
def Tri.map {α β : Type} (f : Lane → α → β) (t : Tri α) : Tri β := ⟨f .a t.a, f .b t.b, f .c t.c⟩

/-- The three lanes in the order A, B, C. -/
def allLanes : List Lane := [.a, .b, .c]

/-- The number of a lane: 0 A, 1 B, 2 C. -/
def laneNo : Lane → Nat
  | .a => 0
  | .b => 1
  | .c => 2

/-- The lane with a number (R219). -/
def laneOf : Nat → Option Lane
  | 0 => some .a
  | 1 => some .b
  | 2 => some .c
  | _ => none

/-- A lane's bit of a lane set: bit 0 A, bit 1 B, bit 2 C. -/
def laneBit : Lane → BitVec 3
  | .a => 1
  | .b => 2
  | .c => 4

/-- Whether a lane set holds a lane. -/
def inSet (m : BitVec 3) (l : Lane) : Bool := m &&& laneBit l != 0

/-- The lanes of a set in the order A, B, C. -/
def lanesOf (m : BitVec 3) : List Lane := allLanes.filter (inSet m)

/-- The number of lanes of a set. -/
def setSize (m : BitVec 3) : Nat := (lanesOf m).length

/-- The set of a list of lanes. -/
def setOf (l : List Lane) : BitVec 3 := l.foldl (fun m x => m ||| laneBit x) 0

/-- The state with one lane changed. -/
def State.updLane (s : State) (l : Lane) (f : LaneSt → LaneSt) : State :=
  { s with lanes := s.lanes.set l (f (s.lanes.get l)) }

/-- The state with every lane changed. -/
def State.updLanes (s : State) (f : Lane → LaneSt → LaneSt) : State := { s with lanes := s.lanes.map f }

/-- The state with every running lane changed: a lane whose controller has stopped takes no part (R22, R155). -/
def State.onRunning (s : State) (f : Lane → LaneSt → LaneSt) : State :=
  s.updLanes fun l x => if x.running then f l x else x

/-! ### Lane constants and coded words (R176, R177, R180) -/

/-- The modulus M_L (R176). -/
def modL : Lane → Nat
  | .a => 16777213
  | .b => 16777199
  | .c => 16777183

/-- The multiplier A_L (R176). -/
def mulL : Lane → Nat
  | .a => 4093
  | .b => 4091
  | .c => 4079

/-- The epoch step G_L (R176). -/
def stepL : Lane → Nat
  | .a => 65537
  | .b => 65539
  | .c => 65543

/-- The epoch base H_L (R176). -/
def baseL : Lane → Nat
  | .a => 0x123456
  | .b => 0x2B4C6D
  | .c => 0x3C5D7E

/-- The rotation r_L (R176). -/
def rotL : Lane → Nat
  | .a => 7
  | .b => 11
  | .c => 17

/-- The complement constant K_L (R176). -/
def complL : Lane → Nat
  | .a => 8186
  | .b => 65456
  | .c => 130528

/-- The epoch offset D_L(e) (R177). -/
def epochOffset (l : Lane) (e : Nat) : Nat := (e % modL l * stepL l + baseL l) % modL l

/-- The check field of information word x at epoch e (R177). -/
def checkField (l : Lane) (x : Info) (e : Nat) : Nat := (mulL l * x.toNat + epochOffset l e) % modL l

/-- The check field by the path of the shadow pass (R186). -/
def checkShadow (l : Lane) (x : Info) (e : Nat) : Nat :=
  ((complL l : Int) - mulL l * (~~~x).toNat + epochOffset l e).emod (modL l) |>.toNat

/-- The coded word: the information word below the check field (R79). -/
def codedWord (x : Info) (c : Nat) : Nat := x.toNat + 2 ^ 24 * c

/-- The constant Φ of R193. -/
def phi : Nat := 0xC6BC279692B5C323

/-- Ψ of R207. -/
def psi : Nat := 0xA5B35705F1D26C4B

/-- The signature term of a step (R193). -/
def sigTerm (idx x : Nat) : DWord := BitVec.ofNat 64 ((idx * 2 ^ 24 + x) * phi)

/-- The terms of a cycle's message stream in the signature (R193). -/
def messageTerms (ws : List OutWord) : DWord := (Config.messageWords ws).foldl (fun k p => k + sigTerm (2 ^ 23 + 2 ^ 22 + p.1) p.2.toNat) 0

/-! ### Units (R187, R193, R202) -/

/-- A unit that has done nothing since the latest signature close. -/
def UnitSt.idle : UnitSt := { issued := 0, agreed := 0, acc := 0, delay := [] }

/-- The lane controller's number among the units (R202). -/
abbrev ctlUnit : Nat := 64

/-- A unit of a lane. -/
def LaneSt.unit (x : LaneSt) (n : Nat) : UnitSt := (assoc n x.units).getD UnitSt.idle

/-- A lane with one unit changed. -/
def LaneSt.updUnit (x : LaneSt) (n : Nat) (f : UnitSt → UnitSt) : LaneSt := { x with units := assocPutUp n (f (x.unit n)) x.units }

/-- Terms of words that the controller has written other than element words enter its accumulator (R193). -/
def LaneSt.addTerms (x : LaneSt) (k : DWord) : LaneSt := x.updUnit ctlUnit fun u => { u with acc := u.acc + k }

/-! ### State SRAM (R79, R180) -/

/-- A byte of state SRAM that nothing has written: the spare coded form of its word (R180), lowest byte first (log 13). -/
def spareByte (l : Lane) (a : Nat) : Byte := BitVec.ofNat 8 (codedWord 0 (baseL l) / 256 ^ (a % 6))

/-- The stored coded word of element i, at byte address 6 × i (R79). -/
def sramWord (l : Lane) (m : List Host.Cell) (i : Nat) : Nat := leNat (bytesGet (spareByte l) m (6 * i) 6)

/-- The stored information word of element i. -/
def sramInfo (l : Lane) (m : List Host.Cell) (i : Nat) : Info := BitVec.ofNat 24 (sramWord l m i)

/-- The stored check field of element i. -/
def sramCheck (l : Lane) (m : List Host.Cell) (i : Nat) : Nat := sramWord l m i / 2 ^ 24

/-- State SRAM with element i's information word and check field written. -/
def sramPut (l : Lane) (m : List Host.Cell) (i : Nat) (x : Info) (c : Nat) : List Host.Cell :=
  bytesPut (spareByte l) m (6 * i) (leBytes 6 (codedWord x c))

/-! ### The register file (R61, R64, R75) -/

/-- The rows of a block, by its index in the BAR0 table (R61). -/
def blockRows : Nat → List RegRow
  | 0x00 => mapGLB
  | 0x01 => mapHIF
  | 0x02 => mapEVG
  | 0x03 => mapCYC
  | 0x04 => mapRGE
  | 0x05 => mapLANE
  | 0x06 => mapFSN
  | 0x07 => mapFRN
  | 0x08 => mapCAN
  | 0x0C => mapSBY
  | 0x0D => mapVIO
  | 0x0E => mapCHK
  | 0x0F => mapREC
  | 0x10 => mapUPD
  | 0x11 => mapKLN
  | 0x12 => mapPWR
  | 0x13 => mapDBG
  | _ => []

/-- The block whose map an offset follows: CAN2 to CAN4 have the map of CAN1 (R61). -/
def mapBlock (off : Nat) : Nat := if 9 ≤ off / 0x10000 ∧ off / 0x10000 ≤ 11 then 8 else off / 0x10000

/-- Whether an offset is one of a row's registers. -/
def RegRow.covers (r : RegRow) (o : Nat) : Bool :=
  decide (r.base ≤ o) && (if r.count = 1 then o == r.base else (o - r.base) % r.stride == 0 && decide ((o - r.base) / r.stride < r.count))

/-- The row of the register at a plain-view offset, if one lies there (R69). -/
def rowAt (off : Nat) : Option RegRow :=
  if off / 0x10000 ≤ 0x13 ∧ off % 0x10000 < 8 then
    if off % 0x10000 = 0 then mapHDR.head? else if off % 0x10000 = 4 then mapHDR.getLast? else none
  else (blockRows (mapBlock off)).find? (·.covers (mapBlock off * 0x10000 + off % 0x10000))

/-- The value a register holds at reset; BLKID holds the block index and BREV 0x01 (R75). -/
def regDefault (off : Nat) : Word :=
  if off % 0x10000 = 0 then BitVec.ofNat 32 (0x100 + off / 0x10000)
  else match rowAt off with
    | some r => r.reset
    | none => 0

/-- The stored word of the register at an offset. -/
def State.reg (s : State) (off : Nat) : Word := cellGet regDefault off s.regs

/-- The stored word as a number. -/
def State.regN (s : State) (off : Nat) : Nat := (s.reg off).toNat

/-- The state with a register's stored word replaced. -/
def State.setReg (s : State) (off : Nat) (w : Word) : State := { s with regs := cellPut regDefault off w s.regs }

/-- A field of a register. -/
def State.regF (s : State) (off lsb w : Nat) : Nat := fld (s.regN off) lsb w

/-- A bit of a register. -/
def State.regBit (s : State) (off n : Nat) : Bool := bitOf (s.regN off) n

/-- The state with a field of a register replaced. -/
def State.setF (s : State) (off lsb w x : Nat) : State := s.setReg off (BitVec.ofNat 32 (putFld (s.regN off) lsb w x))

/-- The state with bits of a register set. -/
def State.orReg (s : State) (off : Nat) (m : Word) : State := s.setReg off (s.reg off ||| m)

/-- The state with bits of a register cleared. -/
def State.clrReg (s : State) (off : Nat) (m : Word) : State := s.setReg off (s.reg off &&& ~~~m)

/-- A wrapping 32-bit counter raised by n. -/
def State.bump (s : State) (off n : Nat) : State := s.setReg off (s.reg off + BitVec.ofNat 32 n)

/-- A counter field of w bits from bit lsb that holds at its maximum. -/
def State.bumpSat (s : State) (off lsb w : Nat) : State :=
  s.setF off lsb w (min (s.regF off lsb w + 1) (2 ^ w - 1))

/-- A 64-bit value over a low and a high register. -/
def State.setWide (s : State) (lo : Nat) (v : DWord) : State :=
  (s.setReg lo (v.extractLsb' 0 32)).setReg (lo + 4) (v.extractLsb' 32 32)

/-- The 64-bit value of a low and a high register. -/
def State.wide (s : State) (lo : Nat) : DWord := s.reg (lo + 4) ++ s.reg lo

/-- The access log: the latest logged offset and cause, and the count that holds at 0xFFFF (R62, R76). -/
def State.logAccess (s : State) (off cause : Nat) : State :=
  (s.setReg R.GLB_ACCERR (BitVec.ofNat 32 (off % 2 ^ 22 + cause * 2 ^ 24))).bumpSat R.GLB_ACCCNT 0 16

/-! ### Handshake channels (R13, R14) -/

/-- The state of a channel; one that has carried nothing expects toggle 0 next. -/
def chanOf (s : State) (ch : Chan) : ChanSt :=
  (s.chans.find? fun x => x.chan == ch).getD { chan := ch, toggle := true, attempts := 0, stopped := false, req := false, ack := false, rej := false, word := none }

/-- The state with a channel's state replaced. -/
def setChan (s : State) (x : ChanSt) : State := { s with chans := s.chans.filter (fun y => y.chan != x.chan) ++ [x] }

/-- A channel that carries words: its sender has not stopped using it (R14). -/
def chanOpen (s : State) (ch : Chan) : Bool := !(chanOf s ch).stopped

/-- Every sub-channel of a lane's snapshot channel carries words (R16). -/
def snapOpen (s : State) (l : Lane) : Bool := (List.range 32).all fun k => chanOpen s (.snapshot l (BitVec.ofNat 5 k))

/-! ### Time, output and free values -/

/-- The module time base moves forward to a count, never back (R17, R146); the operating time counts with it while the BU runs from VDD33 and its crystal runs (R451, log 15). -/
def State.at (s : State) (t : Nat) : State :=
  { s with
    cyc := { s.cyc with timeBase := max s.cyc.timeBase t }
    bu := if s.bu.onVbat || !s.bu.osc then s.bu else { s.bu with us := s.bu.us + (t - s.cyc.timeBase) } }

/-- Operating time that passes while the time base does not run: in a boot and in Kiln (R451, log 15). -/
def State.buTime (s : State) (us : Nat) : State :=
  if s.bu.onVbat || !s.bu.osc then s else { s with bu := { s.bu with us := s.bu.us + us } }

/-- Whether an output stays away: every output of the module is high-impedance in power-on reset (R444, R461), and a lost I/O island sends nothing (R14); the field side sends by its own supply (R366), and the test access port is no part of the island. -/
def PowerSt.silences (p : PowerSt) : Output → Bool
  | .isoUp _ => false
  | .tdo _ => p.por
  | .pins _ => p.por
  | .scan _ => p.por
  | _ => p.por || p.ioiLost

/-- The bytes that a size code of Device Control stands for (PRESUMED, log 61: the PCI family's codes). -/
def sizeOf (code : BitVec 3) : Nat := 128 * 2 ^ code.toNat

/-- The largest read request that the module issues: as host software has set it, up to 512 bytes (R229). -/
def readMax (s : State) : Nat := min (sizeOf s.hif.cfg.readRequest) 512

/-- Something leaves the module. -/
def State.emit (s : State) (o : Output) : State := { s with out := if s.power.silences o then s.out else s.out ++ [o] }

/-- A span of host memory is read, in requests within the read request size (R229; log 72). -/
def State.readHost (s : State) (addr n : Nat) : State := (spans (readMax s) addr n).foldl (fun t e => t.emit (.pcieRead e.1 e.2)) s

/-- The free value that the next draw takes (log 1). -/
def State.freeNow (s : State) : BitVec 64 := Config.freeBits s.free

/-- The counter of free values moves on. -/
def State.drawn (s : State) : State := { s with free := s.free + 1 }

/-- n free bytes, eight from each draw. -/
def State.freeBytes (s : State) (n : Nat) : Bytes :=
  ((List.range ((n + 7) / 8)).flatMap fun k => leBytes 8 (Config.freeBits (s.free + k)).toNat).take n

/-- The counter of free values moves on past n bytes. -/
def State.drawnBytes (s : State) (n : Nat) : State := { s with free := s.free + (n + 7) / 8 }

/-- The cycle number as registers and entries show it (R21: 48 bits). -/
def State.cycle (s : State) : Nat := s.cyc.cycle % 2 ^ 48

/-- Operating time in milliseconds: the BU crystal periods of the counted time (R451), 48 bits wide (R76). -/
def State.optime (s : State) : Nat := s.bu.us * 32768 / 1000000 * 1000 / 32768 % 2 ^ 48

/-- The life-cycle state in force: 0 MANUFACTURE, 1 PROVISIONED, 2 DEVELOPMENT, 3 SERVICE, 4 RETIRED (R76). -/
def State.lcs (s : State) : Nat := s.bu.lcs.toNat

/-- The code of a service level (R42). -/
def Level.code : Level → Nat
  | .stopped => 0
  | .bedrock => 1
  | .reduced => 2
  | .full => 3

/-- Whether a level is FULL or REDUCED. -/
def Level.serves : Level → Bool
  | .reduced => true
  | .full => true
  | _ => false

/-- The level with a code, if the code names one (R42). -/
def levelOf : Nat → Option Level
  | 0 => some .stopped
  | 1 => some .bedrock
  | 2 => some .reduced
  | 3 => some .full
  | _ => none

/-- The code of a lane state (R216). -/
def LaneState.code : LaneState → Nat
  | .member => 0
  | .silent => 1
  | .copy => 2
  | .released => 3
  | .proof => 4
  | .out => 5
  | .dead => 6

end Sys2Proof.Machine
end

