-- ==== Sys2Proof/Machine/Flags.lean ====
section
/-! DEFINITION. Flags and what they raise: the Event Gate's pending bits, candidates and MSI-X messages (R257 to R268), the event registers of the blocks, and the records that enter Shale's buffer (R392 to R397). -/

namespace Sys2Proof.Machine

/-! ### Event Gate -/

/-- Sources 57, 70 and 71 are level sources (R257). -/
def evgIsLevel (k : Nat) : Bool := k == 57 || k == 70 || k == 71

/-- The priority of a source (R258). -/
def evgPrioOf (s : State) (k : Nat) : Nat := s.regF (R.EVG_PRIO (k / 8)) (4 * (k % 8)) 4

/-- Whether a source is of the fast class (R258). -/
def evgIsFast (s : State) (k : Nat) : Bool := s.regBit (R.EVG_FAST (k / 32)) (k % 32)

/-- The class of a source. -/
def evgClassOf (s : State) (k : Nat) : EvClass := if evgIsFast s k then .fast else .normal

/-- Whether a class enables a source. -/
def evgEnabled (s : State) (c : EvClass) (k : Nat) : Bool :=
  match c with
  | .normal => s.regBit (R.EVG_NEN (k / 32)) (k % 32)
  | .fast => s.regBit (R.EVG_FEN (k / 32)) (k % 32)

/-- The stack of a class, top first (R258). -/
def evgStack (s : State) : EvClass → List Nat
  | .normal => s.evg.nstack
  | .fast => s.evg.fstack

/-- Whether a source is deliverable in a class (R260). -/
def evgDeliverable (s : State) (c : EvClass) (k : Nat) : Bool :=
  s.evg.pend.getLsbD k && (evgClassOf s k == c) && evgEnabled s c k && decide (1 ≤ evgPrioOf s k) &&
    (match evgStack s c with
     | [] => true
     | t :: _ => decide (evgPrioOf s t < evgPrioOf s k))

/-- The candidate of a class: the highest priority, and between equals the lower number (R260). -/
def evgCandidate (s : State) (c : EvClass) : Option Nat :=
  ((List.range 128).filter (evgDeliverable s c)).foldl
    (fun best k => match best with
      | none => some k
      | some b => if evgPrioOf s b < evgPrioOf s k then some k else some b) none

/-- Whether the notify flag of a class is set (R265). -/
def evgFlag (s : State) : EvClass → Bool
  | .normal => s.evg.nflag
  | .fast => s.evg.fflag

/-- The state with the notify flag of a class. -/
def evgSetFlag (s : State) (c : EvClass) (b : Bool) : State :=
  match c with
  | .normal => { s with evg := { s.evg with nflag := b } }
  | .fast => { s with evg := { s.evg with fflag := b } }

/-- The next vector of a class in ascending number after the one it used last, wrapping, among those assigned to it (R265). -/
def evgNextVector (s : State) (c : EvClass) : Option Nat :=
  let last := match c with | .normal => s.evg.nlast.toNat | .fast => s.evg.flast.toNat
  let code := match c with | .normal => 1 | .fast => 2
  ((List.range 16).map fun i => (last + 1 + i) % 16).find? fun v => s.regF R.EVG_VECCLS (2 * v) 2 == code

/-- A class would send a message in D3hot: PME_Status is set, and the first time since entry one PM_PME message is sent where PME_En is 1 (R252). -/
def pmeNow (s : State) : State :=
  if s.hif.pmeEn && !s.hif.pmeSent then { s with hif := { s.hif with pmeStatus := true, pmeSent := true } }.emit .pme
  else { s with hif := { s.hif with pmeStatus := true } }

/-- The counter of messages sent for a class (R269). -/
def evgCountReg : EvClass → Nat
  | .normal => R.EVG_NDELIVCNT
  | .fast => R.EVG_FDELIVCNT

/-- The message of a vector leaves for its table entry's address, with L1 left first (R231, R251), and counts for its class. -/
def msixEmit (s : State) (c : EvClass) (v : Nat) : State :=
  let e := s.evg.table.getD v (0, 0)
  ({ s with hif := { s.hif with l1 := false } }.bump (evgCountReg c) 1).emit (.msix (BitVec.ofNat 4 v) e.1 e.2)

/-- A message of a class for a vector: held while the vector is masked (R266), or while the function is in D3hot (R252); otherwise sent. -/
def msixSend (s : State) (c : EvClass) (v : Nat) : State :=
  let m : BitVec 16 := 1 <<< v
  let held := { s with evg := { s.evg with
    vecPend := s.evg.vecPend ||| m
    vecFast := if c = .fast then s.evg.vecFast ||| m else s.evg.vecFast &&& ~~~m } }
  if s.evg.fnMask || s.evg.vecMask.getLsbD v then held
  else if s.hif.d3hot then pmeNow held
  else msixEmit s c v

/-- Delivery for one class (R265). -/
def evgDeliver (c : EvClass) (s : State) : State :=
  if s.regBit R.EVG_CTRL 0 && !evgFlag s c && (evgCandidate s c).isSome then
    match evgNextVector s c with
    | none => s
    | some v =>
      let s1 := match c with
        | .normal => { s with evg := { s.evg with nlast := BitVec.ofNat 4 v } }
        | .fast => { s with evg := { s.evg with flast := BitVec.ofNat 4 v } }
      msixSend (evgSetFlag s1 c true) c v
  else s

/-- Delivery for both classes. -/
def evgPoll (s : State) : State := evgDeliver .fast (evgDeliver .normal s)

/-- An edge raise of a source: its pending bit sets, whether it is active or not (R259). -/
def evgRaise (s : State) (k : Nat) : State :=
  evgPoll { s with evg := { s.evg with pend := s.evg.pend ||| (1 <<< k) } }

/-- Raises of several sources in ascending order. -/
def evgRaiseAll (s : State) (l : List Nat) : State := l.foldl evgRaise s

/-- The input line of a level source changes: the pending bit follows it while the source is not active, unless SETPEND holds it set (R259). -/
def evgLine (s : State) (k : Nat) (on : Bool) : State :=
  if evgIsLevel k then
    let m : BitVec 128 := 1 <<< k
    let e := { s.evg with line := if on then s.evg.line ||| m else s.evg.line &&& ~~~m }
    let pend := if e.active.getLsbD k then e.pend
      else if on || e.sticky.getLsbD k then e.pend ||| m else e.pend &&& ~~~m
    evgPoll { s with evg := { e with pend := pend } }
  else s

/-! ### Event registers -/

/-- A bit of a block's event register sets, and raises the block's source where its enable bit is 1. -/
def State.event (s : State) (evt en bit src : Nat) : State :=
  let s1 := s.orReg evt (BitVec.ofNat 32 (2 ^ bit))
  if s.regBit en bit then evgRaise s1 src else s1

/-! ### Shale -/

/-- An event of the recorder (R403). -/
def recEvent (s : State) (bit : Nat) : State := s.event R.REC_EVT R.REC_EVTEN bit 62

/-- The 32 bytes of a record (R392). -/
def recordBytes (code sev src recno optime pwrcyc : Nat) (payload : Bytes) : Bytes :=
  let b := leBytes 2 code ++ leBytes 1 (sev % 8) ++ leBytes 1 src ++ leBytes 4 recno ++ leBytes 6 optime ++ leBytes 4 pwrcyc ++ padTo 12 payload
  b ++ leBytes 2 (crc16 b).toNat

/-- A flush begins, or a running one extends to the records staged by now (R397). -/
def recFlush (s : State) : State := { s with shale := { s.shale with flushing := some s.shale.buf.length } }

/-- The code of a record that no chapter gives: any but the reserved 0x0000 and the codes 0x0001 to 0x0004, which the chapters give to other events (R392; log 14). -/
def openCode (kind : Nat) : BitVec 16 := BitVec.ofNat 16 (5 + (Config.recordCode kind).toNat % 65531)

/-- The severity of a record that no chapter gives, of an event at which no lane leaves MEMBER and no level falls (R392; log 14). -/
def openSev (kind : Nat) : BitVec 3 := BitVec.ofNat 3 ((Config.recordSev kind).toNat % 4)

/-- The reporting unit of a record that no chapter gives (R392; log 14). -/
def openSrc (kind : Nat) : Byte := BitVec.ofNat 8 ((Config.recordSrc kind).toNat % 12)

/-- A power-fail flush extends to every record that is staged up to 1 ms after the assertion (R398); the time base stands at the latest round. -/
def pfwFlush (s : State) : State :=
  if s.power.pfw && s.shale.flushing.isSome && decide (s.cyc.timeBase ≤ s.power.pfwAt + 1000) then recFlush s else s

/-- A record enters the buffer, or is dropped where the buffer is full (R394, R397). -/
def recStage (s : State) (code : BitVec 16) (sev : BitVec 3) (src : Byte) (payload : Bytes) : State :=
  if 8192 ≤ s.shale.buf.length then recEvent (s.bump R.REC_DROPCNT 1) 1
  else
    let b := recordBytes code.toNat sev.toNat src.toNat s.shale.next.toNat s.optime s.bu.pwrcyc.toNat payload
    let s1 := { s with shale := { s.shale with buf := s.shale.buf ++ [b], next := s.shale.next + 1 } }
    if 3 ≤ sev.toNat then recFlush s1 else pfwFlush s1

/-- The tokens of a code's bucket (R395). -/
def recTokens (s : State) (code : BitVec 16) : Nat := (assoc code s.shale.tokens).getD s.shale.burst

/-- A record of a code is suppressed: counted, with the operating time of the first (R395, R396). -/
def recSuppress (s : State) (code : BitVec 16) : State :=
  let e := match assoc code s.shale.supp with
    | some (n, t) => (min (n + 1) 0xFFFFFFFF, t)
    | none => (1, s.optime)
  recEvent ({ s with shale := { s.shale with supp := assocPut code e s.shale.supp } }.bump R.REC_SUPPCNT 1) 2

/-- A unit reports a record: it is refused after a power-fail flush (R398), takes a token of its code's bucket unless its severity is 4 or its code 0x0001 (R395), and enters the buffer. -/
def State.record (s : State) (code : BitVec 16) (sev : BitVec 3) (src : Byte) (payload : Bytes) : State :=
  if s.shale.pfwStop then s
  else if sev = 4 ∨ code = 1 then recStage s code sev src payload
  else if recTokens s code = 0 then recSuppress s code
  else recStage { s with shale := { s.shale with tokens := assocPut code (recTokens s code - 1) s.shale.tokens } } code sev src payload

/-- A record with another record number, and its CRC again. -/
def renumber (no : Nat) (b : Bytes) : Bytes :=
  let c := b.take 4 ++ leBytes 4 no ++ (b.drop 8).take 22
  c ++ leBytes 2 (crc16 c).toNat

/-- The records that have entered the buffer since a state, all due in one instant, stand in ascending SRC with rising numbers (R394). -/
def State.inOrder (before s : State) : State :=
  let n := before.shale.buf.length
  let new := s.shale.buf.drop n
  let sorted := sortBy (fun x y => leAt x 3 1 ≤ leAt y 3 1) new
  if sorted = new then s
  else { s with shale := { s.shale with buf := s.shale.buf.take n ++ sorted.mapIdx fun i b => renumber ((leAt (new.headD []) 4 4 + i) % 2 ^ 32) b } }

/-- A record whose code and payload no chapter gives: both are free values (log 14). -/
def State.note (s : State) (kind : Nat) (sev : BitVec 3) (src : Byte) : State :=
  s.drawn.record (openCode kind) sev src (Config.recordPayload kind s.free)

end Sys2Proof.Machine
end

