-- ==== Sys2Proof/Machine/Blocks.lean ====
section
/-! DEFINITION. The regions of R207 as words and their sum K_n, the sweep sum and PAIRSUM (R354), and the copy blocks of the standby link with their codes (R352). -/

namespace Sys2Proof.Machine

/-! ### The region sum (R207) -/

/-- The term of one word of the regions. -/
def regionTerm (a : Nat) (w : DWord) : DWord := BitVec.ofNat 64 ((w.toNat + a * psi) * phi)

/-- The sum of the terms of words that lie one after another from an address, 8 bytes apart. -/
def spanSum : Nat → List DWord → DWord
  | _, [] => 0
  | a, w :: t => regionTerm a w + spanSum (a + 8) t

/-- The sum of the terms of `n` words from an address on, by the sum of their values: the addresses sum to n × a + 4 × n × (n − 1). -/
def spanTotal (a n total : Nat) : DWord := BitVec.ofNat 64 ((total + (n * a + 4 * n * (n - 1)) * psi) * phi)

/-- The words of controller-local SRAM (R10: 2 MiB), of the override table (R165: 4,096 entries) and of each map (R98, R112: 1 MiB). -/
abbrev localSize : Nat := 262144
abbrev overrideSize : Nat := 4096
abbrev mapSize : Nat := 131072

/-- The values of the listed words of a region, whose other words are 0. -/
def wordTotal (n : Nat) (ws : List DWord) : Nat := ((ws.take n).map BitVec.toNat).sum

/-- The values of the words of a bitmap of one bit per element: bit i mod 64 of word i / 64. -/
def mapTotal (is : List ElemIx) : Nat := ((is.filter (· < 64 * mapSize)).map fun i => 2 ^ (i % 64)).sum

/-- The waves as their records hold them. -/
def bareWaves (r : Regions) : List Wave := r.waves.map fun w => { w with copied := false }

/-- The words of controller-local SRAM that R207 counts among the regions. -/
def localOf (r : Regions) : List DWord := Config.localWords (bareWaves r) r.ageCtr r.proposal r.confirmed r.expired

/-- K_n: the sum over every word of the regions, the tables in program and parameter SRAM 2^32 above their byte addresses (R207). -/
def regionSum (r : Regions) : DWord :=
  spanTotal 0 localSize (wordTotal localSize (localOf r)) +
  spanTotal (2 ^ 32 + Config.overrideAt) overrideSize (wordTotal overrideSize (Config.overrideWords r.overrides)) +
  spanTotal (2 ^ 32 + Config.routeMapAt) mapSize (mapTotal r.routeMap) +
  spanTotal (2 ^ 32 + Config.dirtyMapAt) mapSize (mapTotal r.dirty)

/-- The words of the regions, each one copy word (R222). -/
abbrev regionCount : Nat := localSize + overrideSize + 2 * mapSize

/-- The words of a span that differ from those of another, with their addresses; a word beyond a list is 0. -/
def spanDiff (at0 : Nat) (old new : List DWord) : List (Nat × DWord) :=
  (List.range (max old.length new.length)).filterMap fun i => if old.getD i 0 = new.getD i 0 then none else some (at0 + 8 * i, new.getD i 0)

/-- A word of a bitmap of one bit per element. -/
def mapWord (is : List ElemIx) (j : Nat) : DWord := BitVec.ofNat 64 (mapTotal ((is.filter fun i => i / 64 == j)))

/-- The words of a bitmap that differ from those of another, with their addresses. -/
def mapDiff (at0 : Nat) (old new : List ElemIx) : List (Nat × DWord) :=
  (((old.filter fun i => !new.contains i) ++ new.filter fun i => !old.contains i).map (· / 64)).dedup.map fun j => (at0 + 8 * j, mapWord new j)

/-- The region words in which one state of the regions differs from another, with their addresses and new values (R207, R222, R352, R354). -/
def changedRegion (old new : Regions) : List (Nat × DWord) :=
  spanDiff 0 (localOf old) (localOf new) ++ spanDiff (2 ^ 32 + Config.overrideAt) (Config.overrideWords old.overrides) (Config.overrideWords new.overrides) ++
    mapDiff (2 ^ 32 + Config.routeMapAt) old.routeMap new.routeMap ++ mapDiff (2 ^ 32 + Config.dirtyMapAt) old.dirty new.dirty

/-- Every word of the regions with its address (R222). -/
def allRegion (r : Regions) : List (Nat × DWord) :=
  let span (at0 n : Nat) (f : Nat → DWord) : List (Nat × DWord) := (List.range n).map fun i => (at0 + 8 * i, f i)
  span 0 localSize ((localOf r).getD · 0) ++ span (2 ^ 32 + Config.overrideAt) overrideSize ((Config.overrideWords r.overrides).getD · 0) ++
    span (2 ^ 32 + Config.routeMapAt) mapSize (mapWord r.routeMap) ++ span (2 ^ 32 + Config.dirtyMapAt) mapSize (mapWord r.dirty)

/-- The copy words that bring one state of the regions to another: those whose content has changed (R222, R354). -/
def regionChanges (old new : Regions) : Nat := (changedRegion old new).length

/-! ### The sums of R354 -/

/-- The cycle numbers of region words moved by an offset; PTAG and the expired-proposal record keep their values (R350, R352). -/
def shiftRegions (d : Int) (r : Regions) : Regions :=
  { r with waves := r.waves.map fun w => { w with accepted := ((w.accepted : Int) + d).toNat }
           proposal := r.proposal.map fun p => { p with cycle := ((p.cycle : Int) + d).toNat }
           confirmed := r.confirmed.map fun p => { p with cycle := ((p.cycle : Int) + d).toNat } }

/-- The regions as a standby takes them: every wave has come from the partner (R358). -/
def copiedHere (r : Regions) : Regions := { r with waves := r.waves.map fun w => { w with copied := true } }

/-- S: the sum of the full-sweep terms over all elements (R354). -/
def sweepSum (l : Lane) (m : Loam) (x : LaneSt) : DWord :=
  (List.range m.elems.length).foldl (fun k i => k + sigTerm i (sramInfo l x.sram i).toNat) 0

/-- PAIRSUM of a lane, its region words in the numbering that an offset leads back to (R352, R354). -/
def pairSum (l : Lane) (m : Loam) (d : Int) (x : LaneSt) : DWord := sweepSum l m x + regionSum (shiftRegions (-d) x.reg)

/-! ### Copy blocks (R352) -/

/-- KIND of a copy block. -/
def blockKind : CopyBody → Nat
  | .delta _ => 1
  | .fullRun _ _ => 2
  | .regions _ _ => 3
  | .close _ _ => 4

/-- COUNT of a copy block: its entries of 8 bytes, the first index of a run in one and two words in each further one, and for a region word its address in one and the word in the next (log 68). -/
def blockCount : CopyBody → Nat
  | .delta ws => ws.length
  | .fullRun _ ws => (ws.length + 1) / 2 + 1
  | .regions ws _ => 2 * ws.length
  | .close _ _ => 1

/-- The bytes over which both codes of a block run: its header and its entries, those of element and region words most significant byte first (R5, R352). -/
def blockBytes (cycle : Nat) (number : Word) (b : CopyBody) : Bytes :=
  Config.blockHeader cycle number (blockCount b) (blockKind b) ++
  match b with
  | .delta ws => ws.flatMap fun w => beBytes 8 (w.1.toNat + 2 ^ 24 * w.2.toNat)
  | .regions ws _ => ws.flatMap fun w => beBytes 8 w.1 ++ beBytes 8 w.2.toNat
  | b => Config.blockEntries b

/-- A block with both codes (R24, R352). -/
def makeBlock (cycle : Nat) (number : Word) (b : CopyBody) : CopyBlock :=
  { cycle := cycle, number := number, body := b, code1 := vmp1 (blockBytes cycle number b), code2 := vmp2 (blockBytes cycle number b) }

/-- Both codes of a block check (R352). -/
def blockOk (b : CopyBlock) : Bool :=
  vmp1 (blockBytes b.cycle b.number b.body) == b.code1 && vmp2 (blockBytes b.cycle b.number b.body) == b.code2

/-- The information words of a lane, in index order. -/
def elemWords (s : State) (l : Lane) (m : Loam) : List Info := (List.range m.elems.length).map fun i => sramInfo l (s.lanes.get l).sram i

/-- The delta words that a list of blocks carries: element words and region words (R364). -/
def deltaCount (bs : List CopyBlock) : Nat :=
  (bs.map fun b => match b.body with
    | .delta ws => ws.length
    | .regions ws _ => ws.length
    | _ => 0).sum

end Sys2Proof.Machine
end

