-- ==== Sys2Proof/Machine/Level.lean ====
section
/-! DEFINITION. Service levels (R42 to R48), lane states (R216 to R218), the Sieve's vote and BEDROCK latch (R48, R210, R211, R247), the ends of rejoins, proof tests and update sessions, and the module reset (R441). -/

namespace Sys2Proof.Machine

/-! ### Rails (R435, R475) -/

/-- The recommended range of a logic rail, in mV, in the order of R435 (R475). -/
def railRange (k : Nat) : Nat × Nat :=
  match k with
  | 3 => (1045, 1155)
  | 4 => (1045, 1155)
  | 5 => (1045, 1155)
  | 7 => (1710, 1890)
  | 8 => (3135, 3465)
  | _ => (776, 824)

/-- A level lies within a rail's range; the monitors act as it leaves it, though they need not within 1 % of nominal (R475; log 62). -/
def railFits (k : Nat) (mv : BitVec 16) : Bool := decide ((railRange k).1 ≤ mv.toNat) && decide (mv.toNat ≤ (railRange k).2)

/-- The rails of a list of levels that lie outside their ranges, as KLN_SUPPLY names them (R433). -/
def railsOut (l : List (BitVec 16)) : BitVec 9 :=
  BitVec.ofNat 9 (((List.range 9).map fun k => if railFits k (l.getD k 0) then 0 else 2 ^ k).sum)

/-- A lane has both its rails (R438). -/
def railsHeld (s : State) (l : Lane) : Bool :=
  railFits (laneNo l) (s.power.rails.getD (laneNo l) 0) && railFits (laneNo l + 3) (s.power.rails.getD (laneNo l + 3) 0)

/-! ### Groups -/

/-- The members: the lanes in state MEMBER (R216). -/
def memberSet (s : State) : BitVec 3 := setOf (allLanes.filter fun l => (s.lanes.get l).st == .member)

/-- The silent lanes. -/
def silentSet (s : State) : BitVec 3 := setOf (allLanes.filter fun l => (s.lanes.get l).st == .silent)

/-- The lanes of a set whose withdraw rails are low (R205). -/
def railLow (s : State) (m : BitVec 3) : BitVec 3 := setOf ((lanesOf m).filter fun l => !(s.lanes.get l).rail)

/-! ### Debug holds (R199, R200) -/

/-- Some lane is halted. -/
def anyHold (s : State) : Bool := allLanes.any fun l => (s.lanes.get l).dbgHold

/-- The lanes that raise their debug-hold rails. -/
def holdSet (s : State) : BitVec 3 := setOf (allLanes.filter fun l => (s.lanes.get l).dbgHold)

/-- What follows a change of the debug-hold rails or of the running lanes: the keep-clear hold is suspended while two rails are raised (R215), and the lanes are halted once every running lane has reached the point. -/
def settleHold (s : State) : State :=
  let all := anyHold s && allLanes.all fun l => !(s.lanes.get l).running || (s.lanes.get l).dbgHold
  { s with
    sieve := { s.sieve with suspended := 2 ≤ setSize (holdSet s) }
    dbg := { s.dbg with
      halted := all
      haltedAt := if all && !s.dbg.halted then s.cyc.timeBase else s.dbg.haltedAt } }

/-- The module acts as the standby of a pair in the present cycle: a paired module whose commit of the cycle before was not of ACTIVE (R343, R345). -/
def isStandby (s : State) : Bool := s.sby.pairenNow && s.sby.acting != .active

/-- A paired module has not committed ACTIVE: its role for the next cycle, which its drive follows at once (R213, R345). -/
def commitsStandby (s : State) : Bool := s.sby.pairenNow && s.sby.role != .active


/-- The star ports and the ring slot of a paired module are shut in a round: it is the standby, or the round has not begun after the instant at which it became active (R272, R292, R319, R358). -/
def portsShut (s : State) (r : Nat) : Bool := isStandby s || (s.sby.pairenNow && (s.sby.openAt.map fun t => decide (1000 * r ≤ t)).getD false)

/-! ### Image regions and update sessions -/

/-- The record of an image bank. -/
def bankOf (s : State) (b : Bool) : BankSt := if b then s.stored.bank1 else s.stored.bank0

/-- The state with the record of an image bank changed. -/
def setBank (s : State) (b : Bool) (f : BankSt → BankSt) : State :=
  if b then { s with stored := { s.stored with bank1 := f s.stored.bank1 } }
  else { s with stored := { s.stored with bank0 := f s.stored.bank0 } }

/-! ### Stored regions (R409) -/

/-- A byte of erased image flash. -/
def erasedByte (_ : Nat) : Byte := 0xFF

/-- The offset of a region in its bank: the firmware region at 0, the Loam region at 64 MiB. -/
def regionBase (loam : Bool) : Nat := if loam then 0x4000000 else 0

/-- The size of a region. -/
def regionSize (loam : Bool) : Nat := if loam then 0x1C000000 else 0x4000000

/-- The flash of a bank. -/
def bankMem (s : State) (b : Bool) : List Host.Cell := if b then s.stored.mem1 else s.stored.mem0

/-- The state with the flash of a bank changed. -/
def setBankMem (s : State) (b : Bool) (f : List Host.Cell → List Host.Cell) : State :=
  if b then { s with stored := { s.stored with mem1 := f s.stored.mem1 } }
  else { s with stored := { s.stored with mem0 := f s.stored.mem0 } }

/-- The first bytes of a stored region. -/
def regionBytes (s : State) (b loam : Bool) (n : Nat) : Bytes := bytesGet erasedByte (bankMem s b) (regionBase loam) n

/-- The bytes that a Loam region holds beside the encrypted image, after it: the IV and the tag, filled to 64 bytes (DESIGN CHOICE, log 78: R409 leaves 64 bytes of the region and gives them no place). -/
abbrev loamTail : Nat := 64

/-- The stored bytes of a region: none unless it is READY or beyond; a Loam image lies encrypted, with its IV and tag (R409). -/
def storedLen (s : State) (b loam : Bool) : Nat :=
  if loam then (if (bankOf s b).llen = 0 then 0 else (bankOf s b).llen + loamTail) else (bankOf s b).flen

/-- A deferred completion: the next snapshot shows the work done, and the lanes complete the request at the commit of its cycle (R413). -/
def State.defer (s : State) (op : BitVec 16) (q : Req) (status : Nat) (result : Bytes) : State :=
  { s with group := { s.group with due := s.group.due ++ [(op, q, status, result)] } }

/-- An event of the update engine (R424). -/
def updEvent (s : State) (bit : Nat) : State := s.event R.UPD_EVT R.UPD_EVTEN bit 63

/-- The fields of UPD_SESS for a session, apart from OPEN (R423). -/
def sessWord (x : Sess) : Nat := x.num + b2n x.loam * 2 ^ 17 + b2n x.maint * 2 ^ 19 + b2n x.erased * 2 ^ 20

/-- The registers keep the latest session (R423). -/
def keepSession (s : State) (x : Sess) : State :=
  ((s.setReg R.UPD_SESS (BitVec.ofNat 32 (sessWord x))).setReg R.UPD_RECV (BitVec.ofNat 32 x.recv)).setReg R.UPD_TOTAL (BitVec.ofNat 32 x.total)

/-- The session ends, with an erase in progress going on (R446): its region is left as the function gives, and the descriptors that wait on the engine complete with a status (log 18) and the RESULT of their opcode (R248). -/
def closeSession (s : State) (x : Sess) (status : Nat) (f : BankSt → BankSt) : State :=
  let result (op : BitVec 16) : Bytes := if op = 0x30 then leBytes 2 x.num else leBytes 4 x.recv
  let s1 := x.waiting.foldl (fun t w => t.defer w.1 w.2.1 status (result w.1)) (setBank (keepSession s x) x.bank f)
  updEvent { s1 with upd := { s1.upd with sess := none, erasing := if x.erased then none else some (x.bank, x.loam) } } 0

/-- The end of an update session other than by UPDATE_CLOSE: its region is left EMPTY and a record is written (R412, R414). -/
def endSession (s : State) : State :=
  match s.upd.sess with
  | none => s
  | some x =>
    let low := s.level == .reduced || s.level == .bedrock
    (closeSession s x (if low then 9 else 3) fun b => if x.loam then { b with lstate := 0 } else { b with fstate := 0 }).note 4 (openSev 4) 0x09

/-! ### Completions of the lanes -/

/-- What a lane will present changes after assembly: the terms of the message stream follow, in the controller's accumulator, or once the signature is closed in Σ_n, so that the digest covers every word (R193, R209). -/
def LaneSt.reword (x : LaneSt) (ws : List OutWord) : LaneSt :=
  let d := messageTerms ws - messageTerms x.words
  let y := { x with words := ws }
  if x.closed then { y with sigma := x.sigma + d } else if x.place = .done then y.addTerms d else y

/-- A completion word joins what a lane presents at its next commit (R204, R245). -/
def LaneSt.complete (x : LaneSt) (c : Cmpl) : LaneSt :=
  x.reword (x.words ++ [.cmpl c])

/-- The same on every running lane. -/
def State.complete (s : State) (c : Cmpl) : State := s.onRunning fun _ x => x.complete c

/-- The agreed content of a completion of a request (R243): RESULT bytes 12 to 27. -/
def mkCmpl (op : BitVec 16) (q : Req) (status : Nat) (cycle : Nat) (result : Bytes) : Cmpl :=
  { sq := q.sq, seq := q.seq, tag := q.tag, status := BitVec.ofNat 8 status, opcode := op, cycle := BitVec.ofNat 16 cycle,
    result := padTo 16 result, imm := q.flags.getLsbD 0, buf := q.bufaddr, data := [], maint := q.maint }

/-! ### Changes of lane state -/

/-- A lane's controller and drive stop, its withdraw rail is raised (R155, R192, R205), it holds no debug-hold rail, and nothing of its ordinary work is owed any more (R218). -/
def LaneSt.stopped (x : LaneSt) : LaneSt := { x with running := false, rail := true, drive := 0, dbgHold := false, armed := false, skip := [], overran := [] }

/-- The state with a lane stopped; the lanes that are left may all have reached a halt point (R200). -/
def stopLane (s : State) (l : Lane) : State := settleHold (s.updLane l LaneSt.stopped)

/-- A change of STATE with its cause: the cycle of the change is kept, departures from MEMBER are counted, and the lane's source is raised (R217, R227). -/
def setLaneState (s : State) (l : Lane) (st : LaneState) (cause : Option Nat) : State :=
  let x := s.lanes.get l
  if x.st = st then s
  else
    let s1 := s.updLane l fun x => { x with
      st := st
      cause := match cause with | some c => BitVec.ofNat 4 c | none => x.cause
      chCycle := BitVec.ofNat 24 s.cyc.cycle }
    let s2 := if x.st = .member then s1.bump R.LANE_EXCNT 1 else s1
    evgRaise s2 (65 + laneNo l)

/-- The STATE of a lane becomes OUT for a cause: a record is written, of severity 4 where it left MEMBER, and the next verdict word names a member among the lanes excluded (R155, R212, R217, R392). -/
def markOut (s : State) (l : Lane) (cause : Nat) : State :=
  let was := (s.lanes.get l).st
  let s1 := setLaneState s l .out (some cause)
  let s2 := if was = .member then { s1 with sieve := { s1.sieve with excluded := s1.sieve.excluded ||| laneBit l } } else s1
  s2.note 1 (if was = .member then 4 else openSev 1) (BitVec.ofNat 8 (laneNo l + 1))

/-- A lane stops and becomes OUT for a cause (R155, R192, R205). -/
def laneOut (s : State) (l : Lane) (cause : Nat) : State := markOut (stopLane s l) l cause

/-- A rejoin ends with RESULT (R223, R227); the returning lane's own state is set apart. -/
def rejoinEnded (s : State) (result : Nat) : State :=
  match s.group.rejoin with
  | none => s
  | some _ =>
    ((({ s with group := { s.group with rejoin := none } } : State).setF R.LANE_RJSTAT 2 3 4).setF R.LANE_RJSTAT 5 4 result)

/-- A rejoin that has failed: its lane becomes OUT with a cause, 0x9 unless the lane's own fault gives one (R223); a proof test whose rejoin fails reads failed (R225). -/
def rejoinFail (s : State) (result cause : Nat) : State :=
  match s.group.rejoin with
  | none => s
  | some r =>
    let s1 := laneOut (rejoinEnded s result) r.lane cause
    if r.proof then (s1.setF R.LANE_PTSTAT 4 2 2).setF R.LANE_PTSTAT 6 1 0 else s1

/-- A proof test in progress ends: RESULT is written and its lane becomes OUT with CAUSE 0x9 (R225). -/
def proofEnd (s : State) (result : Nat) : State :=
  match s.group.proof with
  | none => s
  | some l =>
    laneOut (((({ s with group := { s.group with proof := none } } : State).setF R.LANE_PTSTAT 4 2 result).setF R.LANE_PTSTAT 6 1 0)) l 9

/-- A change of level or membership abandons a rejoin (R223) and, where the level leaves REDUCED, a proof test (R225). -/
def abandonRejoin (s : State) : State :=
  match s.group.rejoin with
  | none => s
  | some r =>
    let s1 := rejoinFail s 7 9
    if r.proof then s1.setF R.LANE_PTSTAT 4 2 3 else s1

/-! ### Changes of level -/

/-- The present level and its history (R77): GLB_SVCLVL changes with the level, GLB_SVCCNT rises, a record is written, and source 68 is raised last. Outside FULL and REDUCED no lane toggles a drive line (R39, R213). -/
def setLevel (s : State) (tgt : Level) (cause : Nat) : State :=
  let s0 := if tgt.serves then s else s.updLanes fun _ x => { x with drive := 0 }
  let s1 := { s0 with level := tgt, prevLevel := s.level, levelCause := BitVec.ofNat 4 cause }
  let s2 := (s1.bump R.GLB_SVCCNT 1).note 0 (if tgt.code < s.level.code then 4 else openSev 0) (openSrc 0)
  evgRaise s2 68

/-- What a change of level ends: an open session on entry to REDUCED or BEDROCK and an open Loam session on leaving STOPPED (R414), an unconfirmed proposal on entry to REDUCED (R46), a rejoin at any change (R223), and a proof test where the level leaves REDUCED (R225). -/
def levelEnds (s : State) (old tgt : Level) : State :=
  let s1 := if tgt = .reduced ∨ tgt = .bedrock ∨ (old = .stopped ∧ (s.upd.sess.map (·.loam)).getD false = true) then endSession s else s
  let s2 := if tgt = .reduced then s1.updLanes fun _ x => { x with reg := { x.reg with proposal := none } } else s1
  let s3 := abandonRejoin s2
  if old = .reduced then proofEnd s3 3 else s3

/-- A change of the service level (R44, R45): nothing where the level stays. -/
def changeLevel (s : State) (tgt : Level) (cause : Nat) : State :=
  if s.level = tgt then s else State.inOrder s (levelEnds (setLevel s tgt cause) s.level tgt)

/-- Completions join those that the IOI holds; one that a reset of R230 discards is only counted. -/
def holdCompletions (s : State) (cs : List Cmpl) : State :=
  let maint := cs.filter (·.maint)
  let gone := cs.filter fun c => !c.maint && s.hif.lost.contains c.seq
  let kept := cs.filter fun c => !c.maint && !s.hif.lost.contains c.seq
  let data (c : Cmpl) : Cmpl := { c with data := (assoc c.seq.toNat s.hif.reads).getD c.data }
  let s1 := (maint.foldl (fun t c => t.emit (.maintCompletion (data c))) s).bump R.HIF_DISCCNT gone.length
  { s1 with hif := { s1.hif with reads := s1.hif.reads.filter fun r => !maint.any fun c => c.seq.toNat == r.1
                                 held := s1.hif.held ++ kept, lost := s1.hif.lost.filter fun q => !gone.any fun c => c.seq == q } }

/-- The agreed words that a latched Sieve replaces: every outstanding descriptor completes with SERVICE_LEVEL, RESULT and CYCLE 0, in fetch order (R247). -/
def sieveCompletes (s : State) : State :=
  let cs := s.hif.outstanding.map fun e => mkCmpl e.1 e.2 9 0 []
  let s1 := holdCompletions s cs
  { s1 with hif := { s1.hif with outstanding := [] }, upd := { s1.upd with attest := none }, sby := { s1.sby with switchReq := none } }

/-- Entries of a controller's replaced queue that were never sent are counted, and VLATE is set (R334). -/
def lateCan (s : State) (k : Nat) : State :=
  match s.can[k]? with
  | none => s
  | some x =>
    let n := if 0 < x.vpass then 0 else x.vqueue.length - x.vpos - (x.vcur.map fun v => if v.cycle = x.vcycle then v.entries.length else 0).getD 0
    if n = 0 then s else (s.bump (R.CAN_VLATECNT k) n).event (R.CAN_EVT k) (R.CAN_EVTEN k) 7 (52 + k)

/-- Every queue of commands is withdrawn and the vital outputs are commanded off (R290, R316, R334, R374). -/
def withdrawQueues (s0 : State) : State :=
  let s := (List.range 4).foldl lateCan s0
  { s with
    fsn := { s.fsn with ports := s.fsn.ports.map fun x => { x with queue := [], pos := 0, sent := 0 } }
    frn := { s.frn with queue := [], pos := 0, sent := 0 }
    can := s.can.map fun x => { x with vqueue := [], vpos := 0, vpass := 0, markDue := none }
    vio := { s.vio with ioiCmd := 0 } }

/-- The BEDROCK latch sets: the level becomes BEDROCK from FULL or REDUCED, provisional words are discarded and the Sieve supplies the completions (R48, R211, R247). -/
def setLatch (s : State) (cause : Nat) : State :=
  if s.sieve.latch then s
  else
    let s1 := withdrawQueues { s with sieve := { s.sieve with latch := true, words := ⟨[], [], []⟩ } }
    let s2 := if s1.level.serves then changeLevel s1 .bedrock cause else s1
    sieveCompletes s2

/-! ### The vote (R210, R211) -/


/-- The agreed words of two lanes, in the order of the first: a word that both present identically passes, message code 1 from the first lane and code 2 from the second; since the words are identical, codes included, the passed word is that word. -/
def agreedWords (w1 w2 : List OutWord) : List OutWord := w1.filter fun w => w2.contains w

/-- The number of words that only one of the two lanes presents (R211). Where the two words of a message differ, both are discarded and each counts (DESIGN CHOICE, log 74: R211 counts "a word"). -/
def droppedWords (w1 w2 : List OutWord) : Nat :=
  (w1.filter fun w => !w2.contains w).length + (w2.filter fun w => !w1.contains w).length

/-- The vital outputs that the records of a cycle command on: every element naming an output commands it (R377). -/
def outputsOn (ms : List Msg) : BitVec 16 :=
  (List.range 16).foldl (fun b k =>
    let mine := ms.filter fun m => m.net == .vio && m.chan.toNat == k
    if !mine.isEmpty && mine.all (fun m => m.record.getLsbD 0) then b ||| (1 : BitVec 16) <<< k else b) 0

/-- Entries of a port's replaced queue that were never sent are counted, and LATE is set (R290). -/
def lateStar (s : State) (p : Nat) : State :=
  match s.fsn.ports[p]? with
  | none => s
  | some x =>
    let n := x.queue.length - x.sent
    if n = 0 then s else (s.bump (R.FSN_P_LATECNT p) n).event (R.FSN_P_EVT p) (R.FSN_P_EVTEN p) 4 (32 + p)

/-- The agreed messages of a cycle on one network and channel, in ascending OBJ (R290). -/
def netMsgs (net : Net) (chan : Nat) (ms : List Msg) : List Msg :=
  sortBy (fun a b => a.obj.toNat ≤ b.obj.toNat) (ms.filter fun m => m.net == net && m.chan.toNat == chan)

/-- The networks take the agreed messages of a cycle in place of the queues of the cycle before (R290, R316, R334, R374); a controller takes them while its VEN is 1, and sends a mark frame first. -/
def takeMessages (s : State) (ms : List Msg) : State :=
  let n := s.cyc.cycle
  let s1 := (List.range 4).foldl lateCan ((List.range 16).foldl lateStar s)
  let on := outputsOn ms
  { s1 with
    fsn := { s1.fsn with ports := s1.fsn.ports.mapIdx fun p x => { x with queue := netMsgs .etlF p ms, qcycle := n, pos := 0, sent := 0 } }
    frn := { s1.frn with queue := netMsgs .etlR 0 ms, qcycle := n, pos := 0, sent := 0 }
    can := s1.can.mapIdx fun k x =>
      if s1.regBit (R.CAN_CTRL k) 7 then { x with vqueue := netMsgs .can k ms, vcycle := n, vpos := 0, vpass := 0, markDue := some n }
      else { x with vqueue := [], vcycle := n, vpos := 0, vpass := 0, markDue := none }
    vio := { s1.vio with ioiCmd := on } }

/-- The agreed completions of a cycle join those that the IOI writes, in ascending fetch sequence (R245); their descriptors are no longer outstanding. -/
def takeCompletions (s : State) (cs : List Cmpl) : State :=
  let s1 := holdCompletions s (sortBy (fun x y => x.seq.toNat ≤ y.seq.toNat) cs)
  { s1 with
    hif := { s1.hif with outstanding := s1.hif.outstanding.filter fun e => !cs.any (fun c => c.seq == e.2.seq && c.sq == e.2.sq) }
    upd := if cs.any (fun c => some c.seq == s1.upd.attest) then { s1.upd with attest := none } else s1.upd }

/-- The provisional words of the two lowest-lettered agreeing lanes are matched and released (R211), over the agreed output channel while it carries words (R14). -/
def releaseWords (s : State) (agree : BitVec 3) : State :=
  if !chanOpen s .agreed then s else
  match lanesOf agree with
  | l1 :: l2 :: _ =>
    let w1 := s.sieve.words.get l1
    let w2 := s.sieve.words.get l2
    let ok := agreedWords w1 w2
    let s1 := s.bump R.LANE_MSGDROP (droppedWords w1 w2)
    let s2 := takeMessages s1 (ok.filterMap fun w => match w with | .msg m => some m | .cmpl _ => none)
    takeCompletions s2 (ok.filterMap fun w => match w with | .cmpl c => some c | .msg _ => none)
  | _ => s

/-- The digest registers of the latest vote; a lane that is not a member presents 0 (R227, R228). -/
def storeDigests (s : State) : State :=
  allLanes.foldl (fun t l => t.setWide (R.LANE_DIGA_LO + 8 * laneNo l)
    (if inSet s.sieve.members l then (s.sieve.digests.get l).getD 0 else 0)) s

/-- The digest that a lane has presented, while its rail is low (R205). -/
def digestOf (s : State) (l : Lane) : Option DWord := if (s.lanes.get l).rail then none else s.sieve.digests.get l

/-- The lanes of a set that present a digest equal to lane l's. -/
def equalTo (s : State) (m : BitVec 3) (l : Lane) : BitVec 3 :=
  setOf ((lanesOf m).filter fun k => (digestOf s l).isSome && digestOf s k == digestOf s l)

/-- The set of members whose digests are equal, if two agree. -/
def agreeingSet (s : State) : Option (BitVec 3) :=
  ((lanesOf s.sieve.members).map (equalTo s s.sieve.members)).find? fun m => 2 ≤ setSize m

/-- The members that have presented a digest other than the agreeing set's. -/
def minoritySet (s : State) (agree : BitVec 3) : BitVec 3 :=
  setOf ((lanesOf s.sieve.members).filter fun l => (digestOf s l).isSome && !inSet agree l)

/-- The membership rules of R226 after lane events at one instant: two members left of three give REDUCED, fewer give BEDROCK; a change of membership abandons a rejoin (R223). -/
def groupLevel (s : State) (cause : Nat) : State :=
  let n := setSize (memberSet s)
  if s.level.serves then
    if n < 2 then changeLevel s .bedrock 5
    else if n = 2 ∧ s.level = .full then changeLevel s .reduced cause
    else s
  else abandonRejoin s

/-- Excludes the lanes of a set as digest minority (R210). They are OUT from the verdict on; their controllers stop at the next CONSENSUS, which finds them unnamed (R212). -/
def excludeMinority (s : State) (m : BitVec 3) : State := (lanesOf m).foldl (fun t l => markOut t l 2) s

/-- The rejoin's silent digests (R223): each that equals the agreeing set's counts; the first that differs ends the rejoin with RESULT 0x5. -/
def judgeSilent (s : State) : State :=
  match s.group.rejoin with
  | some r =>
    if (s.lanes.get r.lane).st = .silent then
      if digestOf s r.lane = s.sieve.value then
        ({ s with group := { s.group with rejoin := some { r with silOk := r.silOk + 1 } } }).setF R.LANE_RJSTAT 9 2 (min 3 (r.silOk + 1))
      else rejoinFail s 5 9
    else s
  | none => s

/-- The active of a pair names the cycle of a concluded vote to its partner before any agreed word is sent, in a copy block of KIND 0x4 that the agreeing lanes give (R348, R356; its number and PAIRSUM are DEDUCED, log 68). -/
def sendVote (s : State) : State :=
  match (lanesOf s.sieve.agree).head?, s.loam with
  | some l, some m =>
    if s.sby.pairenNow = true ∧ s.sby.acting = .active ∧ s.level.serves = true ∧ s.sieve.latch = false then
      s.emit (.pairVote (makeBlock s.cyc.cycle 0 (.close (pairSum l m 0 (s.lanes.get l)) false)))
    else s
  | _, _ => s

/-- Both of two agreeing lanes have presented their copy blocks of the cycle. -/
def bothPresent (s : State) (l1 l2 : Lane) : Bool := (s.lanes.get l1).digest.isSome && (s.lanes.get l2).digest.isSome

/-- The copy blocks of the two lowest-lettered agreeing lanes are matched once the vote has concluded: a block that both present identically leaves, code 1 from the first and code 2 from the second; every other is dropped and counted (R24, R211, R352). The words of the first are the base of the next delta, and the first delta completes the full copy (R354). -/
def releaseBlocks (s : State) : State :=
  match lanesOf s.sieve.agree, s.loam with
  | l1 :: l2 :: _, some m =>
    if s.sieve.concluded = false ∨ s.sby.plan = 0 ∨ bothPresent s l1 l2 = false then s
    else
      let b1 := s.sby.blocks.get l1
      let b2 := s.sby.blocks.get l2
      let lone := (b1.filter fun b => !b2.contains b).length + (b2.filter fun b => !b1.contains b).length
      let s1 := ((b1.filter fun b => b2.contains b).foldl (fun t b => t.emit (.pairCopy b)) s).bump R.LANE_MSGDROP lone
      let s2 := if s.sby.plan = 1 then s1.setReg R.SBY_COPYWORDS (BitVec.ofNat 32 ((m.elems.length + 1) / 2 + regionCount))
        else s1.setReg R.SBY_DELTA (BitVec.ofNat 32 (deltaCount b1))
      let first := s.sby.plan == 2 && s.sby.copy == 1
      { s2 with sby := { s2.sby with
        plan := 0, blocks := ⟨[], [], []⟩, base := elemWords s l1 m, baseReg := some (s.lanes.get l1).reg
        copy := if first then 2 else s2.sby.copy, copyStart := if first then s.cyc.cycle else s2.sby.copyStart } }
  | _, _ => s

/-- The silent lane of a rejoin has presented its digest of this cycle. -/
def silentPresent (s : State) : Bool := (s.group.rejoin.map fun r => (digestOf s r.lane).isSome).getD false

/-- The vote concludes with an agreeing set (R210): a minority is excluded, the words are released, a silent digest that has arrived is compared, and the level follows R226. -/
def concludeAgree (s : State) (agree : BitVec 3) : State :=
  let min := minoritySet s agree
  let s1 := { s with sieve := { s.sieve with concluded := true, agree := agree, value := (lanesOf agree).head?.bind (digestOf s) } }
  let s2 := releaseBlocks (releaseWords (sendVote (storeDigests s1)) agree)
  let s3 := excludeMinority s2 min
  let s4 := if silentPresent s3 then judgeSilent s3 else s3
  State.inOrder s (if setSize min = 0 then s4 else groupLevel s4 2)

/-- The vote concludes with fewer than two agreeing lanes: the BEDROCK latch sets (R48, R210). -/
def concludeNone (s : State) : State :=
  setLatch (storeDigests { s with sieve := { s.sieve with concluded := true, agree := 0, value := none } }) 5

/-- The Sieve concludes the vote of the cycle at the first instant at which it can (R210); no vote precedes cycle 0 (R212). -/
def voteTry (s : State) : State :=
  if s.sieve.concluded ∨ s.cyc.started = false then s
  else
    match agreeingSet s with
    | some m => concludeAgree s m
    | none =>
      let low := railLow s s.sieve.members
      if setSize low < 2 ∨ (lanesOf low).all (fun l => (digestOf s l).isSome) then concludeNone s else s

/-- What a fault of a lane (R12, R14, R155, R192, R438) does to the lane: a member leaves the group for its cause; a returning lane's rejoin ends with RESULT 0x6; a lane under proof test fails it. -/
def faultOut (s : State) (l : Lane) (cause : Nat) : State :=
  match (s.lanes.get l).st with
  | .member => laneOut s l cause
  | .silent => rejoinFail (stopLane s l) 6 cause
  | .copy => if (s.group.rejoin.map (·.lane)) = some l then rejoinFail s 6 cause else laneOut s l cause
  | .proof => proofEnd (stopLane s l) 2
  | .released => stopLane s l
  | .out => stopLane s l
  | .dead => stopLane s l

/-- What follows the lane events of one instant: the rise of the rails may conclude the vote, and the level then changes once, where the membership has changed (R45, R210, R226). -/
def settleGroup (before : BitVec 3) (cause : Nat) (s : State) : State :=
  let s1 := voteTry s
  if memberSet s1 = before then s1 else groupLevel s1 cause

/-- A lane's fault, and what follows it. -/
def laneFault (s : State) (l : Lane) (cause : Nat) : State := State.inOrder s (settleGroup (memberSet s) 2 (faultOut s l cause))

/-- CYC_PRIV records a lane, a unit and a cycle (R155, R174). -/
def privMark (s : State) (l : Lane) (unit n : Nat) : State := s.setReg R.CYC_PRIV (BitVec.ofNat 32 (laneNo l + unit * 4 + n % 2 ^ 28 * 16))

/-- A privileged overrun or t0 fault of a cycle: the lane is stopped and excluded, and CYC_PRIV records it (R155, R174). -/
def privFault (s : State) (l : Lane) (unit n : Nat) : State := laneFault (privMark s l unit n) l 3

/-- A latch demand counts while its lane's rail is low (R205, R215). -/
def demandCount (s : State) : Nat := setSize (railLow s s.sieve.demands)

/-- The DBG registers record a code fault (R192, R202). -/
def codeMark (s : State) (l : Lane) (d : Disturb) : State :=
  let s1 := s.setReg R.DBG_CXFAULT (BitVec.ofNat 32 (laneNo l + d.kind.toNat * 4 + d.unit.toNat * 32 + s.cyc.cycle % 2 ^ 20 * 4096))
  (s1.setReg R.DBG_CXELEM (d.elem.setWidth 32)).bump R.DBG_CXCNT 1

/-- A code fault: it is recorded, and the lane is stopped and excluded (R192). -/
def codeFault (s : State) (l : Lane) (d : Disturb) : State := laneFault (codeMark s l d) l 4

/-! ### Output energy (R213, R214) -/

/-- Whether the Sieve counts a lane's drive lines: the lane agreed in the latest concluded vote, its rail is low, and the latch is clear. -/
def counted (s : State) (l : Lane) : Bool := !s.sieve.latch && inSet s.sieve.agree l && !(s.lanes.get l).rail

/-- Whether energy output k carries energy: 0 to 15 OE0 to OE15, 16 MSHIP_OUT, 17 SAFE_N. -/
def energised (s : State) (k : Nat) : Bool :=
  2 ≤ (allLanes.filter fun l => counted s l && (s.lanes.get l).drive.getLsbD k).length

/-! ### Module reset (R441) -/

/-- Shale after a reset: the volatile buffer is lost, flash and its records stay, and record numbers continue from the highest in flash (R393). -/
def RecSt.afterReset (r : RecSt) : RecSt :=
  { RecSt.reset with next := r.flushed + 1, flash := r.flash, oldest := r.oldest, flushed := r.flushed, wblock := r.wblock, wslot := r.wslot,
                     eraseDue := r.eraseDue || r.eraseHeld, blocks := r.blocks, bad := r.bad }

/-- The update engine after a reset: the regions a session was writing are left EMPTY (R414); an armed trial stays armed in the BU. -/
def updAfterReset (s : State) : State := { endSession s with upd := UpdSt.reset }

/-- What every module reset does (R441, R445): every lane, the IOI and the Sieve are reset, every register returns to its reset value, and the BU, the stored regions, the VIO and what the supplies and dies are at are kept; the straps are sampled. An update session that the reset ends leaves its record behind (R412, R414). -/
def resetCore (s : State) (role : Bool) (addr : BitVec 6) : State :=
  let s0 := updAfterReset s
  let r := State.reset
  let s1 : State := { r with
    bu := s0.bu
    stored := s0.stored
    shale := s0.shale.afterReset
    vio := { s0.vio with otMay := s0.vio.otest, itMay := s0.vio.itest, darkS1 := 0, darkS2 := 0, linkSilent := true, faulted := true, ioiCmd := 0, ioiSeq := 0, last := none, prior := none }
    power := { s0.power with addr := addr, pfwAt := 0, booted := false, kilnDone := false, refused := false, retired := false, ioiLost := false }
    lanes := r.lanes.map fun l x => { x with hot := (s0.lanes.get l).hot }
    sby := { r.sby with strap := role, pairenNow := s0.stored.sbyCfg.getLsbD 0, cpLimit := fld s0.stored.sbyCfg.toNat 16 12 }
    out := s0.out
    free := s0.free
    pending := s0.pending }
  let s2 := (s1.setReg R.SBY_CFG s1.stored.sbyCfg).setF R.FRN_CFG 0 5 (addr.toNat % 32)
  let s3 := evgLine (evgLine s2 57 true) 70 s2.power.pfw
  if s.upd.sess.isSome then s3.note 4 (openSev 4) 0x09 else s3

/-- A module reset of a cause (R440): PWR_RSTCAUSE reports it and UPD_BOOTCNT counts it. -/
def moduleReset (s : State) (cause : Nat) (role : Bool) (addr : BitVec 6) : State :=
  let s1 := (resetCore s role addr).setReg R.PWR_RSTCAUSE (BitVec.ofNat 32 cause)
  { s1 with bu := { s1.bu with bootcnt := s1.bu.bootcnt + 1 } }

end Sys2Proof.Machine
end

