-- ==== Sys2Proof/Machine/FieldStar.lean ====
section
/-! DEFINITION. The field star: the schedule and its check (R274, R275), frames (R276 to R278), the guardian (R279 to R282), node states (R283 to R286, R292), Scree slots (R293 to R295), the command queues (R290), and mode switches (R296, R297). Instants of frames are time-base counts in units of 125 ns (log 25). -/

namespace Sys2Proof.Machine

/-! ### The schedule (R274, R275) -/

/-- A schedule entry. -/
structure Slot where
  start : Nat
  len : Nat
  down : Bool
  kind : Nat
  node : Nat
  scree : Nat
  rest : Nat
deriving DecidableEq, Repr

/-- The fields of a schedule entry. -/
def slotOf (w : Word) : Slot :=
  let n := w.toNat
  { start := fld n 0 10, len := fld n 10 10, down := bitOf n 20, kind := fld n 21 2, node := fld n 23 3, scree := fld n 26 4, rest := fld n 30 2 }

/-- The place of a slot's entry: SLOT, PORT and MODE as FSN_SCHADDR gives them (R298). -/
def schedKey (mode port slot : Nat) : Nat := slot + 64 * port + 1024 * mode

/-- A slot of a mode and port. -/
def slotAt (s : State) (mode port i : Nat) : Slot := slotOf (cellGet (fun _ => (0 : Word)) (schedKey mode port i) s.fsn.sched)

/-- The slots of a mode and port with their indices, the used ones only. -/
def usedSlots (s : State) (mode port : Nat) : List (Nat × Slot) :=
  ((List.range 64).map fun i => (i, slotAt s mode port i)).filter fun x => x.2.kind != 0

/-- ACCW in macroticks. -/
def accw (s : State) : Nat := s.regF R.FSN_GCFG 0 3

/-- The current mode. -/
def curMode (s : State) : Nat := s.regF R.FSN_MODE 0 2

/-- The body capacity of a slot (R275). -/
def capacity (a len : Nat) : Nat := 25 * (len - 2 * a) / 2 - 34

/-- Rule 0x1: the length, the end in the round, and no reserved encoding. -/
def slotFormed (a : Nat) (x : Slot) : Bool :=
  decide (max 8 (2 * a + 3) ≤ x.len) && decide (x.start + x.len ≤ 1000) && x.rest == 0 && x.kind != 3 &&
    ((x.kind == 1 && !x.down) || x.node == 0) && (x.kind == 2 || x.scree == 0)

/-- Rule 0x2: the SYNC slot. -/
def syncSlot (x : Slot) : Bool := x.down && x.kind == 1 && x.start == 0 && x.len == 16

/-- Two slots share an instant. -/
def overlap (x y : Slot) : Bool := decide (x.start < y.start + y.len) && decide (y.start < x.start + x.len)

/-- The first of a port's slots that fails a rule. -/
def slotFails (s : State) (a mode rule p : Nat) : Option Nat :=
  let us := usedSlots s mode p
  match rule with
  | 1 => (us.find? fun x => !slotFormed a x.2).map (·.1)
  | 2 => if syncSlot (slotAt s mode p 0) then none else some 0
  | 3 => (us.find? fun x => us.any fun y => y.1 != x.1 && y.2.down == x.2.down && overlap x.2 y.2).map (·.1)
  | 4 => (us.find? fun x => x.2.kind == 2 && (x.2.down || us.any fun y => y.1 != x.1 && y.2.kind == 2 && y.2.scree == x.2.scree)).map (·.1)
  | _ => (us.find? fun x => x.1 != 0 && x.2.down && decide (capacity a x.2.len < 17)).map (·.1)

/-- The first rule that a mode fails, with its slot and port: the lowest rule, then the lowest port, then the lowest slot (log 26). -/
def scheduleFault (s : State) (mode : Nat) : Option (Nat × Nat × Nat) :=
  [1, 2, 3, 4, 5].findSome? fun r => (List.range 16).findSome? fun p => (slotFails s (accw s) mode r p).map fun i => (r, i, p)

/-- A write of FSN_SCHCHK with GO: the mode is checked against the present ACCW (R274). -/
def schedCheck (s : State) (v : Word) : State :=
  let m := v.toNat % 4
  match scheduleFault s m with
  | none => (s.setReg R.FSN_SCHCHK (BitVec.ofNat 32 (8 + 16))).orReg R.FSN_STAT (BitVec.ofNat 32 (2 ^ (4 + m)))
  | some (r, i, p) => s.setReg R.FSN_SCHCHK (BitVec.ofNat 32 (8 + r * 32 + i * 256 + p * 2 ^ 14))

/-- A mode has passed its check. -/
def modeValid (s : State) (m : Nat) : Bool := s.regBit R.FSN_STAT (4 + m)

/-- A write of the star's configuration is refused. -/
def fsnLost (s : State) : State := s.orReg R.FSN_STAT 1

/-- STATE of FSN_MODE: 0 idle, 1 collecting, 2 announced, 3 switched, 4 abandoned, 5 refused. -/
def modeState (s : State) : Nat := s.regF R.FSN_MODE 4 3

/-- A switch is being collected or has been announced. -/
def switching (s : State) : Bool := modeState s == 1 || modeState s == 2

/-- Some port is enabled. -/
def anyPort (s : State) : Bool := s.regF R.FSN_CTRL 0 16 != 0 || s.fsn.ports.any (·.on)

/-- A write of FSN_SCHDATA: the entry at FSN_SCHADDR, refused in the current mode of enabled ports and in a mode that a switch names (R274). -/
def schedWrite (s : State) (v : Word) : State :=
  let key := s.regF R.FSN_SCHADDR 0 12
  let m := key / 1024
  if (m == curMode s && anyPort s) || (switching s && m == s.regF R.FSN_MODE 2 2) then fsnLost s
  else { s with fsn := { s.fsn with sched := cellPut (fun _ => (0 : Word)) key v s.fsn.sched } }.clrReg R.FSN_STAT (BitVec.ofNat 32 (2 ^ (4 + m)))

/-- A write of FSN_GCFG, for the bits of the mask: ACCW is refused while a port is enabled, and otherwise clears every VALID bit (R274, R298). -/
def gcfgWrite (s : State) (v mask : Word) : State :=
  let put (t : State) (m : Word) : State := t.setReg R.FSN_GCFG ((t.reg R.FSN_GCFG &&& ~~~m) ||| (v &&& m))
  if mask &&& 7 = 0 then put s mask
  else if anyPort s then fsnLost (put s (mask &&& ~~~7))
  else (put s mask).clrReg R.FSN_STAT 0xF0

/-- A write of FSN_CTRL: a port is enabled only while the current mode is valid; one whose EN is cleared is disabled at the next round start, though EN has been set again by then (R292). -/
def fsnCtrlWrite (s : State) (v : Word) : State :=
  let old := s.reg R.FSN_CTRL
  let new := v &&& 0xFFFF
  let s1 : State := { s with fsn := { s.fsn with ports := s.fsn.ports.mapIdx fun p x => { x with dropped := x.dropped || (bitOf old.toNat p && !bitOf new.toNat p) } } }
  if new &&& ~~~old = 0 ∨ modeValid s (curMode s) = true then s1.setReg R.FSN_CTRL new
  else fsnLost (s1.setReg R.FSN_CTRL (new &&& old))

/-! ### Ports and nodes -/

/-- A port. -/
def portAt (s : State) (p : Nat) : PortSt := s.fsn.ports.getD p PortSt.reset

/-- The state with a port changed. -/
def updStar (s : State) (p : Nat) (f : PortSt → PortSt) : State := { s with fsn := { s.fsn with ports := setAt s.fsn.ports p f } }

/-- A node of a port. -/
def nodeAt (s : State) (p k : Nat) : NodeSt := (portAt s p).nodes.getD k NodeSt.reset

/-- The state with a node changed. -/
def updNode (s : State) (p k : Nat) (f : NodeSt → NodeSt) : State := updStar s p fun x => { x with nodes := setAt x.nodes k f }

/-- An event of a port. -/
def portEvent (s : State) (p bit : Nat) : State := s.event (R.FSN_P_EVT p) (R.FSN_P_EVTEN p) bit (32 + p)

/-- An event of every enabled port. -/
def portsEvent (s : State) (bit : Nat) : State :=
  (List.range 16).foldl (fun t p => if s.regBit R.FSN_CTRL p then portEvent t p bit else t) s

/-- A port takes part in the round, and the module does not stand by (R272). -/
def portOn (s : State) (p : Nat) : Bool := (portAt s p).on && !isStandby s

/-- The node that owns a slot: the one named, or the one whose claim holds its Scree number (R294). -/
def slotOwner (s : State) (p : Nat) (x : Slot) : Option Nat :=
  if x.down then none
  else if x.kind = 1 then some x.node
  else ((portAt s p).claims.find? fun c => c.scree.toNat == x.scree).map (·.node.toNat)

/-- The slots that a node owns in the current mode. -/
def ownedSlots (s : State) (p k : Nat) : List Nat := ((usedSlots s (curMode s) p).filter fun x => slotOwner s p x.2 == some k).map (·.1)

/-- A change of a node's state, with its events (R283, R298). Its acknowledgement of a mode stands while it stays START or ADMITTED (R297). -/
def setNode (s : State) (p k : Nat) (st : BitVec 2) (startEnd : Nat) : State :=
  if (nodeAt s p k).st = st then s
  else
    let s1 := updNode s p k fun n => { n with st := st, startEnd := startEnd, good := 0, mack := n.mack && (st == 1 || st == 2) }
    let s2 := portEvent s1 p 0
    if st = 3 then portEvent s2 p 1 else s2

/-! ### The guardian (R279 to R282) -/

/-- The nominal start of a slot that a frame's start lies nearest to, in macroticks: that of the present round, or of the next one, whose windows reach back before its start (R279). -/
def nominal (s : State) (start : Nat) (x : Slot) : Nat :=
  let a := 1000 * s.fsn.round + x.start
  if ((start : Int) - (8 * (a + 1000) : Nat)).natAbs < ((start : Int) - (8 * a : Nat)).natAbs then a + 1000 else a

/-- How far a start lies from a slot's nominal start, in units of 125 ns. -/
def startError (s : State) (start : Nat) (x : Slot) : Int := (start : Int) - (8 * nominal s start x : Nat)

/-- The half-window of an uplink slot in macroticks; none where its owner is DRIFTING (R279, R283). -/
def halfWindow (s : State) (p : Nat) (x : Slot) : Option Nat :=
  match slotOwner s p x with
  | none => some 8
  | some k => match (nodeAt s p k).st.toNat with
    | 2 => some (accw s)
    | 3 => none
    | _ => some 8

/-- Whether a start lies within a number of macroticks of a slot's start. -/
def within (s : State) (start w : Nat) (x : Slot) : Bool := decide ((startError s start x).natAbs ≤ 8 * w)

/-- Of two slots in whose windows a start falls, the one whose nominal start is the earlier instant (R281). -/
def earlier (s : State) (start : Nat) (a : Option (Nat × Slot)) (b : Nat × Slot) : Option (Nat × Slot) :=
  match a with
  | none => some b
  | some a => if nominal s start b.2 < nominal s start a.2 then some b else some a

/-- The uplink slot in whose window a frame starts; of two, the earlier (R281). -/
def windowSlot (s : State) (p start : Nat) : Option (Nat × Slot) :=
  ((usedSlots s (curMode s) p).filter fun x => !x.2.down && (match halfWindow s p x.2 with | some w => within s start w x.2 | none => false)).foldl (earlier s start) none

/-- The slot in which a node's frame is measured (R282): its own slot whose window took the frame, else its own slot within 8 macroticks of whose start the frame starts; of two, the nearer. -/
def measuredSlot (s : State) (p start node : Nat) : Option (Nat × Slot) :=
  let mine := (usedSlots s (curMode s) p).filter fun x => slotOwner s p x.2 == some node && within s start 8 x.2
  let nearer (a : Option (Nat × Slot)) (b : Nat × Slot) : Option (Nat × Slot) :=
    match a with
    | none => some b
    | some a => if (startError s start b.2).natAbs < (startError s start a.2).natAbs then some b else some a
  match windowSlot s p start with
  | some x => if slotOwner s p x.2 = some node then some x else mine.foldl nearer none
  | none => mine.foldl nearer none

/-- The guardian measures a start of a node's frame: the offset, whether it lay beyond ACCW, and the slots started well in this round (R282, R283, R284). -/
def measure (s : State) (p start k : Nat) : State :=
  match measuredSlot s p start k with
  | none => s
  | some (i, x) =>
    let e := startError s start x
    let good := decide (e.natAbs ≤ 8 * accw s)
    updNode s p k fun n => { n with
      offset := BitVec.ofInt 8 e
      badStart := if good then n.badStart else some s.fsn.round
      seenSlots := if good then insertUp i n.seenSlots else n.seenSlots }

/-- Rounds within the latest 16 (R283 to R285). -/
def recent (round : Nat) (l : List Nat) : List Nat := l.filter fun r => round < r + 16

/-- A cut that is charged to no slot: counted, and the third within 16 rounds sets BABBLE (R281, R285). -/
def babbleCut (s : State) (p : Nat) : State :=
  let h := recent s.fsn.round (s.fsn.round :: (portAt s p).babHist)
  let s1 := (updStar s p fun x => { x with babHist := h, babble := x.babble || decide (3 ≤ h.length) }).bump (R.FSN_P_BABCNT p) 1
  if (portAt s p).babble = false ∧ 3 ≤ h.length then portEvent s1 p 2 else s1

/-- A cut is charged to the owner of a slot. -/
def chargeCut (s : State) (p k : Nat) : State := updNode s p k fun n => { n with cuts := recent s.fsn.round (s.fsn.round :: n.cuts) }

/-- A frame is cut: counted, and charged to the owner of the slot in whose window it started, or to the port (R280, R281). -/
def cutFrame (s : State) (p start : Nat) : State :=
  let s1 := portEvent (s.bump (R.FSN_P_CUTCNT p) 1) p 3
  match windowSlot s p start with
  | none => babbleCut s1 p
  | some (_, x) => match slotOwner s p x with
    | none => s1
    | some k => chargeCut s1 p k

/-- A frame is still sending at s + L − ACCW (R280): its start of frame and the bytes after it, at 80 ns each. -/
def tooLong (s : State) (start : Nat) (x : Slot) (bytes : Nat) : Bool :=
  decide ((8 * (nominal s start x + x.len - accw s)) * 25 < start * 25 + bytes * 16)

/-! ### Frames (R276 to R278) -/

/-- The frame with its FCS. -/
def withFcs (b : Bytes) : Bytes := b ++ beBytes 4 (crc32iso b).toNat

/-- A downlink frame. -/
def downFrameOf (s : State) (type slot : Nat) (body : Bytes) : Bytes :=
  withFcs ([BitVec.ofNat 8 (16 * type + 8), BitVec.ofNat 8 (64 * curMode s)] ++ beBytes 4 s.fsn.round ++ [BitVec.ofNat 8 slot, 0] ++ beBytes 2 body.length ++ body)

/-- TYPE of a frame. -/
def frameType (b : Bytes) : Nat := fld (beAt b 0 1) 4 4

/-- NODE of a frame. -/
def frameNode (b : Bytes) : Nat := fld (beAt b 0 1) 0 3

/-- TYPE and DIR fit an uplink slot: DATA or NULL in an owned one, CLAIM in a free Scree slot (R276, R293). -/
def typeFits (b : Bytes) (owned : Bool) : Bool :=
  !bitOf (beAt b 0 1) 3 && (if owned then frameType b == 2 || frameType b == 4 else frameType b == 3)

/-- LEN fits the type and the capacity. -/
def lenFits (b : Bytes) (cap : Nat) : Bool :=
  let n := beAt b 8 2
  b.length == n + 14 && decide (n ≤ cap) && (if frameType b = 2 then n % 13 == 0 else n == 0)

/-- The checks of acceptance (R276). -/
def frameOk (s : State) (b : Bytes) (owned : Bool) (x : Slot) : Bool :=
  decide (14 ≤ b.length) && beBytes 4 (crc32iso (b.take (b.length - 4))).toNat == b.drop (b.length - 4) && typeFits b owned &&
    fld (beAt b 1 1) 6 2 == curMode s && lenFits b (capacity (accw s) x.len)

/-- The entry at an offset of a body (R278). -/
def entryAt (p : Nat) (b : Bytes) (k : Nat) : FieldIn :=
  let o := 10 + 13 * k
  { port := BitVec.ofNat 4 p, obj := BitVec.ofNat 20 (beAt b o 3), pad := BitVec.ofNat 4 (beAt b o 3 / 2 ^ 20), record := BitVec.ofNat 16 (beAt b (o + 3) 2),
    code1 := BitVec.ofNat 32 (beAt b (o + 5) 4), code2 := BitVec.ofNat 32 (beAt b (o + 9) 4), round := BitVec.ofNat 32 (beAt b 2 4) }

/-- The entries of an accepted DATA frame take the place of earlier ones for their objects (R287). -/
def takeEntries (s : State) (p : Nat) (b : Bytes) : State :=
  let es := (List.range (beAt b 8 2 / 13)).map (entryAt p b)
  updStar s p fun x => { x with rx := es.foldl (fun l e => l.filter (fun f => f.obj != e.obj) ++ [e]) x.rx }

/-- The nodes whose acknowledgement step 3 of R296 awaits have all acknowledged. -/
def allAcked (s : State) : Bool :=
  (List.range 16).all fun p => !s.regBit R.FSN_CTRL p || (portAt s p).nodes.all fun n => !(n.st == 1 || n.st == 2) || n.mack

/-- Step 3 of R296: SWROUND is fixed and announced. -/
def announce (s : State) : State :=
  if modeState s = 1 ∧ allAcked s = true then
    let r := s.fsn.round + s.regF R.FSN_MODECFG 8 4
    ({ s with fsn := { s.fsn with swRound := r } }.setF R.FSN_MODE 4 3 2).setReg R.FSN_SWROUND (BitVec.ofNat 32 r)
  else s

/-- A node's frame has been accepted in one of its slots: an ABSENT node enters START, and an acknowledgement counts while a switch is collected (R283, R296). -/
def nodeHeard (s : State) (p k : Nat) (mack : Bool) : State :=
  let s1 := if (nodeAt s p k).st = 0 then setNode s p k 1 (s.fsn.round + 64) else s
  announce (updNode s1 p k fun n => { n with heard := true, mack := n.mack || (mack && modeState s == 1) })

/-- An accepted frame. -/
def acceptFrame (s : State) (p : Nat) (x : Slot) (b : Bytes) : State :=
  let s1 := s.bump (R.FSN_P_RXCNT p) 1
  match slotOwner s p x with
  | none => updStar s1 p fun y => { y with asked := y.asked ++ [(BitVec.ofNat 4 x.scree, BitVec.ofNat 3 (frameNode b))] }
  | some k => nodeHeard (if frameType b = 2 then takeEntries s1 p b else s1) p k (bitOf (beAt b 1 1) 5)

/-- ETL_F_FRAME: an uplink frame with the instant of its start; the guardian may cut it, and otherwise it is accepted or discarded. -/
def execEtlFFrame (p : BitVec 4) (start : Nat) (frame : Bytes) (s : State) : Host.Outcome State Fault Refusal :=
  let k := p.toNat
  if portOn s k = false then .next s
  else match windowSlot s k start with
    | none => .next (cutFrame (measure s k start (frameNode frame)) k start)
    | some (_, x) =>
      let owner := slotOwner s k x
      let s1 := measure s k start (frameNode frame)
      if owner.isSome && owner != some (frameNode frame) then .next (cutFrame s1 k start)
      else
        if tooLong s start x frame.length then .next (cutFrame s1 k start)
        else if frameOk s frame owner.isSome x then .next (acceptFrame s1 k x frame)
        else .next (s1.bump (R.FSN_P_RXERRCNT k) 1)

/-- FRAME_CUT: the guardian cuts a frame, for whatever reason, and measures it as its node's (R280 to R282). -/
def execFrameCut (p : BitVec 4) (start : Nat) (node : BitVec 3) (_ : CutWhy) (s : State) : Host.Outcome State Fault Refusal :=
  if portOn s p.toNat = false then .next s else .next (cutFrame (measure s p.toNat start node.toNat) p.toNat start)

/-- The frame a downlink slot carries: as many queue entries as the capacity allows, from where the last one stopped, or NULL (R290). -/
def downData (s : State) (p i : Nat) (x : Slot) : State :=
  let y := portAt s p
  let n := min ((capacity (accw s) x.len - 4) / 13) y.queue.length
  if n = 0 then s.emit (.etlF (BitVec.ofNat 4 p) (downFrameOf s 4 i []))
  else
    let es := (List.range n).filterMap fun j => y.queue[(y.pos + j) % y.queue.length]?
    let body := beBytes 4 y.qcycle ++ es.flatMap fun m => beBytes 3 m.obj.toNat ++ beBytes 2 m.record.toNat ++ beBytes 4 m.code1.toNat ++ beBytes 4 m.code2.toNat
    (updStar s p fun y => { y with pos := (y.pos + n) % y.queue.length, sent := min y.queue.length (y.sent + n) }).emit
      (.etlF (BitVec.ofNat 4 p) (downFrameOf s 2 i body))

/-- DOWNLINK_SLOT: the start of a downlink slot other than slot 0. -/
def execDownlinkSlot (p : BitVec 4) (slot : BitVec 6) (s : State) : Host.Outcome State Fault Refusal :=
  let x := slotAt s (curMode s) p.toNat slot.toNat
  if portOn s p.toNat && slot != 0 && x.kind == 1 && x.down then .next (downData s p.toNat slot.toNat x) else .next s

/-! ### Node states in time (R283 to R286, R295) -/

/-- A node has gone 16 rounds without an accepted frame, the present one included. -/
def absentDue (s : State) (p k : Nat) : Bool :=
  let n := nodeAt s p k
  n.st != 0 && !n.heard && decide (15 ≤ n.silent)

/-- The end of a node's 64 rounds in START: ADMITTED where every start in the last 8 rounds lay within ACCW. -/
def startOver (s : State) (p k : Nat) : State :=
  let n := nodeAt s p k
  if (n.badStart.map fun r => decide (s.fsn.round < r + 8)) = some true then updNode s p k fun n => { n with startEnd := s.fsn.round + 64 }
  else setNode s p k 2 (s.fsn.round + 1)

/-- A node's START period ends with the present round. -/
def startDue (s : State) (p k : Nat) : Bool := (nodeAt s p k).st == 1 && decide ((nodeAt s p k).startEnd ≤ s.fsn.round)

/-- ABSENT_TIMEOUT (R283): what is left of the round is no round of absence (R295). -/
def execAbsentTimeout (p : BitVec 4) (node : BitVec 3) (s : State) : Host.Outcome State Fault Refusal :=
  if portOn s p.toNat && absentDue s p.toNat node.toNat then .next (announce (updNode (setNode s p.toNat node.toNat 0 0) p.toNat node.toNat fun n => { n with late := true })) else .next s

/-- START_PERIOD (R283). -/
def execStartPeriod (p : BitVec 4) (node : BitVec 3) (s : State) : Host.Outcome State Fault Refusal :=
  if portOn s p.toNat && !absentDue s p.toNat node.toNat && startDue s p.toNat node.toNat then .next (startOver s p.toNat node.toNat) else .next s

/-- A claim is released, with its event (R295, R298). -/
def releaseClaim (s : State) (p : Nat) (scree : BitVec 4) : State :=
  portEvent (updStar s p fun x => { x with claims := x.claims.filter fun c => c.scree != scree }) p 6

/-- A claim whose node has been ABSENT for SCREEREL rounds, the present one included. -/
def claimDue (s : State) (p : Nat) (c : Claim) : Bool :=
  (nodeAt s p c.node.toNat).st == 0 && !(nodeAt s p c.node.toNat).late && decide (s.regF R.FSN_GCFG 16 16 ≤ c.absent + 1)

/-- SCREEREL (R295). -/
def execScreeRel (p : BitVec 4) (scree : BitVec 4) (s : State) : Host.Outcome State Fault Refusal :=
  if (portAt s p.toNat).claims.any fun c => c.scree == scree && claimDue s p.toNat c then .next (releaseClaim s p.toNat scree) else .next s

/-- LINK_LOSS (R286): the nodes become ABSENT at the next round start. -/
def execLinkLoss (p : BitVec 4) (s : State) : Host.Outcome State Fault Refusal := .next (updStar s p.toNat fun x => { x with linkNow := false, linkLost := true })

/-- LINK_RETURN (R286). -/
def execLinkReturn (p : BitVec 4) (s : State) : Host.Outcome State Fault Refusal := .next (updStar s p.toNat fun x => { x with linkNow := true })

/-! ### Mode switches (R296, R297) -/

/-- The Scree numbers of a port in a mode. -/
def screeNumbers (s : State) (mode p : Nat) : List Nat := ((usedSlots s mode p).filter fun x => x.2.kind == 2).map (·.2.scree)

/-- The claims that a mode has no slot for are released. -/
def dropClaims (s : State) (m p : Nat) : State :=
  ((portAt s p).claims.filter fun c => !(screeNumbers s m p).contains c.scree.toNat).foldl (fun t c => releaseClaim t p c.scree) s

/-- Every port uses the announced mode (R296, step 4). -/
def switchMode (s : State) : State :=
  let m := s.regF R.FSN_MODE 2 2
  portsEvent ((List.range 16).foldl (fun t p => dropClaims t m p) ((s.setF R.FSN_MODE 0 2 m).setF R.FSN_MODE 4 3 3)) 7

/-- SWROUND: the start of the round announced; it comes at the end of the round before. -/
def execSwRound (s : State) : Host.Outcome State Fault Refusal :=
  if modeState s = 2 ∧ s.fsn.swRound ≤ s.fsn.round + 1 then .next (switchMode s) else .next s

/-- ACKTO: no announcement within ACKTO rounds of GO. -/
def execAckTo (s : State) : Host.Outcome State Fault Refusal :=
  if modeState s = 1 ∧ s.fsn.goRound + s.regF R.FSN_MODECFG 0 8 ≤ s.fsn.round then .next (portsEvent (s.setF R.FSN_MODE 4 3 4) 8) else .next s

/-- A write of FSN_MODE with GO; with no node to acknowledge, step 3 of R296 is reached at once. -/
def modeGo (s : State) (v : Word) : State :=
  let m := fld v.toNat 8 2
  if switching s then fsnLost s
  else if modeValid s m = false ∨ m = curMode s then portsEvent ((s.setF R.FSN_MODE 2 2 m).setF R.FSN_MODE 4 3 5) 8
  else
    let s1 := (s.setF R.FSN_MODE 2 2 m).setF R.FSN_MODE 4 3 1
    announce { s1 with fsn := { s1.fsn with
      goRound := s1.fsn.round
      ports := s1.fsn.ports.map fun x => { x with nodes := x.nodes.map fun n => { n with mack := false } } } }

/-! ### The round (R273, R277, R294) -/

/-- A node's round ends: its cuts and good rounds may change its state, and its counts go on (R283, R284). Cuts from its START never lead to DRIFTING (R281). -/
def nodeRound (p : Nat) (s : State) (k : Nat) : State :=
  let n := nodeAt s p k
  let r := s.fsn.round
  let mine := ownedSlots s p k
  let good := if n.st = 3 ∧ mine ≠ [] ∧ mine.all (fun i => n.seenSlots.contains i) then n.good + 1 else 0
  let s1 :=
    if absentDue s p k then setNode s p k 0 0
    else if startDue s p k then startOver s p k
    else if n.st = 2 ∧ n.cuts.contains r ∧ 3 ≤ ((recent r n.cuts).filter (n.startEnd ≤ ·)).length then setNode s p k 3 0
    else if n.st = 3 ∧ 8 ≤ good then setNode s p k 2 0
    else s
  updNode s1 p k fun x => { x with
    silent := if x.heard || x.st == 0 then 0 else x.silent + 1
    good := if x.st = 3 then good else 0
    cuts := recent (r + 1) x.cuts, seenSlots := [], heard := false, late := false }

/-- Every node of a port becomes ABSENT (R272, R286, R292). -/
def allAbsent (s : State) (p : Nat) : State := (List.range 8).foldl (fun t k => setNode t p k 0 0) s

/-- The claims of a port go on: those due are released, the others count the rounds of absence (R295). -/
def claimsRound (s : State) (p : Nat) : State :=
  let s1 := ((portAt s p).claims.filter (claimDue s p)).foldl (fun t c => releaseClaim t p c.scree) s
  updStar s1 p fun x => { x with claims := x.claims.map fun c => { c with absent := if (nodeAt s1 p c.node.toNat).st = 0 ∧ (nodeAt s1 p c.node.toNat).late = false then c.absent + 1 else 0 } }

/-- The claim that a port grants: the lowest Scree number claimed by exactly one frame, whose node owns no slot and holds no claim (R294). -/
def grantOf (s : State) (p : Nat) : Option (BitVec 4 × BitVec 3) :=
  let x := portAt s p
  let owns (k : BitVec 3) : Bool := !(ownedSlots s p k.toNat).isEmpty
  let ok := x.asked.filter fun a => (x.asked.filter fun b => b.1 == a.1).length == 1 && !owns a.2 && !x.claims.any fun c => c.node == a.2
  ok.foldl (fun g a => match g with
    | none => some a
    | some b => if a.1.toNat < b.1.toNat then some a else some b) none

/-- A grant takes effect: from this round the node owns the slot and is in START. -/
def giveGrant (s : State) (p : Nat) : State :=
  let g := grantOf s p
  let s1 := updStar s p fun x => { x with asked := [], grant := g.map fun a => (a.2, a.1) }
  match g with
  | none => s1
  | some (j, k) =>
    let s2 := updStar s1 p fun x => { x with claims := x.claims ++ [{ scree := j, node := k, absent := 0 }] }
    portEvent (setNode s2 p k.toNat 1 (s.fsn.round + 64)) p 5

/-- A port is enabled or disabled, from round r on; with EN cleared and set again in the round before it is both, and nothing of it survives (R272, R292). -/
def portTurns (r : Nat) (s : State) (p : Nat) : State :=
  let want := s.regBit R.FSN_CTRL p && !portsShut s r
  let x := portAt s p
  if want = x.on ∧ x.dropped = false then s
  else if x.on = false then updStar s p fun y => { y with on := want, dropped := false }
  else
    let s1 := (portAt s p).claims.foldl (fun t c => releaseClaim t p c.scree) (allAbsent s p)
    updStar s1 p fun y => { y with on := want, dropped := false, nodes := List.replicate 8 NodeSt.reset, babble := false, babHist := [], asked := [], grant := none }

/-- A change of the PHY's link takes effect at the round start; a loss does though the link has returned since (R286). -/
def linkTurns (s : State) (p : Nat) : State :=
  let x := portAt s p
  if x.linkNow = x.link ∧ x.linkLost = false then s
  else
    let s1 := portEvent (updStar s p fun y => { y with link := y.linkNow, linkLost := false }) p 9
    if x.linkLost then allAbsent s1 p else s1

/-- BABBLE clears after 16 rounds with none (R285). -/
def babbleRound (s : State) (p : Nat) : State :=
  updStar s p fun x => { x with babHist := recent s.fsn.round x.babHist, babble := x.babble && !(recent s.fsn.round x.babHist).isEmpty }

/-- What the end of a round does on a port: claims count the round as its nodes stood in it. -/
def portRound (r : Nat) (s : State) (p : Nat) : State :=
  let s1 := if portOn s p then giveGrant ((List.range 8).foldl (nodeRound p) (babbleRound (claimsRound s p) p)) p else s
  portTurns r (linkTurns s1 p) p

/-- Every port of a module that becomes the standby stops at once: it sends nothing more, and its nodes read ABSENT (R272). -/
def starStops (s : State) : State := (List.range 16).foldl (portTurns s.fsn.round) s

/-- A round number that moves with the time base. -/
def shiftRound (new old r : Nat) : Nat := r + new - old

/-- A port's round stamps after the time base has been loaded. -/
def PortSt.shift (f : Nat → Nat) (x : PortSt) : PortSt :=
  { x with
    babHist := x.babHist.map f
    nodes := x.nodes.map fun n => { n with cuts := n.cuts.map f, startEnd := if n.startEnd = 0 then 0 else f n.startEnd, badStart := n.badStart.map f } }

/-- The ring's round stamps, and its counts in 1/1,024 macrotick, after the time base has been loaded. -/
def FrnSt.shift (f g : Nat → Nat) (x : FrnSt) : FrnSt :=
  { x with
    links := x.links.map fun l => { l with lastGood := f l.lastGood, cuts := l.cuts.map f, neigh := g l.neigh }
    lastRef := x.lastRef.map fun r => (r.1, r.2.1, f r.2.2)
    lastAny := x.lastAny.map f, enabledAt := f x.enabledAt, backoffEnd := f x.backoffEnd, sentRound := x.sentRound.map f
    txTimes := x.txTimes.map g, ppsLast := x.ppsLast.map g }

/-- The time base is loaded directly (R310, R314, R349): the round number and the next management tick follow it (R17, R273), what is measured in rounds keeps its distance, and a tick that no snapshot has carried yet stays due. -/
def loadBase (s : State) (t : Nat) : State :=
  let f := shiftRound (t / 1000) s.fsn.round
  let tick := (t + 999999) / 1000000 * 1000000 - 1000000
  { s with
    cyc := { s.cyc with timeBase := t, tick := tick, tickSeen := if s.cyc.tickSeen < s.cyc.tick then tick - 1 else tick }
    fsn := { s.fsn with round := t / 1000, goRound := f s.fsn.goRound, ports := s.fsn.ports.map (·.shift f) }
    frn := s.frn.shift f (shiftRound (1024 * t) (1024 * s.cyc.timeBase))
    upd := { s.upd with
      sess := s.upd.sess.map fun x => { x with lastAt := shiftRound t s.cyc.timeBase x.lastAt }
      trialEnd := shiftRound t s.cyc.timeBase s.upd.trialEnd }
    power := { s.power with pfwAt := shiftRound t s.cyc.timeBase s.power.pfwAt }
    sby := { s.sby with lastFrame := shiftRound t s.cyc.timeBase s.sby.lastFrame } }

/-- The body of SYNC (R277). -/
def syncBody (s : State) (p : Nat) : Bytes :=
  let x := portAt s p
  let st := modeState s
  let nst := (x.nodes.zipIdx.map fun n => n.1.st.toNat * 4 ^ n.2).foldl (· + ·) 0
  let grant := match x.grant with | none => 0 | some (k, j) => 2 ^ 15 + k.toNat * 2 ^ 12 + j.toNat * 2 ^ 8
  let free := ((screeNumbers s (curMode s) p).filter fun j => !x.claims.any fun c => c.scree.toNat == j).foldl (fun a j => a ||| 2 ^ j) 0
  beBytes 2 s.cyc.tcyc ++ beBytes 6 s.cycle ++ [BitVec.ofNat 8 (s.regF R.FSN_MODE 2 2 + 4 * b2n (st == 1) + 8 * b2n (st == 2)), 0] ++
    beBytes 4 (if st = 2 then s.fsn.swRound else 0) ++ x.nodes.map (·.offset) ++ beBytes 2 nst ++ beBytes 2 grant ++ beBytes 2 free

/-- SYNC on a port. -/
def sendSync (s : State) (p : Nat) : State := if portOn s p then s.emit (.etlF (BitVec.ofNat 4 p) (downFrameOf s 1 0 (syncBody s p))) else s

/-- The field star at the start of a round: the round before ends, an announced switch takes effect, and SYNC is sent on each port. -/
def starRound (s : State) (r : Nat) : State :=
  let s1 := announce ((List.range 16).foldl (portRound r) s)
  let s2 := { s1 with fsn := { s1.fsn with round := r } }
  let s3 := if modeState s2 = 2 ∧ s2.fsn.swRound ≤ r then switchMode s2 else s2
  (List.range 16).foldl sendSync s3

end Sys2Proof.Machine
end

