-- ==== Sys2Proof/Machine/Digest.lean ====
section
/-! DEFINITION. SHA-256 (R9: FIPS 180-4), for the digests of R422 that are taken over bytes the module's state holds. The constants are computed from the primes that the standard takes them from, and the message schedule is a window of sixteen words that moves on by one with each round. -/

namespace Sys2Proof.Machine

/-- `known` with the primes among the n numbers from c on, where it holds every prime below c. -/
def primesFrom : Nat → Nat → List Nat → List Nat
  | 0, _, known => known
  | n + 1, c, known => primesFrom n (c + 1) (if known.all fun p => c % p != 0 then known ++ [c] else known)

/-- The primes below 312, of which there are 64. -/
def smallPrimes : List Nat := primesFrom 310 2 []

/-- The largest r below 2^n, with the bits of `r` above them, whose k-th power is at most x. -/
def rootBits (k x : Nat) : Nat → Nat → Nat
  | 0, r => r
  | n + 1, r => rootBits k x n (if (r + 2 ^ n) ^ k ≤ x then r + 2 ^ n else r)

/-- The first 32 bits of the fractional part of the k-th root of p. -/
def rootFraction (k p : Nat) : Word := BitVec.ofNat 32 (rootBits k (p * 2 ^ (32 * k)) 37 0)

/-- The constants of the 64 rounds: cube roots. -/
def roundConstants : List Word := smallPrimes.map (rootFraction 3)

/-- The initial hash value: square roots of the first eight primes. -/
def initialHash : List Word := (smallPrimes.take 8).map (rootFraction 2)

/-- The sum of a word rotated right by each of some amounts, and, where `shift` is not 0, shifted right by that. -/
def rotated (w : Word) (amounts : List Nat) (shift : Nat) : Word :=
  amounts.foldl (fun acc n => acc ^^^ w.rotateRight n) (if shift = 0 then 0 else w >>> shift)

/-- The word that joins the window of sixteen, from the words 0, 1, 9 and 14 of it. -/
def nextScheduled (win : List Word) : Word :=
  win.headD 0 + rotated (win.getD 1 0) [7, 18] 3 + win.getD 9 0 + rotated (win.getD 14 0) [17, 19] 10

/-- Rounds over their constants, with the window whose head is the present round's word and the eight working variables as a list. -/
def digestRounds : List Word → List Word → List Word → List Word
  | k :: ks, win, [a, b, c, d, e, f, g, h] =>
    let t := h + rotated e [6, 11, 25] 0 + (g ^^^ (e &&& (f ^^^ g))) + k + win.headD 0
    digestRounds ks (win.tail ++ [nextScheduled win]) [t + rotated a [2, 13, 22] 0 + ((a &&& b) ||| (c &&& (a ||| b))), a, b, c, d + t, e, f, g]
  | _, _, v => v

/-- The hash value after n blocks of 64 bytes at the front of a padded message. -/
def digestBlocks : Nat → Bytes → List Word → List Word
  | 0, _, hash => hash
  | n + 1, m, hash =>
    let win := (List.range 16).map fun i => BitVec.ofNat 32 (beAt m (4 * i) 4)
    digestBlocks n (m.drop 64) ((hash.zip (digestRounds roundConstants win hash)).map fun p => p.1 + p.2)

/-- The bytes that fill a message of n bytes to whole blocks: a bit 1, zeros, and the length in bits. -/
def digestFill (n : Nat) : Bytes := 0x80 :: List.replicate ((119 - n % 64) % 64) 0 ++ beBytes 8 (8 * n)

/-- SHA-256 of bytes. -/
def sha256 (b : Bytes) : Bytes :=
  let m := b ++ digestFill b.length
  (digestBlocks (m.length / 64) m initialHash).flatMap fun w => beBytes 4 w.toNat

end Sys2Proof.Machine
end

