-- ==== Sys2Proof/Machine/Cipher.lean ====
section
/-! DEFINITION. The signatures and the encryption of R9: RSASSA-PSS with a 3,072-bit key, MGF1 and SHA-256 and a 32-byte salt (RFC 8017), and AES-256-GCM (FIPS 197, NIST SP 800-38D) with a 12-byte IV. -/

namespace Sys2Proof.Machine

/-! ### RSASSA-PSS (RFC 8017) -/

/-- The length of a modulus and of a signature, in bytes (R104, R406). -/
abbrev rsaBytes : Nat := 384

/-- The length of a salt, in bytes (R9). -/
abbrev saltBytes : Nat := 32

/-- b to the power e modulo n, over the low k bits of e. -/
def powMod (b n : Nat) : Nat → Nat → Nat
  | 0, _ => 1 % n
  | k + 1, e =>
    let half := powMod b n k (e / 2)
    let square := half * half % n
    if e % 2 = 1 then square * b % n else square

/-- MGF1: n mask bytes from a seed. -/
def maskBytes (seed : Bytes) (n : Nat) : Bytes :=
  ((List.range (n / 32 + 1)).flatMap fun i => sha256 (seed ++ beBytes 4 i)).take n

/-- Bytes combined one by one. -/
def xorBytes (a b : Bytes) : Bytes := List.zipWith (· ^^^ ·) a b

/-- The hash H of a message hash and its salt. -/
def saltedHash (digest salt : Bytes) : Bytes := sha256 (List.replicate 8 0 ++ digest ++ salt)

/-- The data block of a salt: zeros, a byte 1, the salt. -/
def saltBlock (salt : Bytes) : Bytes := List.replicate (rsaBytes - saltBytes - 34) 0 ++ 1 :: salt

/-- The same with its leftmost bit cleared, which lies above the 3,071 bits of an encoded message. -/
def clearTop : Bytes → Bytes
  | [] => []
  | b :: t => (b &&& 0x7F) :: t

/-- The encoded message of a digest with a salt. -/
def pssEncode (digest salt : Bytes) : Bytes :=
  let h := saltedHash digest salt
  clearTop (xorBytes (saltBlock salt) (maskBytes h (rsaBytes - 33))) ++ h ++ [0xBC]

/-- Whether an encoded message fits a digest: its salt is the one that unmasking shows, and with that salt the digest encodes to it. -/
def pssFits (digest em : Bytes) : Bool :=
  let masked := em.take (rsaBytes - 33)
  let h := (em.drop (rsaBytes - 33)).take 32
  let block := clearTop (xorBytes masked (maskBytes h (rsaBytes - 33)))
  em == pssEncode digest (block.drop (rsaBytes - 33 - saltBytes))

/-- A public modulus as the state holds it: a number of 3,072 bits, little-endian as the fields of a token are (R406; log 78). -/
def modulus (key : Bytes) : Nat := leNat key

/-- A signature verifies under a public key with the exponent 65,537 (R406): an octet string in the order of RFC 8017 (log 78). -/
def pssVerify (key digest sig : Bytes) : Bool :=
  let n := modulus key
  decide (sig.length = rsaBytes) && decide (2 ^ 3071 ≤ n) && decide (n < 2 ^ 3072) && decide (beNat sig < n) &&
    pssFits digest (beBytes rsaBytes (powMod (beNat sig) n 17 65537))

/-- The signature of a digest with a private exponent and a salt. -/
def pssSign (key priv digest salt : Bytes) : Bytes := beBytes rsaBytes (powMod (beNat (pssEncode digest salt)) (modulus key) 3072 (leNat priv))

/-! ### AES-256 (FIPS 197) -/

/-- Twice an element of the field of 256, whose elements are numbers: bit k is the coefficient of the power k. -/
def fieldTwice (a : Nat) : Nat := if a < 128 then 2 * a else (2 * a) ^^^ 0x11B

/-- The product of two elements, over the low k bits of the second. -/
def fieldMul (a : Nat) : Nat → Nat → Nat
  | 0, _ => 0
  | k + 1, b => (b % 2 * a) ^^^ fieldTwice (fieldMul a k (b / 2))

/-- The power 2^n - 2 of an element, n at least 1: the squares that follow it, multiplied up. -/
def fieldSquares : Nat → Nat → Nat
  | 0, _ => 1
  | n + 1, a => let sq := fieldMul a 8 a; fieldMul sq 8 (fieldSquares n sq)

/-- The substitution of an element: its inverse, which is its power 254 (0 of 0), under the affine transformation. -/
def substituted (a : Nat) : Nat :=
  let w := fieldSquares 7 a * 257
  (List.range 4).foldl (fun x k => x ^^^ (w / 2 ^ (7 - k) % 256)) ((w % 256) ^^^ 0x63)

/-- The substitution of every byte. -/
def substitution : Bytes := (List.range 256).map fun a => BitVec.ofNat 8 (substituted a)

/-- The substitution of a byte. -/
def substitute (a : Byte) : Byte := substitution.getD a.toNat 0

/-- Twice a byte as an element of the field. -/
def twice (a : Byte) : Byte := BitVec.ofNat 8 (fieldTwice a.toNat)

/-- The words of the key schedule from word i on, n of them, each from the one before and the one eight places back. -/
def scheduleWords : Nat → Nat → List Bytes → List Bytes
  | 0, _, ws => ws
  | n + 1, i, ws =>
    let last := ws.getD (i - 1) []
    let mixed :=
      if i % 8 = 0 then xorBytes ((last.drop 1 ++ last.take 1).map substitute) [1 <<< (i / 8 - 1), 0, 0, 0]
      else if i % 8 = 4 then last.map substitute
      else last
    scheduleWords n (i + 1) (ws ++ [xorBytes (ws.getD (i - 8) []) mixed])

/-- The fifteen round keys of a 256-bit key. -/
def roundKeys (key : Bytes) : List Bytes :=
  let start := (List.range 8).map fun i => ((padTo 32 key).drop (4 * i)).take 4
  let words := scheduleWords 52 8 start
  (List.range 15).map fun r => ((words.drop (4 * r)).take 4).flatten

/-- The rows of a block shifted: byte r of column c comes from column c + r. -/
def shiftRows (b : Bytes) : Bytes := (List.range 16).map fun k => b.getD (4 * ((k / 4 + k % 4) % 4) + k % 4) 0

/-- One byte of a mixed column: twice its own byte, three times the next, and the two others. -/
def mixedByte (b : Bytes) (k : Nat) : Byte :=
  let at' (j : Nat) : Byte := b.getD (k / 4 * 4 + (k + j) % 4) 0
  twice (at' 0) ^^^ twice (at' 1) ^^^ at' 1 ^^^ at' 2 ^^^ at' 3

/-- The rounds of a block over the round keys; the last one mixes no columns. -/
def cipherRounds : List Bytes → Bytes → Bytes
  | [], b => b
  | [k], b => xorBytes (shiftRows (b.map substitute)) k
  | k :: ks, b =>
    let shifted := shiftRows (b.map substitute)
    cipherRounds ks (xorBytes ((List.range 16).map (mixedByte shifted)) k)

/-- A block encrypted under its round keys. -/
def encryptBlock (keys : List Bytes) (b : Bytes) : Bytes :=
  match keys with
  | [] => b
  | k :: ks => cipherRounds ks (xorBytes b k)

/-! ### GCM (NIST SP 800-38D) -/

/-- The product of two blocks, whose bit 127 is their first bit, over the first k bits of the first; `y` is the other, moved on by the bits already taken. -/
def blockMul (x : BitVec 128) : Nat → BitVec 128 → BitVec 128 → BitVec 128
  | 0, _, z => z
  | k + 1, y, z =>
    blockMul x k ((y >>> 1) ^^^ (if y.getLsbD 0 then (0xE1 : BitVec 128) <<< 120 else 0)) (if x.getLsbD k then z ^^^ y else z)

/-- GHASH over n blocks. -/
def blockHash (h : BitVec 128) : Nat → Bytes → BitVec 128 → BitVec 128
  | 0, _, y => y
  | n + 1, b, y => blockHash h n (b.drop 16) (blockMul (y ^^^ BitVec.ofNat 128 (beNat (padTo 16 (b.take 16)))) 128 h 0)

/-- Bytes filled with zeros to whole blocks. -/
def blockFill (b : Bytes) : Bytes := padTo ((b.length + 15) / 16 * 16) b

/-- The key stream from byte `off` of a text on, n bytes of it: block j of the text is masked by the counter j + 2. -/
def keyStream (key iv : Bytes) (off n : Nat) : Bytes :=
  let keys := roundKeys key
  (((List.range (n / 16 + 2)).flatMap fun j => encryptBlock keys (iv ++ beBytes 4 (off / 16 + j + 2))).drop (off % 16)).take n

/-- Bytes of a text from byte `off` on, encrypted, or of a ciphertext, decrypted. -/
def gcmText (key iv : Bytes) (off : Nat) (b : Bytes) : Bytes := xorBytes b (keyStream key iv off b.length)

/-- The tag over additional data and a ciphertext. -/
def gcmTag (key iv aad cipher : Bytes) : Bytes :=
  let keys := roundKeys key
  let h := BitVec.ofNat 128 (beNat (encryptBlock keys (List.replicate 16 0)))
  let b := blockFill aad ++ blockFill cipher ++ beBytes 8 (8 * aad.length) ++ beBytes 8 (8 * cipher.length)
  xorBytes (beBytes 16 (blockHash h (b.length / 16) b 0).toNat) (encryptBlock keys (iv ++ beBytes 4 1))

end Sys2Proof.Machine
end

