-- ==== Sys2Proof/Machine/Loam.lean ====
section
/-! DEFINITION. The Loam image: its header, sections and tables (R102 to R105), the checks of R106 before it is accepted, and the element words of R93 that a load or an entry to STOPPED writes. -/

namespace Sys2Proof.Machine

/-! ### Element types (R85) and information word fields (R81, R86) -/

abbrev tyNone : Nat := 0
abbrev tyTrk : Nat := 1
abbrev tyPnt : Nat := 2
abbrev tySig : Nat := 3
abbrev tyXng : Nat := 4
abbrev tyRte : Nat := 5
abbrev tyOvl : Nat := 6
abbrev tyFlk : Nat := 7
abbrev tyTmr : Nat := 8
abbrev tyKey : Nat := 9
abbrev tyDor : Nat := 10
abbrev tyLat : Nat := 11

/-- The type of an element, as a number. -/
def Elem.ty (e : Elem) : Nat := e.type.toNat

/-- Claimable types carry TAG in bits [18:11] (R81, R85). -/
def claimable (t : Nat) : Bool := t == tyTrk || t == tyPnt || t == tySig || t == tyXng || t == tyOvl || t == tyFlk

/-- Types that may be field-bound (R85). -/
def fieldType (t : Nat) : Bool := t == tyTrk || t == tyPnt || t == tySig || t == tyXng || t == tyKey || t == tyDor || t == tyLat

/-- A field of an information word. -/
def ifld (x : Info) (lsb w : Nat) : Nat := fld x.toNat lsb w

/-- An information word with a field replaced. -/
def iput (x : Info) (lsb w v : Nat) : Info := BitVec.ofNat 24 (putFld x.toNat lsb w v)

/-- An information word with several fields replaced, each given as lowest bit, width and value. -/
def iputs (x : Info) (l : List (Nat × Nat × Nat)) : Info := l.foldl (fun x f => iput x f.1 f.2.1 f.2.2) x

/-! ### Neighbour words (R94) -/

/-- Whether the port is linked. -/
def nbrPresent (w : Word) : Bool := bitOf w.toNat 23
/-- The neighbour's index. -/
def nbrIx (w : Word) : Nat := fld w.toNat 0 23
/-- The neighbour's port on which the link arrives. -/
def nbrFar (w : Word) : Nat := fld w.toNat 24 2
/-- Whether leaving by this port travels down. -/
def nbrDown (w : Word) : Bool := bitOf w.toNat 26
/-- RUN. -/
def nbrRun (w : Word) : Nat := fld w.toNat 27 2

/-- The neighbour word of a port. -/
def Elem.port (e : Elem) (p : Nat) : Word := e.nbr.getD p 0

/-! ### Parsing (R102 to R105) -/

/-- The eight section descriptors: TYPE, OFFSET, LENGTH and CRC (R102). -/
def loamSects (b : Bytes) : List (Nat × Nat × Nat × Nat) :=
  (List.range 8).map fun i => (leAt b (0x28 + 16 * i) 4, leAt b (0x2C + 16 * i) 4, leAt b (0x30 + 16 * i) 4, leAt b (0x34 + 16 * i) 4)

/-- The bytes of the section of a type; none where the type is absent. -/
def loamSect (b : Bytes) (ty : Nat) : Option Bytes :=
  ((loamSects b).find? fun x => x.1 == ty).map fun x => (b.drop x.2.1).take x.2.2.1

/-- An element table entry from its 32 bytes (R104). -/
def decodeElem (b : Bytes) : Elem :=
  let w := leAt b 0 4
  let r := leAt b 20 4
  let o := leAt b 28 4
  { type := BitVec.ofNat 4 w, field := bitOf w 4, stratum := fld w 5 3, init := BitVec.ofNat 24 (w / 256),
    nbr := [4, 8, 12, 16].map fun a => BitVec.ofNat 32 (leAt b a 4)
    rulePtr := fld r 0 24, ruleLen := fld r 24 8, param0 := BitVec.ofNat 32 (leAt b 24 4),
    obj := BitVec.ofNat 20 o, chan := BitVec.ofNat 4 (o / 2 ^ 20), net := BitVec.ofNat 4 (o / 2 ^ 28) }

/-- A route table row from its 16 bytes (R105). -/
def decodeRoute (b : Bytes) : RouteRow :=
  let w := leAt b 0 4
  let v := leAt b 8 4
  let p := leAt b 12 4
  { entry := fld w 0 23, kind := BitVec.ofNat 2 (fld w 23 2), exit := fld (leAt b 4 4) 0 23,
    overlap := if bitOf v 23 then some (fld v 0 23) else none, pathOff := fld p 0 24, pathLen := fld p 24 8 }

/-- A path step from its word (R105). -/
def decodePath (b : Bytes) : PathStep :=
  let w := leAt b 0 4
  { elem := fld w 0 23, exit := BitVec.ofNat 2 (fld w 23 2), pos := BitVec.ofNat 2 (fld w 25 2) }

/-- A KEYMAP entry from its 8 bytes (R105). -/
def decodeKey (b : Bytes) : KeyRow :=
  let w := leAt b 4 4
  { key := fld (leAt b 0 4) 0 23, erelease := bitOf w 0, reset := bitOf w 1, stop := bitOf w 2 }

/-- The entries of a section of n-byte entries; bytes of a PATH, RULE or KEYMAP section beyond its last whole entry are dropped (DESIGN CHOICE: R103 and R106 name no outcome for a LENGTH that is no multiple of the entry; log 65). -/
def entries {α : Type} (f : Bytes → α) (n : Nat) (b : Bytes) : List α :=
  (List.range (b.length / n)).map fun i => f ((b.drop (n * i)).take n)

/-- The sections that are present. -/
def usedSects (b : Bytes) : List (Nat × Nat × Nat × Nat) := (loamSects b).filter fun x => x.1 != 0

/-- The end of the last section, which is the one whose bytes end highest (R104). -/
def loamEnd (b : Bytes) : Nat := ((usedSects b).map fun x => x.2.1 + x.2.2.1).foldl max 0

/-- Where the signature block lies: at the next multiple of 64 bytes after the last section's last byte (R104). -/
def loamSigAt (b : Bytes) : Nat := (loamEnd b + 63) / 64 * 64

/-- The bytes that the signature covers: from the first header byte to the last byte of the last section (R104). -/
def loamSigned (b : Bytes) : Bytes := b.take (loamEnd b)

/-- The 384 bytes of the signature block. -/
def loamSignature (b : Bytes) : Bytes := (b.drop (loamSigAt b)).take 384

/-- The tables of an image, as its bytes give them. -/
def parseLoam (b : Bytes) : Loam :=
  { imageId := BitVec.ofNat 64 (leAt b 8 8), imageVer := BitVec.ofNat 32 (leAt b 0x10 4), hcrc := BitVec.ofNat 32 (leAt b 0xFC 4),
    certId := (b.drop 0xAC).take 16, canary := leAt b 0x20 4, strata := leAt b 0x24 1, propmax := leAt b 0x25 1,
    elems := entries decodeElem 32 ((loamSect b 1).getD []), routes := entries decodeRoute 16 ((loamSect b 2).getD []),
    path := entries decodePath 4 ((loamSect b 3).getD []), rules := entries (fun x => BitVec.ofNat 32 (leNat x)) 4 ((loamSect b 4).getD []),
    keymap := entries decodeKey 8 ((loamSect b 5).getD []), signed := loamSigned b }

/-! ### The checks of R106 -/

/-- Item 2: MAGIC, FMT, HLEN and HCRC. -/
def loamHeaderOk (b : Bytes) : Bool :=
  256 ≤ b.length && (b.take 4 == [0x4C, 0x4F, 0x41, 0x4D]) && leAt b 4 2 == 1 && leAt b 6 2 == 0x100 && leAt b 0xFC 4 == (crc32c (b.take 0xFC)).toNat

/-- Two sections share no byte. -/
def sectsApart (x y : Nat × Nat × Nat × Nat) : Bool := x.2.1 + x.2.2.1 ≤ y.2.1 || y.2.1 + y.2.2.1 ≤ x.2.1

/-- Every pair of a list satisfies a relation. -/
def pairwiseB {α : Type} (r : α → α → Bool) : List α → Bool
  | [] => true
  | x :: t => t.all (r x) && pairwiseB r t

/-- The bytes of the sections that are loaded into lane DRAM: every type but NAMES (R103, R104). -/
def loadedBytes (b : Bytes) : Nat := (((usedSects b).filter fun x => x.1 != 6).map (·.2.2.1)).sum

/-- Item 3: the section CRCs and the section rules of R103. -/
def loamSectsOk (b : Bytes) (m : Loam) : Bool :=
  let used := usedSects b
  used.all (fun x => x.1 ≤ 6 && 0x100 ≤ x.2.1 && x.2.1 % 64 == 0 && x.2.1 + x.2.2.1 ≤ b.length &&
    (crc32c ((b.drop x.2.1).take x.2.2.1)).toNat == x.2.2.2) &&
  pairwiseB (fun x y => x.1 != y.1) used && pairwiseB sectsApart used &&
  (loamSect b 1).isSome && (loamSect b 4).isSome &&
  (match loamSect b 2 with | none => leAt b 0x1C 4 == 0 | some r => r.length == 16 * leAt b 0x1C 4) &&
  (!m.routes.any (·.kind == 0) || (loamSect b 3).isSome) &&
  (!m.elems.any (·.ty == tyKey) || (loamSect b 5).isSome) &&
  m.rules.length ≤ 16777216 && loadedBytes b ≤ 960 * 2 ^ 20 && loamSigAt b + 384 ≤ b.length

/-- Item 4: the header limits. -/
def loamLimitsOk (b : Bytes) : Bool :=
  let n := leAt b 0x14 4
  let used := (loamSects b).filter fun x => x.1 != 0
  1 ≤ n && n ≤ 8388608 && leAt b 0x18 4 ≤ 1048576 && 1 ≤ leAt b 0x24 1 && leAt b 0x24 1 ≤ 8 && 1 ≤ leAt b 0x25 1 &&
  1 ≤ leAt b 0x26 1 && leAt b 0x26 1 ≤ 8 && (loamSect b 1).map (·.length) == some (32 * n) &&
  used.length == leAt b 0x26 1 && ((loamSects b).all fun x => x.1 != 0 || x == (0, 0, 0, 0)) &&
  leAt b 0x20 4 < n && leAt b 0x27 1 == 0 && ((b.drop 0xDC).take 32).all (· == 0)

/-- The bits of INIT that a type leaves at 0, and the fields with reserved codes: lowest bit, width and greatest code (R86). -/
def initRule : Nat → Nat × List (Nat × Nat × Nat)
  | 0 => (0xFFFFFF, [])
  | 1 => (0, [(7, 2, 2)])
  | 2 => (0, [(7, 2, 2)])
  | 3 => (0, [])
  | 4 => (0, [(7, 2, 2)])
  | 5 => (0x3, [(7, 4, 9), (3, 4, 7)])
  | 6 => (0xFF, [(9, 2, 2)])
  | 7 => (0x1FF, [])
  | 8 => (0, [(17, 2, 2)])
  | 9 => (0x1FFF, [])
  | 10 => (0x7FFF, [])
  | 11 => (0x3FFFF, [])
  | _ => (0, [])

/-- INIT lies within R86 for a type. -/
def initOk (t : Nat) (x : Info) : Bool :=
  x.toNat &&& (initRule t).1 == 0 && (initRule t).2.all fun f => ifld x f.1 f.2.1 ≤ f.2.2

/-- RUN as seen from the other end (R95). -/
def runSwap : Nat → Nat
  | 1 => 2
  | 2 => 1
  | r => r

/-- A link is symmetric, names an index below ELEMCOUNT, and joins different strata (R95, R99). -/
def linkOk (es : List Elem) (a : Nat) (e : Elem) (p : Nat) : Bool :=
  let w := e.port p
  if nbrPresent w then
    match es[nbrIx w]? with
    | none => false
    | some f =>
      let v := f.port (nbrFar w)
      nbrPresent v && nbrIx v == a && nbrFar v == p && (nbrDown v != nbrDown w) && nbrRun v == runSwap (nbrRun w) &&
        w.toNat / 2 ^ 29 == 0 && f.stratum != e.stratum
  else w == 0

/-- Item 5 for one entry. -/
def elemOk (m : Loam) (a : Nat) (e : Elem) : Bool :=
  let net := e.net.toNat
  e.ty ≤ 11 && initOk e.ty e.init && (e.field == (net != 0)) && net ≤ 4 && (!e.field || fieldType e.ty) &&
  (net != 4 || e.ty == tyTrk || e.ty == tyKey || e.ty == tyDor || e.ty == tyLat) &&
  (net == 1 || (if net == 3 then e.chan.toNat ≤ 3 else e.chan == 0)) &&
  [0, 1, 2, 3].all (linkOk m.elems a e) && e.rulePtr + e.ruleLen ≤ m.rules.length &&
  (e.ty != tyRte ||
    match m.routes[fld e.param0.toNat 0 23]? with
    | none => false
    | some r => r.entry < m.elems.length && r.exit < m.elems.length &&
        (match r.overlap with | none => true | some o => o < m.elems.length))

/-- Item 5 for the bits of an entry that the tables do not keep: bits [27:24] of its last word are 0. -/
def entryReservedOk (b : Bytes) : Bool :=
  (List.range (b.length / 32)).all fun i => fld (leAt b (32 * i + 28) 4) 24 4 == 0

/-- Item 5: every entry, OBJ unique among field-bound elements whose NET is not 0x4, FIELDCOUNT, the canary, and KEYMAP. -/
def loamEntriesOk (b : Bytes) (m : Loam) : Bool :=
  (m.elems.zipIdx.all fun x => elemOk m x.2 x.1) && entryReservedOk ((loamSect b 1).getD []) &&
  pairwiseB (fun x y => x != y) ((m.elems.filter fun e => e.field && e.net != 4).map (·.obj)) &&
  (m.elems.filter (·.field)).length == leAt b 0x18 4 &&
  ((m.elems[m.canary]?).map (·.ty)) == some tyNone &&
  m.keymap.all fun k => match m.elems[k.key]? with | some e => e.ty == tyKey && e.net == 4 | none => false

/-- Item 6: the field of a rule word (R96). -/
def ruleOk (w : Word) : Bool :=
  let op := fld w.toNat 28 4
  let lsb := fld w.toNat 21 5
  let wd := fld w.toNat 16 5
  let fits (n : Nat) : Bool := 1 ≤ wd && wd ≤ 24 && lsb + wd ≤ n
  match op with
  | 1 => fits 24
  | 2 => fits 24
  | 3 => fits 16
  | 4 => fits 32
  | 10 => fits 24
  | 11 => fits 24
  | 12 => 1 ≤ wd && wd ≤ 24
  | 13 => 1 ≤ wd && wd ≤ 24
  | _ => true

/-- The greatest load of a stratum's elements over 63 evaluators, at 6 + RULELEN clock periods a step (R100, R101). -/
def stratumCost (m : Loam) (st : Nat) : Nat :=
  let costs := ((m.elems.filter fun e => e.stratum == st).map fun e => 6 + e.ruleLen).zipIdx
  ((List.range 63).map fun k => ((costs.filter fun c => c.2 % 63 == k).map (·.1)).sum).foldl max 0

/-- The sweep cost of R101. -/
def sweepCost (m : Loam) : Nat := ((List.range m.strata).map fun st => stratumCost m st + 64).sum

/-- The image that bytes hold, if they pass items 2 to 7 of R106. -/
def loamTables (b : Bytes) : Option Loam :=
  let m := parseLoam b
  if loamHeaderOk b && loamSectsOk b m && loamLimitsOk b && loamEntriesOk b m && m.rules.all ruleOk &&
      (sweepCost m == leAt b 0xA8 4) && sweepCost m ≤ 1440000 then some m
  else none

/-- The image that bytes hold, if their signature verifies under the Loam signing key and they pass every other check of R106. -/
def checkLoam (key b : Bytes) : Option Loam :=
  if pssVerify key (sha256 (loamSigned b)) (loamSignature b) then loamTables b else none

/-! ### The words of R93 -/

/-- An outgoing NET 0x2 element: its OBJ names the module's own member number (R316, R492). -/
def outgoing (mem : Nat) (e : Elem) : Bool := e.net == 2 && e.obj.toNat / 2 ^ 15 == mem

/-- Whether an element takes an input record (R82, R492). -/
def takesInput (mem : Nat) (e : Elem) : Bool := e.field && !outgoing mem e

/-- The word an element starts from (R93). -/
def initWord (mem : Nat) (e : Elem) : Info :=
  if e.ty = tyNone then 0
  else
    let x := iputs e.init [(22, 2, 1), (19, 3, 0)]
    let y := if claimable e.ty then iput x 11 8 0 else x
    match e.ty with
    | 1 => iputs y [(10, 1, 0), (0, 1, 0), (9, 1, if outgoing mem e then 0 else 1)]
    | 2 => iputs y [(7, 2, 0), (0, 7, 0)]
    | 3 => iputs y ([(7, 4, 0), (0, 2, 0)] ++ if takesInput mem e then [] else [(3, 4, 0)])
    | 4 => iputs y [(7, 2, 0), (0, 5, 0)]
    | 5 => iput y 2 17 0
    | 6 => iput y 8 3 0
    | 7 => iput y 9 2 0
    | 8 => iput y 17 2 0
    | 9 => iputs y [(16, 3, 0), (13, 1, 0)]
    | 10 => iput y 18 1 0
    | _ => y

/-- The member number of the module (R445). -/
def memberNo (s : State) : Nat := s.regF R.FRN_CFG 0 5

/-- A lane's memory with the words of R93 written at an epoch; indices from ELEMCOUNT hold the spare form (R80, R178, R180). -/
def initSram (mem : Nat) (l : Lane) (m : Loam) (e : Nat) : List Host.Cell :=
  m.elems.zipIdx.foldl (fun c x => sramPut l c x.2 (initWord mem x.1) (checkField l (initWord mem x.1) e)) []

/-- A lane starts afresh in a cycle: the words of R93, both epochs at the cycle, empty regions (R164, R165, R173, R178). -/
def LaneSt.freshStart (mem : Nat) (l : Lane) (m : Option Loam) (n : Nat) (x : LaneSt) : LaneSt :=
  { x with
    sram := match m with | some m => initSram mem l m n | none => []
    eOld := n
    eCur := n
    stepped := []
    reg := { Regions.empty with ageCtr := x.reg.ageCtr }
    inputs := []
    prevInputs := []
    copyReg := []
    outOn := 0
    logicDone := false
    logicPrev := false }

end Sys2Proof.Machine
end

