-- ==== Sys2Proof/Machine/Eval.lean ====
section
/-! DEFINITION. The evaluation step of an element (R82 to R92, R96, R97), its coded execution (R177 to R195), incremental propagation and the full sweep (R98 to R101), and the route map bits (R112). -/

namespace Sys2Proof.Machine

/-- The entry of an index that holds no element. -/
def Elem.spare : Elem :=
  { type := 0, field := false, stratum := 0, init := 0, nbr := [0, 0, 0, 0], rulePtr := 0, ruleLen := 0, param0 := 0, obj := 0, chan := 0, net := 0 }

/-- The element table entry of an index. -/
def Loam.elem (m : Loam) (i : ElemIx) : Elem := m.elems.getD i Elem.spare

/-- PARAM0 in force, through any override (R165). -/
def paramOf (m : Loam) (x : LaneSt) (i : ElemIx) : Nat := ((assoc i x.reg.overrides).getD (m.elem i).param0).toNat

/-- The stored information word of an element. -/
def infoOf (c : Ctx) (x : LaneSt) (i : ElemIx) : Info := sramInfo c.lane x.sram i

/-- A field of an element's stored word. -/
def wfld (c : Ctx) (x : LaneSt) (i : ElemIx) (lsb w : Nat) : Nat := ifld (infoOf c x i) lsb w

/-! ### Coded words (R178 to R182) -/

/-- The epoch that the lane expects a word to carry (R178). -/
def epochOf (x : LaneSt) (i : ElemIx) : Nat := if x.stepped.contains i then x.eCur else x.eOld

/-- Whether a load of a coded word passes the check of a path, given as the check field that the path expects; a spare index is checked against its fixed form (R180, R181). -/
def loadChecked (f : Lane → Info → Nat → Nat) (c : Ctx) (m : Loam) (x : LaneSt) (i : ElemIx) : Bool :=
  if i < m.elems.length then sramCheck c.lane x.sram i == f c.lane (infoOf c x i) (epochOf x i)
  else sramWord c.lane x.sram i == codedWord 0 (baseL c.lane)

/-- A load by the primary pass, whose path is that of R177 (R183). -/
def loadOk (c : Ctx) (m : Loam) (x : LaneSt) (i : ElemIx) : Bool := loadChecked checkField c m x i

/-- A load by the shadow pass, whose path works from the complement (R186). -/
def loadOkShadow (c : Ctx) (m : Loam) (x : LaneSt) (i : ElemIx) : Bool := loadChecked checkShadow c m x i

/-- The first code fault that a lane finds in a cycle stands (R192). -/
def LaneSt.faulted (x : LaneSt) (kind unit i : Nat) : LaneSt :=
  if x.cx.isSome then x else { x with cx := some ⟨BitVec.ofNat 3 kind, BitVec.ofNat 7 unit, BitVec.ofNat 23 i⟩ }

/-! ### Evaluators, delay registers and the comparator (R184, R187, R190, R191, R193) -/

/-- The units of a lane that hold delay registers: the evaluators that work, and the controller (R187, R190). -/
def LaneSt.drained (x : LaneSt) : Bool := x.units.all fun u => u.2.delay.isEmpty

/-- Σ acc: the sum of all accumulators of a lane (R194). -/
def LaneSt.accSum (x : LaneSt) : DWord := (x.units.map fun u => u.2.acc).sum

/-- A primary step is issued: its result waits in a delay register (R187). -/
def LaneSt.issue (x : LaneSt) (n : Nat) (r : DelayReg) : LaneSt := x.updUnit n fun u => { u with issued := u.issued + 1, delay := u.delay ++ [r] }

/-- An agreed step leaves its delay register, and its term enters the unit's accumulator (R193). -/
def LaneSt.settle (x : LaneSt) (n : Nat) (term : DWord) : LaneSt :=
  x.updUnit n fun u => { u with agreed := u.agreed + 1, acc := u.acc + term, delay := u.delay.drop 1 }

/-- T_n, the transform of an n-bit operand of the shadow pass (R184). -/
def shadowFwd {n : Nat} (l : Lane) (v : BitVec n) : BitVec n := (~~~v).rotateLeft (rotL l % n)

/-- Its inverse (R184). -/
def shadowInv {n : Nat} (l : Lane) (y : BitVec n) : BitVec n := ~~~(y.rotateRight (rotL l % n))

/-- The comparator's two rails over the 48 bits of two coded words: 0b10 agree, 0b01 disagree (R191). -/
def rails48 (p q : Nat) : BitVec 2 := if p ^^^ q = 0 then 2 else 1

/-- The rails for a result and its check field from both passes. -/
def rails (xp xs : Info) (cp cs : Nat) : BitVec 2 := rails48 (codedWord xp cp) (codedWord xs cs)

/-- The rail checker: the verdict of a pair of rails, none where it is invalid (R191). -/
def railVerdict (v : BitVec 2) : Option Bool := if v = 2 then some true else if v = 1 then some false else none

/-- The shadow result of a unit's oldest step arrives at the comparator: an agreed result, with its signature term, is committed as it leaves its delay register, and a disagreement or an invalid verdict is a code fault (R187, R191 to R193). -/
def LaneSt.compareTerm (term : DelayReg → DWord) (x : LaneSt) (n : Nat) (xs : Info) (cs : Nat) (commit : LaneSt → DelayReg → LaneSt) : LaneSt :=
  match (x.unit n).delay with
  | [] => x
  | r :: _ =>
    match railVerdict (rails r.x xs r.c cs) with
    | some true => commit (x.settle n (term r)) r
    | some false => x.faulted 2 n r.elem
    | none => x.faulted 3 n r.elem

/-- The compare of an element word, whose term is that of its index (R193). -/
def LaneSt.compare (x : LaneSt) (n : Nat) (xs : Info) (cs : Nat) (commit : LaneSt → DelayReg → LaneSt) : LaneSt :=
  x.compareTerm (fun r => sigTerm r.elem r.x.toNat) n xs cs commit

/-! ### The views of the two passes (R184, R185) -/

/-- A number within 24 bits, complemented. -/
def not24 (v : Nat) : Nat := 0xFFFFFF - v

/-- A field of a transformed operand, at its rotated position: the complement of the operand's field. -/
def dualField {n : Nat} (l : Lane) (y : BitVec n) (lsb wd : Nat) : Nat := fld (y.rotateRight (rotL l % n)).toNat lsb wd

/-- A rotated field of a transformed word replaced. -/
def dualIput (l : Lane) (tw : Info) (lsb wd v : Nat) : Info := (iput (tw.rotateRight (rotL l % 24)) lsb wd v).rotateLeft (rotL l % 24)

/-- How a pass reads a field of an information word, of an input record and of PARAM0, and how it writes one of an information word. -/
structure View where
  get : Info → Nat → Nat → Nat
  put : Info → Nat → Nat → Nat → Info
  inp : BitVec 16 → Nat → Nat → Nat
  par : Word → Nat → Nat → Nat

/-- The primary pass works on the operands as they are. -/
def primaryView : View := { get := ifld, put := iput, inp := fun r => fld r.toNat, par := fun p => fld p.toNat }

/-- The shadow pass of a lane works on transformed operands: a field stands complemented at its rotated position, and is written so (R184, R185). -/
def shadowView (l : Lane) : View :=
  { get := fun y lsb wd => 2 ^ wd - 1 - dualField l y lsb wd
    put := fun y lsb wd v => dualIput l y lsb wd (2 ^ wd - 1 - v % 2 ^ wd)
    inp := fun y lsb wd => 2 ^ wd - 1 - dualField l y lsb wd
    par := fun y lsb wd => 2 ^ wd - 1 - dualField l y lsb wd }

/-- Several fields written, each given as lowest bit, width and value. -/
def View.puts (v : View) (x : Info) (l : List (Nat × Nat × Nat)) : Info := l.foldl (fun x f => v.put x f.1 f.2.1 f.2.2) x

/-! ### The transition tables (R88 to R92), in the view of a pass -/

/-- What a table or a program leaves: the word, U and F. -/
abbrev StepOut := Info × Bool × Bool

/-- The running-line neighbours that are track sections, with the word of each, in ascending port. -/
def runningTrks (c : Ctx) (m : Loam) (x : LaneSt) (e : Elem) : List (Nat × Info) :=
  ([0, 1, 2, 3].filter fun p => nbrPresent (e.port p) && nbrRun (e.port p) != 3 && (m.elem (nbrIx (e.port p))).ty == tyTrk).map
    fun p => (p, infoOf c x (nbrIx (e.port p)))

/-- CLEAR of a neighbour. -/
def nbClear (v : View) (n : Nat × Info) : Bool := v.get n.2 10 1 == 1

/-- TRK, input not valid. -/
def trkInvalid (v : View) (p0 : Word) (w : Info) : Info :=
  let w1 := v.puts w [(10, 1, 0), (3, 4, 0)]
  if v.par p0 4 1 = 1 then w1 else v.put w1 9 1 1

/-- TRK, input reads occupied. -/
def trkOccupied (v : View) (nb : List (Nat × Info)) (s : Info) : Info :=
  let w1 := v.puts s [(10, 1, 0), (3, 4, 0)]
  let w2 := if v.get s 10 1 = 1 then
      match nb.find? (fun n => !nbClear v n) with
      | some n => v.puts w1 [(1, 2, n.1), (0, 1, 1)]
      | none => v.puts w1 [(1, 2, 0), (0, 1, 0)]
    else w1
  if v.get w2 19 2 = 2 ∧ v.get w2 7 2 = 0 then v.put w2 7 2 1 else w2

/-- TRK, input reads clear: the section becomes clear on the reading that finds FILT full, and a sweep train clears SWP. A cycle holds one reading, which its first step takes (R89). -/
def trkClear (v : View) (nb : List (Nat × Info)) (p0 : Word) (first : Bool) (s : Info) : Info :=
  let fm := v.par p0 0 4
  let w1 := if v.get s 3 4 = fm ∧ v.get s 10 1 = 0 ∧ first = true then
      let w := v.put s 10 1 1
      let w := if v.get w 7 2 = 1 then v.put w 7 2 2 else w
      let ent := v.get w 1 2
      if v.get w 9 1 = 1 ∧ v.get w 0 1 = 1 ∧ nb.any (fun n => n.1 == ent && nbClear v n) ∧ nb.any (fun n => n.1 != ent && !nbClear v n) then v.put w 9 1 0 else w
    else s
  if v.get w1 3 4 < fm ∧ first then v.put w1 3 4 (v.get w1 3 4 + 1) else w1

/-- The TRK table (R89). -/
def trkTable (v : View) (nb : List (Nat × Info)) (takes : Bool) (inp : Option (BitVec 16)) (p0 : Word) (first : Bool) (s : Info) : StepOut :=
  let w1 := if !takes then s else
    match inp with
    | none => trkInvalid v p0 s
    | some r => if v.inp r 0 1 = 1 then trkOccupied v nb s else trkClear v nb p0 first s
  let w2 := if v.get w1 19 2 != 2 then v.put w1 7 2 0 else w1
  (w2, v.get w2 9 1 == 1, false)

/-- A time unit of a point or crossing falls in this cycle, counted in the first step only (R89, R90). -/
def timeUnit (cycle mscale : Nat) (first : Bool) : Bool := first && cycle % 2 ^ mscale == 0

/-- The PNT table (R89). -/
def pntTable (v : View) (takes : Bool) (inp : Option (BitVec 16)) (p0 : Word) (cycle : Nat) (first : Bool) (s : Info) : StepOut :=
  let w1 := match takes, inp with
    | true, some r => v.put s 9 2 (v.inp r 0 2)
    | _, _ => s
  let det := v.get w1 9 2
  let w2 := if v.get w1 7 2 = 0 ∧ (det = 1 ∨ det = 2) then v.put w1 7 2 det else w1
  let u1 := takes && v.get w2 7 2 == 0 && det == 0
  let w3 := if det = v.get w2 7 2 ∧ v.get w2 7 2 ≠ 0 then v.put w2 0 7 0 else w2
  let moving := det != v.get w3 7 2
  let w4 := if moving && timeUnit cycle (v.par p0 7 3) first then v.put w3 0 7 (min (v.get w3 0 7 + 1) 127) else w3
  (w4, u1 || moving, det == 3 || v.par p0 0 7 ≤ v.get w4 0 7)

/-- The SIG table (R89). -/
def sigTable (v : View) (takes : Bool) (inp : Option (BitVec 16)) (p0 : Word) (first : Bool) (s : Info) : StepOut :=
  let w1 := if !takes then s else match inp with
    | none => v.put s 3 4 0xF
    | some r => v.put s 3 4 (v.inp r 0 4)
  let w2 := if v.get w1 2 1 = 1 then v.puts w1 [(7, 4, 0), (2, 1, 0)] else w1
  let out : Info × Bool := if !takes then (w2, false)
    else if v.get w2 3 4 = v.get w2 7 4 then (v.put w2 0 2 0, false)
    else
      let w := if first then v.put w2 0 2 (min (v.get w2 0 2 + 1) 3) else w2
      if v.get w 0 2 = 3 then (v.put w 7 4 0, true) else (w, false)
  let bad := v.par p0 (v.get out.1 7 4) 1 != 1
  (if bad then v.put out.1 7 4 0 else out.1, takes && inp.isNone, out.2 || bad)

/-- The XNG table (R89). -/
def xngTable (v : View) (takes : Bool) (inp : Option (BitVec 16)) (p0 : Word) (cycle : Nat) (first : Bool) (s : Info) : StepOut :=
  let w1 := match takes, inp with
    | true, some r => v.puts s [(9, 2, v.inp r 0 2), (6, 1, v.inp r 2 1)]
    | _, _ => s
  let det := v.get w1 9 2
  let f1 := det == 3 || (v.get w1 6 1 == 1 && det != v.get w1 7 2)
  let w2 := if v.get w1 7 2 = 0 ∧ (det = 1 ∨ det = 2) then v.put w1 7 2 det else w1
  let u1 := takes && v.get w2 7 2 == 0 && det == 0
  let w3 := if det = v.get w2 7 2 ∧ v.get w2 6 1 = v.get w2 5 1 then v.put w2 0 5 0 else w2
  let off := takes && (det != v.get w3 7 2 || v.get w3 6 1 != v.get w3 5 1)
  let w4 := if off && timeUnit cycle (v.par p0 5 3) first then v.put w3 0 5 (min (v.get w3 0 5 + 1) 31) else w3
  (w4, u1 || off, f1 || (off && v.par p0 0 5 ≤ v.get w4 0 5))

/-- The TMR countdown, before the rule program runs (R92): by T_cyc in milliseconds, or by 1 in a cycle that carries a new management tick. A timer that the route engine has started in this cycle counts from the next. -/
def tmrTable (v : View) (p0 : Word) (tcyc : Nat) (newTick first started : Bool) (s : Info) : StepOut :=
  let d := if v.par p0 17 1 = 1 then b2n newTick else tcyc
  if first && v.get s 17 2 == 1 && !started then
    if d < v.get s 0 17 then (v.put s 0 17 (v.get s 0 17 - d), false, false) else (v.puts s [(0, 17, 0), (17, 2, 2)], false, false)
  else (s, false, false)

/-- The KEY table: the input shift once in a cycle, which needs no rule word, and a key missing from its lock (R89, R92). -/
def keyTable (v : View) (rows : Bool) (inp : Option (BitVec 16)) (vioCf first : Bool) (s : Info) : StepOut :=
  let w1 := if first then
      v.puts s [(17, 1, v.get s 18 1), (13, 1, v.get s 16 1), (18, 1, match inp with | some r => v.inp r 0 1 | none => 0),
        (16, 1, b2n (inp.isSome && !vioCf))]
    else s
  match inp with
  | some r => if rows && v.inp r 1 1 == 0 && v.get w1 15 1 == 0 then (v.put w1 14 1 1, false, true) else (w1, false, false)
  | none => (w1, false, false)

/-- The DOR table. -/
def dorTable (v : View) (takes : Bool) (inp : Option (BitVec 16)) (s : Info) : StepOut :=
  let w1 := match takes, inp with
    | true, some r => v.put s 15 1 (v.inp r 0 1)
    | _, _ => s
  (w1, v.get w1 15 1 == 0 && v.get w1 18 1 == 0, false)

/-! ### Rule programs (R96, R97) -/

/-- What a rule program reads besides its own registers: the stored word, the neighbours' stored words, the input record where it is valid, PARAM0, whether this is the first step of the cycle, and the element's type. -/
abbrev RuleEnv := Info × List (Option Info) × Option (BitVec 16) × Word × Bool × Nat

/-- The bits of a type that no step writes (R86). -/
def deadBits (t : Nat) : Info := BitVec.ofNat 24 (initRule t).1

/-- A field that a rule word may not write: bits [23:19], and bits [18:11] of a claimable type (R84). -/
def putBarred (t lsb wd : Nat) : Bool := decide (19 < lsb + wd) || (claimable t && decide (11 < lsb + wd))

/-- A write of a field of W: a barred one writes nothing and raises F (R84), and the bits that the type leaves at 0 are never written (R86). -/
def rulePut (t lsb wd v : Nat) (r : RuleSt) : RuleSt :=
  if putBarred t lsb wd then { r with f := true } else { r with w := iput r.w lsb wd v &&& ~~~(deadBits t) }

/-- One rule word other than END and SKIP (R96). -/
def ruleOp (env : RuleEnv) (op port lsb wd imm : Nat) (r : RuleSt) : RuleSt :=
  let (s, nb, inp, p0, first, t) := env
  match op with
  | 1 => { r with a := ifld s lsb wd }
  | 2 => { r with a := match nb.getD port none with | some n => ifld n lsb wd | none => 0 }
  | 3 => match inp with
    | some v => { r with a := fld v.toNat lsb wd }
    | none => { r with a := 0, u := true }
  | 4 => { r with a := fld p0.toNat lsb wd }
  | 5 => { r with c := bitOf imm 0 }
  | 6 => { r with c := r.c && r.a == imm }
  | 7 => { r with c := r.c && r.a != imm }
  | 8 => { r with c := r.c && decide (r.a ≤ imm) }
  | 9 => { r with c := r.c || r.a == imm }
  | 10 => if r.c then rulePut t lsb wd imm r else r
  | 11 => if r.c then rulePut t lsb wd r.a r else r
  | 12 => if first then { r with a := min (r.a + imm) (2 ^ wd - 1) } else r
  | 13 => if first then { r with a := r.a - imm } else r
  | 14 => if r.c then { r with u := r.u || bitOf imm 0, f := r.f || bitOf imm 1 } else r
  | _ => r

/-- A rule program: forward only, with a count of words still to skip; running past the last word acts as END (R97). -/
def runRules (env : RuleEnv) : Nat → List Word → RuleSt → RuleSt
  | _, [], r => r
  | k + 1, _ :: t, r => runRules env k t r
  | 0, w :: t, r =>
    let v := w.toNat
    let op := fld v 28 4
    if op = 0 then r
    else if op = 15 then runRules env (if r.c then 0 else fld v 0 8) t r
    else runRules env 0 t (ruleOp env op (fld v 26 2) (fld v 21 5) (fld v 16 5) (fld v 0 16) r)

/-! ### The dual form of a rule program (R185) -/

/-- Ā from a field of a transformed operand, with ones above its width. -/
def dualLoad {n : Nat} (l : Lane) (y : BitVec n) (lsb wd : Nat) : Nat := 2 ^ 24 - 2 ^ wd + dualField l y lsb wd

/-- Several fields of a transformed word replaced by the complements of values, each given as lowest bit, width and value. -/
def dualIputs (l : Lane) (tw : Info) (fs : List (Nat × Nat × Nat)) : Info := fs.foldl (fun y f => dualIput l y f.1 f.2.1 (not24 (f.2.2 % 2 ^ 24))) tw

/-- What the dual form reads: the transformed operands of `RuleEnv`. -/
abbrev DualEnv := Info × List (Option Info) × Option (BitVec 16) × Word × Bool × Nat

/-- The dual of a write of a field of W; the bits that the type leaves at 0 stay at 1 in the complement. -/
def dualRulePut (l : Lane) (t lsb wd v : Nat) (r : DualSt) : DualSt :=
  if putBarred t lsb wd then { r with nf := false }
  else { r with tw := dualIput l r.tw lsb wd v ||| (deadBits t).rotateLeft (rotL l % 24) }

/-- The dual form of one rule word other than END and SKIP (R185). -/
def dualOp (l : Lane) (env : DualEnv) (op port lsb wd imm : Nat) (r : DualSt) : DualSt :=
  let (s, nb, inp, p0, first, t) := env
  match op with
  | 1 => { r with na := dualLoad l s lsb wd }
  | 2 => { r with na := match nb.getD port none with | some n => dualLoad l n lsb wd | none => 0xFFFFFF }
  | 3 => match inp with
    | some v => { r with na := dualLoad l v lsb wd }
    | none => { r with na := 0xFFFFFF, nu := false }
  | 4 => { r with na := dualLoad l p0 lsb wd }
  | 5 => { r with nc := !bitOf imm 0 }
  | 6 => { r with nc := r.nc || !(r.na == not24 imm) }
  | 7 => { r with nc := r.nc || r.na == not24 imm }
  | 8 => { r with nc := r.nc || !decide (not24 imm ≤ r.na) }
  | 9 => { r with nc := r.nc && !(r.na == not24 imm) }
  | 10 => if r.nc then r else dualRulePut l t lsb wd (not24 imm) r
  | 11 => if r.nc then r else dualRulePut l t lsb wd r.na r
  | 12 => if first then { r with na := max (r.na - imm) (not24 (2 ^ wd - 1)) } else r
  | 13 => if first then { r with na := min (r.na + imm) 0xFFFFFF } else r
  | 14 => if r.nc then r else { r with nu := r.nu && !bitOf imm 0, nf := r.nf && !bitOf imm 1 }
  | _ => r

/-- The dual form of a rule program. -/
def runDual (l : Lane) (env : DualEnv) : Nat → List Word → DualSt → DualSt
  | _, [], r => r
  | k + 1, _ :: t, r => runDual l env k t r
  | 0, w :: t, r =>
    let v := w.toNat
    let op := fld v 28 4
    if op = 0 then r
    else if op = 15 then runDual l env (if r.nc then fld v 0 8 else 0) t r
    else runDual l env 0 t (dualOp l env op (fld v 26 2) (fld v 21 5) (fld v 16 5) (fld v 0 16) r)

/-! ### The step -/

/-- The input record of an element, where it is valid (R87). -/
def inputOf (x : LaneSt) (i : ElemIx) : Option (BitVec 16) := assoc i x.inputs

/-- The input record that an element's step reads: none where the element takes none (R82, R492). -/
def stepInput (c : Ctx) (m : Loam) (x : LaneSt) (i : ElemIx) : Option (BitVec 16) :=
  if takesInput c.mem (m.elem i) then inputOf x i else none

/-- The operands of a type's table: the running-line neighbours' words, the input record, PARAM0 and the stored word. -/
abbrev TableArgs := List (Nat × Info) × Option (BitVec 16) × Word × Info

/-- The operands as they are stored (R183). -/
def tableArgs (c : Ctx) (m : Loam) (x : LaneSt) (i : ElemIx) : TableArgs :=
  (runningTrks c m x (m.elem i), stepInput c m x i, BitVec.ofNat 32 (paramOf m x i), infoOf c x i)

/-- The same operands transformed (R184). -/
def dualArgs (l : Lane) (a : TableArgs) : TableArgs :=
  (a.1.map fun n => (n.1, shadowFwd l n.2), a.2.1.map (shadowFwd l), shadowFwd l a.2.2.1, shadowFwd l a.2.2.2)

/-- The table of the element's type in the view of a pass, applied to its operands (R88). The timer countdown and the KEY shift are the evaluator's own and need no program (R89, R92); an element with RULELEN = 0 has no other row (R97; log 57). -/
def typeTable (v : View) (c : Ctx) (m : Loam) (x : LaneSt) (i : ElemIx) (a : TableArgs) : StepOut :=
  let e := m.elem i
  let takes := takesInput c.mem e
  let first := !x.stepped.contains i
  let (nb, inp, p0, s) := a
  if e.ty = tyTmr then tmrTable v p0 x.set.tcyc c.newTick first (x.timers.contains i) s
  else if e.ty = tyKey then keyTable v (e.ruleLen != 0) inp x.vioCf first s
  else if e.ruleLen = 0 then (s, false, false)
  else match e.ty with
    | 1 => trkTable v nb takes inp p0 first s
    | 2 => pntTable v takes inp p0 c.cycle first s
    | 3 => sigTable v takes inp p0 first s
    | 4 => xngTable v takes inp p0 c.cycle first s
    | 10 => dorTable v takes inp s
    | _ => (s, false, false)

/-- STATUS at the end of a step (R82). -/
def resolveStatus (s w : Info) (u f : Bool) : Info :=
  iput w 22 2 (if ifld s 22 2 = 0 ∨ f then 0 else if u then 1 else if ifld w 21 1 = 1 then 2 else 3)

/-- A signal's step would commit an ASPECT above the stored one, or one that PARAM0.ASPECTS does not permit (R91). -/
def aspectBad (t p0 : Nat) (s w : Info) : Bool := t == tySig && (decide (ifld s 7 4 < ifld w 7 4) || !bitOf p0 (ifld w 7 4))

/-- The end of a step in the primary pass: the aspect test, then status resolution (R82, R91). -/
def endStep (t p0 : Nat) (s : Info) (u : Bool) (r : RuleSt) : Info :=
  let bad := aspectBad t p0 s r.w
  resolveStatus s (if bad then iput r.w 7 4 0 else r.w) (r.u || u) (r.f || bad)

/-- The words of an element's neighbours, port by port, as they are stored. -/
def nbrWords (c : Ctx) (x : LaneSt) (e : Elem) : List (Option Info) :=
  [0, 1, 2, 3].map fun p => if nbrPresent (e.port p) then some (infoOf c x (nbrIx (e.port p))) else none

/-- An element's rule program (R104). -/
def programOf (m : Loam) (e : Elem) : List Word := (m.rules.drop e.rulePtr).take e.ruleLen

/-- A field-bound element that takes an input record has none that is valid, which raises U (R82). -/
def inputMissing (c : Ctx) (m : Loam) (x : LaneSt) (i : ElemIx) : Bool := takesInput c.mem (m.elem i) && (stepInput c m x i).isNone

/-- The result word x_p of a step in the primary pass (R82, R85, R88, R91, R96, R183): the type's table, then the rule program, then status resolution. -/
def stepWord (c : Ctx) (m : Loam) (x : LaneSt) (i : ElemIx) : Info :=
  let e := m.elem i
  if e.ty = tyNone then 0
  else
    let s := infoOf c x i
    let first := !x.stepped.contains i
    let p0 := paramOf m x i
    let t := typeTable primaryView c m x i (tableArgs c m x i)
    let r := runRules (s, nbrWords c x e, stepInput c m x i, BitVec.ofNat 32 p0, first, e.ty) 0 (programOf m e)
      { a := 0, c := true, u := t.2.1, f := t.2.2, w := t.1 }
    endStep e.ty p0 s (inputMissing c m x i) r

/-- STATUS in the shadow pass: on Ū, F̄ and the complemented STATUS and BLKM (R185). -/
def resolveDual (l : Lane) (s w : Info) (nu nf : Bool) : Info :=
  dualIput l w 22 2 (if dualField l s 22 2 = 3 ∨ nf = false then 3 else if nu = false then 2 else if dualField l w 21 1 = 0 then 1 else 0)

/-- The aspect test in the shadow pass, on complemented fields. -/
def dualBad (l : Lane) (t : Nat) (p0 : Word) (s w : Info) : Bool :=
  t == tySig && (decide (dualField l w 7 4 < dualField l s 7 4) || dualField l p0 (15 - dualField l w 7 4) 1 == 1)

/-- The end of a step in the shadow pass. -/
def endDual (l : Lane) (t : Nat) (p0 : Word) (s : Info) (u : Bool) (r : DualSt) : Info :=
  let bad := dualBad l t p0 s r.tw
  resolveDual l s (if bad then dualIput l r.tw 7 4 15 else r.tw) (r.nu && !u) (r.nf && !bad)

/-- The result y_s of a step in the shadow pass (R184, R185): every operand transformed, the type's table in the shadow view and the rule program in its dual form. -/
def shadowWord (c : Ctx) (m : Loam) (x : LaneSt) (i : ElemIx) : Info :=
  let l := c.lane
  let e := m.elem i
  if e.ty = tyNone then shadowFwd l (0 : Info)
  else
    let s := shadowFwd l (infoOf c x i)
    let first := !x.stepped.contains i
    let p0 := shadowFwd l (BitVec.ofNat 32 (paramOf m x i))
    let t := typeTable (shadowView l) c m x i (dualArgs l (tableArgs c m x i))
    let r := runDual l (s, (nbrWords c x e).map (·.map (shadowFwd l)), (stepInput c m x i).map (shadowFwd l), p0, first, e.ty) 0 (programOf m e)
      { na := 0xFFFFFF, nc := false, nu := !t.2.1, nf := !t.2.2, tw := t.1 }
    endDual l e.ty p0 s (inputMissing c m x i) r

/-- The neighbours of an element. -/
def nbrsOf (e : Elem) : List ElemIx := ([0, 1, 2, 3].filter fun p => nbrPresent (e.port p)).map fun p => nbrIx (e.port p)

/-- Elements marked dirty (R98). -/
def LaneSt.mark (x : LaneSt) (l : List ElemIx) : LaneSt :=
  { x with reg := { x.reg with dirty := l.foldl (fun d i => insertUp i d) x.reg.dirty } }

/-- An element's word written with its check field. -/
def LaneSt.putCoded (x : LaneSt) (l : Lane) (i : ElemIx) (v : Info) (k : Nat) : LaneSt := { x with sram := sramPut l x.sram i v k }

/-- An element's word written with the check field of an epoch. -/
def LaneSt.put (x : LaneSt) (l : Lane) (i : ElemIx) (v : Info) (e : Nat) : LaneSt := x.putCoded l i v (checkField l v e)

/-- Whether the wave with a number holds a record (R107). -/
def waveOf (x : LaneSt) (n : Nat) : Option Wave := x.reg.waves.find? fun w => w.num.toNat == n

/-- The condition for a route-map bit after a full-sweep step (R112). -/
def needsAttention (x : LaneSt) (t : Nat) (w : Info) : Bool :=
  let claim := ifld w 19 2
  let st := ifld w 22 2
  let rs := ifld w 7 4
  t != tyNone &&
  ((t == tyRte && (rs == 3 || rs == 4 || rs == 6 || rs == 7 || rs == 8 || rs == 9 || (rs == 5 && ifld w 2 1 == 0))) ||
   (t == tyOvl && ifld w 9 2 != 0) ||
   (t == tyTrk && claim == 2 && ifld w 7 2 == 2 && ifld w 10 1 == 1) ||
   (claimable t && (claim == 2 || claim == 3) && st ≤ 1) ||
   (t == tyTrk && claim == 2 && ifld w 10 1 == 0) ||
   (claimable t && claim == 1 && (waveOf x (ifld w 11 8)).isNone))

/-- An agreed step is written from its delay register with epoch E_CUR and its stepped bit, marks the neighbours of a changed word, and in the sweep sets the route-map bit (R98, R112, R179, R187). -/
def commitStep (c : Ctx) (m : Loam) (sweep : Bool) (x : LaneSt) (r : DelayReg) : LaneSt :=
  let i := r.elem
  let old := infoOf c x i
  let x1 := x.putCoded c.lane i r.x r.c
  let x2 := { x1 with stepped := insertUp i x1.stepped }
  let x3 := if old = r.x then x2 else x2.mark (nbrsOf (m.elem i))
  if sweep && needsAttention x3 (m.elem i).ty r.x then { x3 with reg := { x3.reg with routeMap := insertUp i x3.reg.routeMap } } else x3

/-- The words that a step of an element loads: its own and its neighbours'. -/
def stepLoads (m : Loam) (i : ElemIx) : List ElemIx := i :: nbrsOf (m.elem i)

/-- A primary step on an evaluator: every word it loads is checked, and its result and check field go into a delay register (R181, R183, R187). -/
def primaryStep (c : Ctx) (m : Loam) (unit : Nat) (x : LaneSt) (i : ElemIx) : LaneSt :=
  if x.cx.isSome then x
  else
    match (stepLoads m i).find? (fun k => !loadOk c m x k) with
    | some k => x.faulted 1 unit k
    | none =>
      let v := stepWord c m x i
      x.issue unit ⟨i, v, checkField c.lane v x.eCur⟩

/-- The shadow step of the oldest result that waits on an evaluator: its own load checks, its dual computation and its own check field, and the compare (R181, R184 to R187, R191). -/
def shadowStep (c : Ctx) (m : Loam) (sweep : Bool) (unit : Nat) (x : LaneSt) (i : ElemIx) : LaneSt :=
  if x.cx.isSome then x
  else
    match (stepLoads m i).find? (fun k => !loadOkShadow c m x k) with
    | some k => x.faulted 1 unit k
    | none =>
      let v := shadowInv c.lane (shadowWord c m x i)
      x.compare unit v (checkShadow c.lane v x.eCur) (commitStep c m sweep)

/-- The working evaluators of a lane, 64 or 63 (R100, R197). -/
def evaluators (x : LaneSt) : List Nat := (List.range 64).filter fun n => x.evalOff != some (BitVec.ofNat 6 n)

/-- The work of a stratum in its order: the primary steps, with the evaluator of each, and the shadow steps d places behind them (R188). -/
def interleave {α : Type} (d : Nat) (ps : List α) : List (Option α × Option α) :=
  let none' : List (Option α) := List.replicate (min d ps.length) none
  (ps.map some ++ none').zip (none' ++ ps.map some)

/-- A slot of the interleave: a primary step, and then a shadow step. -/
def slotSteps (c : Ctx) (m : Loam) (sweep : Bool) (x : LaneSt) (p : Option (ElemIx × Nat) × Option (ElemIx × Nat)) : LaneSt :=
  let y := match p.1 with | some q => primaryStep c m q.2 x q.1 | none => x
  match p.2 with | some q => shadowStep c m sweep q.2 y q.1 | none => y

/-- The elements of a list in one stratum, in index order, the j-th on evaluator j mod N; on each evaluator the shadow pass runs OFFSET steps behind the primary, so the barrier finds every delay register empty (R99, R100, R187, R188). An element whose STRATUM is at or above STRATA is in no stratum (DESIGN CHOICE: R99 gives each element a stratum below STRATA, and R106 names no check of it; log 65). -/
def runStratum (c : Ctx) (m : Loam) (sweep : Bool) (set : List ElemIx) (x : LaneSt) (st : Nat) : LaneSt :=
  let us := evaluators x
  let ps := ((set.filter fun i => (m.elem i).stratum == st).zipIdx).map fun p => (p.1, us.getD (p.2 % us.length) 0)
  (interleave (us.length * x.set.offset) ps).foldl (slotSteps c m sweep) x

/-- A pass over every stratum in ascending order (R99). -/
def runStrata (c : Ctx) (m : Loam) (sweep : Bool) (set : List ElemIx) (x : LaneSt) : LaneSt :=
  (List.range m.strata).foldl (fun y st => runStratum c m sweep set y st) x

/-- Incremental propagation: ripples until none is dirty, or PROPMAX of them (R99). -/
def propagate (c : Ctx) (m : Loam) : Nat → LaneSt → LaneSt
  | 0, x => x
  | k + 1, x =>
    if x.reg.dirty.isEmpty || x.cx.isSome then x
    else propagate c m k (runStrata c m false x.reg.dirty { x with reg := { x.reg with dirty := [] } })

/-- The full sweep over every element (R99). -/
def fullSweep (c : Ctx) (m : Loam) (x : LaneSt) : LaneSt := runStrata c m true (List.range m.elems.length) x

/-! ### Route-engine writes (R84, R179, R190) -/

/-- A load by the lane controller, checked by both passes (R181, R186, R190). -/
def ctlLoad (c : Ctx) (m : Loam) (x : LaneSt) (i : ElemIx) : LaneSt :=
  if loadOk c m x i && loadOkShadow c m x i then x else x.faulted 1 ctlUnit i

/-- Loads of several words by the lane controller. -/
def ctlLoads (c : Ctx) (m : Loam) (x : LaneSt) (l : List ElemIx) : LaneSt := l.foldl (ctlLoad c m) x

/-- An agreed write of the route engine: the word keeps its epoch and stepped bit, and the element is marked dirty (R98, R179). -/
def commitWrite (c : Ctx) (x : LaneSt) (r : DelayReg) : LaneSt := (x.putCoded c.lane r.elem r.x r.c).mark [r.elem]

/-- A write of the route engine: an element and fields of its word, each given as lowest bit, width and value. -/
abbrev CtlWrite := ElemIx × List (Nat × Nat × Nat)

/-- The primary step of a write: its word is loaded and checked, and the result waits in a delay register (R183, R187, R190). A lane that has found a code fault goes no further (R192). -/
def ctlPrimary (c : Ctx) (m : Loam) (x : LaneSt) (w : CtlWrite) : LaneSt :=
  if x.cx.isSome then x
  else if !loadOk c m x w.1 then x.faulted 1 ctlUnit w.1
  else
    let v := iputs (infoOf c x w.1) w.2
    x.issue ctlUnit ⟨w.1, v, checkField c.lane v (epochOf x w.1)⟩

/-- Its shadow step: the complemented fields of the transformed word are replaced, and only an agreed result is written (R179, R184, R186, R191). -/
def ctlShadow (c : Ctx) (m : Loam) (x : LaneSt) (w : CtlWrite) : LaneSt :=
  if x.cx.isSome then x
  else if !loadOkShadow c m x w.1 then x.faulted 1 ctlUnit w.1
  else
    let v := shadowInv c.lane (dualIputs c.lane (shadowFwd c.lane (infoOf c x w.1)) w.2)
    x.compare ctlUnit v (checkShadow c.lane v (epochOf x w.1)) (commitWrite c)

/-- A slot of the controller's interleave: a primary step, and then a shadow step. -/
def ctlSlot (c : Ctx) (m : Loam) (x : LaneSt) (p : Option CtlWrite × Option CtlWrite) : LaneSt :=
  let y := match p.1 with | some w => ctlPrimary c m x w | none => x
  match p.2 with | some w => ctlShadow c m y w | none => y

/-- A run of writes of different words by the route engine: the shadow pass follows one step behind the primary, so that two delay registers are in use (R190; log 66). -/
def ctlSets (c : Ctx) (m : Loam) (x : LaneSt) (ws : List CtlWrite) : LaneSt := (interleave 1 ws).foldl (ctlSlot c m) x

/-- A run of one write. What the route engine does next may read the word, so the shadow step ends before it (log 66). -/
def ctlSet (c : Ctx) (m : Loam) (x : LaneSt) (i : ElemIx) (fs : List (Nat × Nat × Nat)) : LaneSt := ctlSets c m x [(i, fs)]

/-- A write of a whole word by the route engine. -/
def ctlWrite (c : Ctx) (m : Loam) (x : LaneSt) (i : ElemIx) (v : Info) : LaneSt := ctlSet c m x i [(0, 24, v.toNat)]

/-- The fields that the route engine writes in BEDROCK at the start of every LOGIC (R47). -/
def bedrockFields (t : Nat) (w : Info) : List (Nat × Nat × Nat) :=
  (if claimable t then [(19, 2, 0), (11, 8, 0)] else [(19, 2, 0)]) ++
  match t with
  | 1 => [(7, 2, 0)]
  | 3 => [(7, 4, 0), (2, 1, 0)]
  | 5 => [(7, 4, 0), (11, 8, 0), (2, 1, 0)]
  | 6 => [(8, 3, 0)]
  | 7 => [(9, 2, 0)]
  | 9 => if ifld w 15 1 = 1 then [(14, 1, 1)] else []
  | _ => []

/-- The clearing of BEDROCK: every element's word, the wave table, every trail and every cancel-pending bit (R47). -/
def bedrockClear (c : Ctx) (m : Loam) (x : LaneSt) : LaneSt :=
  let y := ctlSets c m x (((List.range m.elems.length).filter fun i => (m.elem i).ty != tyNone).map fun i => (i, bedrockFields (m.elem i).ty (infoOf c x i)))
  { y with reg := { y.reg with waves := [] } }

end Sys2Proof.Machine
end

