-- ==== Sys2Proof/Machine/Operands.lean ====
section
/-! DEFINITION. The operand forms of the descriptors: their inline arguments and the checks of R238, the opcodes (R248), the status codes, and the RESULT bytes of the route-engine completions (R139). -/

namespace Sys2Proof.Machine

/-! ### Status codes (Host Interface and Descriptor Rings) -/

abbrev stDone : Nat := 0x00
abbrev stAccepted : Nat := 0x01
abbrev stPort : Nat := 0x02
abbrev stState : Nat := 0x03
abbrev stConflict : Nat := 0x04
abbrev stTimeout : Nat := 0x05
abbrev stCancelled : Nat := 0x06
abbrev stBusy : Nat := 0x07
abbrev stMalformed : Nat := 0x08
abbrev stLevel : Nat := 0x09

/-! ### Opcodes (R248) -/

abbrev opRouteSet : BitVec 16 := 0x01
abbrev opRouteCancel : BitVec 16 := 0x02
abbrev opEmergency : BitVec 16 := 0x03
abbrev opPointMove : BitVec 16 := 0x04
abbrev opRestore : BitVec 16 := 0x05
abbrev opRead : BitVec 16 := 0x06
abbrev opBlock : BitVec 16 := 0x07
abbrev opPropose : BitVec 16 := 0x10
abbrev opConfirm : BitVec 16 := 0x11
abbrev opRecord : BitVec 16 := 0x20
abbrev opOpen : BitVec 16 := 0x30
abbrev opWrite : BitVec 16 := 0x31
abbrev opClose : BitVec 16 := 0x32
abbrev opActivate : BitVec 16 := 0x33
abbrev opHealth : BitVec 16 := 0x34
abbrev opRelease : BitVec 16 := 0x40
abbrev opRejoin : BitVec 16 := 0x41
abbrev opAttest : BitVec 16 := 0x50
abbrev opMode : BitVec 16 := 0x60
abbrev opSwitch : BitVec 16 := 0x70

/-! ### Arguments -/

/-- The little-endian argument of n bytes at a byte offset of the descriptor (R237). -/
def reqArg (q : Req) (off n : Nat) : Nat := leAt q.args (off - 20) n

/-- The element, route or first index that bytes 20 to 23 name. -/
def reqIndex (q : Req) : Nat := reqArg q 20 4

/-- The arguments an opcode names: offset, length in bytes, and the bits that may be set (R238, R248). -/
def argMask (op : BitVec 16) : Option (List (Nat × Nat × Nat)) :=
  let eix := (20, 4, 0x7FFFFF)
  match op.toNat with
  | 0x01 => some [eix, (24, 2, 3)]
  | 0x02 => some [eix]
  | 0x03 => some [eix]
  | 0x04 => some [eix, (24, 1, 3)]
  | 0x05 => some [eix]
  | 0x06 => some [eix, (24, 2, 0xFFFF)]
  | 0x07 => some [eix, (24, 1, 3)]
  | 0x10 => some [eix, (24, 4, 0xFFFFFFFF)]
  | 0x11 => some [eix, (24, 4, 0xFFFFFFFF), (28, 2, 0xFFFF)]
  | 0x20 => some [(20, 4, 0xFFFFFFFF), (24, 2, 0xFFFF)]
  | 0x30 => some [(20, 4, 0xFFFFFFFF), (24, 1, 3)]
  | 0x31 => some [(20, 2, 0xFFFF), (24, 4, 0xFFFFFFFF)]
  | 0x32 => some [(20, 2, 0xFFFF)]
  | 0x33 => some [(20, 2, 0xFFFF)]
  | 0x34 => some []
  | 0x40 => some [(20, 1, 0xFF)]
  | 0x41 => some [(20, 1, 0xFF)]
  | 0x50 => some [(20, 32, 2 ^ 256 - 1)]
  | 0x60 => some [(20, 1, 0x0F)]
  | 0x70 => some []
  | _ => none

/-- The argument bits that an opcode's arguments may set, as one number over bytes 20 to 63. -/
def argBits (l : List (Nat × Nat × Nat)) : Nat := l.foldl (fun a f => a + f.2.2 * 256 ^ (f.1 - 20)) 0

/-- No argument bit outside the named ones is set. -/
def argsOk (op : BitVec 16) (q : Req) : Bool :=
  match argMask op with
  | none => false
  | some l => leNat q.args &&& argBits l == leNat q.args

/-- BUFADDR and LENGTH are 0. -/
def noBuffer (q : Req) : Bool := q.bufaddr == 0 && q.length == 0

/-- BUFADDR is a non-zero multiple of 64 and LENGTH is n. -/
def bufferOf (q : Req) (n : Nat) : Bool := q.bufaddr != 0 && q.bufaddr.toNat % 64 == 0 && q.length.toNat == n

/-- BUFADDR and LENGTH are as the opcode requires (R237, R238, R248). -/
def bufferOk (op : BitVec 16) (q : Req) : Bool :=
  match op.toNat with
  | 0x06 => if reqArg q 24 2 = 1 then noBuffer q || bufferOf q 8 else bufferOf q (8 * reqArg q 24 2)
  | 0x20 => bufferOf q (32 * reqArg q 24 2)
  | 0x31 => bufferOf q q.length.toNat && 64 ≤ q.length.toNat && q.length.toNat ≤ 65536 && q.length.toNat % 64 == 0
  | 0x50 => bufferOf q 1024
  | _ => noBuffer q

/-- No named argument holds a reserved encoding (R7, R248). -/
def encodingOk (op : BitVec 16) (q : Req) : Bool :=
  match op.toNat with
  | 0x04 => reqArg q 24 1 == 1 || reqArg q 24 1 == 2
  | 0x06 => 1 ≤ reqArg q 24 2 && reqArg q 24 2 ≤ 256
  | 0x07 => reqArg q 24 1 ≤ 2
  | 0x20 => 1 ≤ reqArg q 24 2 && reqArg q 24 2 ≤ 2048
  | 0x30 => reqArg q 24 1 ≤ 1
  | 0x31 => reqArg q 24 4 % 64 == 0
  | 0x40 => reqArg q 20 1 ≤ 2
  | 0x41 => reqArg q 20 1 ≤ 2
  | 0x60 => reqArg q 20 1 ≤ 3
  | _ => true

/-- The checks of R238, which come before every check of an opcode's own chapter; a buffer whose read failed makes the descriptor malformed (R253). -/
def malformed (op : BitVec 16) (q : Req) : Bool :=
  q.flags.toNat / 2 != 0 || q.bufFailed || !argsOk op q || !bufferOk op q || !encodingOk op q

/-! ### Completions of the lanes -/

/-- A lane completes a request of the present cycle (R243, R245). -/
def LaneSt.answer (c : Ctx) (op : BitVec 16) (q : Req) (status : Nat) (result : Bytes) (x : LaneSt) : LaneSt :=
  x.complete (mkCmpl op q status c.cycle result)

/-- RESULT of a route-engine completion: index, RSTATE, FAIL and FIRSTFAIL, 0xFFFF_FFFF where there is none (R139, R248). -/
def routeResult (ix rstate fail : Nat) (first : Option ElemIx) : Bytes :=
  leBytes 4 ix ++ leBytes 1 rstate ++ leBytes 1 fail ++ [0, 0] ++ leBytes 4 (first.getD 0xFFFFFFFF)

end Sys2Proof.Machine
end

