-- ==== Sys2Proof/Machine/Chain.lean ====
section
/-! DEFINITION. Set routes: the flank groups of a point (R121, R122), the chains of locked elements (R130), the release of elements and routes (R131, R133 to R136), proving and clearing (R126 to R128), proof losses (R129), and the route-map items (R112). -/

namespace Sys2Proof.Machine

/-! ### The stage's accounts (R109, R141, R144) -/

/-- Steps of the stage (R109). -/
def LaneSt.took (x : LaneSt) (n : Nat) : LaneSt := { x with rpt := { x.rpt with steps := x.rpt.steps + n } }

/-- A source that the route engine raises, once in a cycle (R141). -/
def LaneSt.source (x : LaneSt) (k : Nat) : LaneSt := { x with rpt := { x.rpt with sources := insertUp k x.rpt.sources } }

/-- A change of the counts that the lane reports (R144). -/
def LaneSt.tally (x : LaneSt) (f : Report → Report) : LaneSt := { x with rpt := f x.rpt }


/-! ### Fields of the words -/

/-- CLAIM: 0 FREE, 1 RESERVED, 2 LOCKED, 3 FLANK (R81). -/
def claimOf (c : Ctx) (x : LaneSt) (i : ElemIx) : Nat := wfld c x i 19 2
/-- TAG (R81). -/
def tagOf (c : Ctx) (x : LaneSt) (i : ElemIx) : Nat := wfld c x i 11 8
/-- STATUS: 3 PROVEN, 2 BLOCKED, 1 UNPROVEN, 0 FAULTED (R81). -/
def statusOf (c : Ctx) (x : LaneSt) (i : ElemIx) : Nat := wfld c x i 22 2
/-- CMD of a point or crossing. -/
def cmdOf (c : Ctx) (x : LaneSt) (i : ElemIx) : Nat := wfld c x i 7 2
/-- DET of a point or crossing. -/
def detOf (c : Ctx) (x : LaneSt) (i : ElemIx) : Nat := wfld c x i 9 2
/-- CLEAR of a track section. -/
def clearOf (c : Ctx) (x : LaneSt) (i : ElemIx) : Bool := wfld c x i 10 1 == 1
/-- SEQ of a track section. -/
def seqOf (c : Ctx) (x : LaneSt) (i : ElemIx) : Nat := wfld c x i 7 2
/-- RSTATE of a route element. -/
def rstateOf (c : Ctx) (x : LaneSt) (i : ElemIx) : Nat := wfld c x i 7 4
/-- The exit port of a locked element (R81). -/
def exitOf (c : Ctx) (x : LaneSt) (i : ElemIx) : Nat := wfld c x i 11 2

/-- The route table row of a route element (R105). -/
def rowOf (m : Loam) (x : LaneSt) (rte : ElemIx) : RouteRow :=
  m.routes.getD (fld (paramOf m x rte) 0 23) { entry := 0, kind := 0, exit := 0, overlap := none, pathOff := 0, pathLen := 0 }

/-- The timer linked at port 3 of a route or overlap element, if there is one (R95). -/
def timerOf (m : Loam) (i : ElemIx) : Option ElemIx :=
  let w := (m.elem i).port 3
  if nbrPresent w && (m.elem (nbrIx w)).ty == tyTmr then some (nbrIx w) else none

/-- A timer starts: TSTATE running, REMAIN from its PARAM0; it counts from the next cycle (R92, R132). -/
def startTimer (c : Ctx) (m : Loam) (x : LaneSt) : Option ElemIx → LaneSt
  | none => x
  | some t => { ctlSet c m x t [(17, 2, 1), (0, 17, fld (paramOf m x t) 0 17)] with timers := insertUp t x.timers }

/-- A timer stops. -/
def stopTimer (c : Ctx) (m : Loam) (x : LaneSt) : Option ElemIx → LaneSt
  | none => x
  | some t => ctlSet c m x t [(17, 2, 0), (0, 17, 0)]

/-- A timer has expired, or there is none (R133, R137). -/
def timerDone (c : Ctx) (x : LaneSt) : Option ElemIx → Bool
  | none => true
  | some t => wfld c x t 17 2 == 2

/-! ### Flank groups (R121, R122) -/

/-- The position that a group's port asks of a member point: normal on ports 0 and 1, reverse on 2 and 3 (R121). -/
def flankPos (p : Nat) : Nat := if p < 2 then 1 else 2

/-- The members of a group with the position each needs: points by their port, signals by none; a group chained at port 3 is no member. -/
def groupMembers (m : Loam) (g : ElemIx) : List (ElemIx × Nat) :=
  ([0, 1, 2, 3].filter fun p => nbrPresent ((m.elem g).port p)).filterMap fun p =>
    let i := nbrIx ((m.elem g).port p)
    match (m.elem i).ty with
    | 2 => some (i, flankPos p)
    | 3 => some (i, 0)
    | _ => none

/-- The group chained at a group's port 3. -/
def nextGroup (m : Loam) (g : ElemIx) : Option ElemIx :=
  let w := (m.elem g).port 3
  if nbrPresent w && (m.elem (nbrIx w)).ty == tyFlk then some (nbrIx w) else none

/-- A group and the groups chained to it, up to a number of them, and whether the chain ends within it. -/
def groupChain (m : Loam) : Nat → Option ElemIx → List ElemIx × Bool
  | _, none => ([], true)
  | 0, some _ => ([], false)
  | n + 1, some g => let r := groupChain m n (nextGroup m g); (g :: r.1, r.2)

/-- The group of a point, where the point has one and the position is its own flank position (R121, R122). -/
def demandedGroup (m : Loam) (p : ElemIx) (pos : Nat) : Option ElemIx :=
  let w := (m.elem p).port 3
  if nbrPresent w && (m.elem (nbrIx w)).ty == tyFlk && pos == flankPos (nbrFar w) then some (nbrIx w) else none

/-- The claims that a demand makes, in their order: each group, then its members other than the demanding point (R122). -/
def demandClaims (m : Loam) (p : ElemIx) (gs : List ElemIx) : List (ElemIx × Nat) :=
  gs.flatMap fun g => (g, 0) :: (groupMembers m g).filter fun k => k.1 != p

/-- What reserving a point in a position demands; none where the chain is longer than four groups (R122). -/
def demandOf (m : Loam) (p : ElemIx) (pos : Nat) : Option (List (ElemIx × Nat)) :=
  let r := groupChain m 4 (demandedGroup m p pos)
  if r.2 then some (demandClaims m p r.1) else none

/-! ### Chains (R130) -/

/-- The rear port of a locked element; none for an element that takes no part in chains. -/
def rearPort (c : Ctx) (m : Loam) (x : LaneSt) (i : ElemIx) : Option Nat :=
  if claimOf c x i != 2 then none
  else
    let e := exitOf c x i
    match (m.elem i).ty with
    | 1 => some (e ^^^ 1)
    | 3 => some (e ^^^ 1)
    | 4 => some (e ^^^ 1)
    | 2 => if e = 0 then (match cmdOf c x i with | 1 => some 1 | 2 => some 2 | _ => none) else if e ≤ 2 then some 0 else none
    | _ => none

/-- An entry signal: a signal locked with exit port 1. -/
def isEntry (c : Ctx) (m : Loam) (x : LaneSt) (i : ElemIx) : Bool :=
  (m.elem i).ty == tySig && claimOf c x i == 2 && exitOf c x i == 1

/-- The element that follows an element. -/
def follower (c : Ctx) (m : Loam) (x : LaneSt) (i : ElemIx) : Option ElemIx :=
  if (rearPort c m x i).isNone then none
  else
    let w := (m.elem i).port (exitOf c x i)
    if nbrPresent w && rearPort c m x (nbrIx w) == some (nbrFar w) && !isEntry c m x (nbrIx w) then some (nbrIx w) else none

/-- The element that an element follows. -/
def precursor (c : Ctx) (m : Loam) (x : LaneSt) (i : ElemIx) : Option ElemIx :=
  match rearPort c m x i with
  | none => none
  | some r =>
    let w := (m.elem i).port r
    if nbrPresent w && !isEntry c m x i && (rearPort c m x (nbrIx w)).isSome && exitOf c x (nbrIx w) == nbrFar w then some (nbrIx w) else none

/-- The words that deciding what follows an element, and what it follows, loads: the neighbours at its exit port and at its rear port. -/
def chainLoads (c : Ctx) (m : Loam) (x : LaneSt) (i : ElemIx) : List ElemIx :=
  if claimOf c x i != 2 then []
  else (((rearPort c m x i).toList ++ [exitOf c x i]).filter fun p => nbrPresent ((m.elem i).port p)).map fun p => nbrIx ((m.elem i).port p)

/-- Visiting one element in a walk: one step, and checked loads of its word and of those that decide where the chain goes (R109, R181). -/
def visit (c : Ctx) (m : Loam) (x : LaneSt) (i : ElemIx) : LaneSt :=
  let y := ctlLoad c m x i
  (ctlLoads c m y (chainLoads c m y i)).took 1

/-- A walk along a partial function from an element, each visited element once: the state, and the elements in their order. -/
def walk (c : Ctx) (m : Loam) (next : LaneSt → ElemIx → Option ElemIx) : Nat → LaneSt → List ElemIx → ElemIx → LaneSt × List ElemIx
  | 0, x, seen, _ => (x, seen)
  | n + 1, x, seen, i =>
    if seen.contains i then (x, seen)
    else
      let y := visit c m x i
      match next y i with
      | none => (y, seen ++ [i])
      | some j => walk c m next n y (seen ++ [i]) j

/-- The chain forward from an element. -/
def chainFrom (c : Ctx) (m : Loam) (x : LaneSt) (i : ElemIx) : LaneSt × List ElemIx :=
  walk c m (follower c m) m.elems.length x [] i

/-- The walk back from an element to the head of its chain. -/
def headFrom (c : Ctx) (m : Loam) (x : LaneSt) (i : ElemIx) : LaneSt × ElemIx :=
  let r := walk c m (precursor c m) m.elems.length x [] i
  (r.1, r.2.getLast?.getD i)

/-- The neighbour at a port of an element, where it is present. -/
def portLoads (m : Loam) (i : ElemIx) (p : Nat) : List ElemIx :=
  let w := (m.elem i).port p
  if nbrPresent w then [nbrIx w] else []

/-- The overlap head of an exit signal. -/
def overlapHead (c : Ctx) (m : Loam) (x : LaneSt) (sig : ElemIx) : Option ElemIx :=
  let w := (m.elem sig).port 1
  if nbrPresent w && rearPort c m x (nbrIx w) == some (nbrFar w) then some (nbrIx w) else none

/-- The path chain of a route, from its entry signal. -/
def pathChain (c : Ctx) (m : Loam) (x : LaneSt) (rte : ElemIx) : LaneSt × List ElemIx :=
  let e := (rowOf m x rte).entry
  let y := ctlLoad c m x e
  if isEntry c m y e then chainFrom c m y e else (y, [])

/-- The overlap chain of a route. -/
def overlapChain (c : Ctx) (m : Loam) (x : LaneSt) (rte : ElemIx) : LaneSt × List ElemIx :=
  let r := rowOf m x rte
  if r.overlap.isNone then (x, [])
  else
    let y := ctlLoads c m x (portLoads m r.exit 1)
    match overlapHead c m y r.exit with
    | none => (y, [])
    | some h => chainFrom c m y h

/-- Both chains of a route. -/
def routeChains (c : Ctx) (m : Loam) (x : LaneSt) (rte : ElemIx) : LaneSt × List ElemIx × List ElemIx :=
  let p := pathChain c m x rte
  let o := overlapChain c m p.1 rte
  (o.1, p.2, o.2)

/-- The first track section of a chain. -/
def firstTrk (m : Loam) (l : List ElemIx) : Option ElemIx := l.find? fun i => (m.elem i).ty == tyTrk

/-! ### Release (R131) -/

/-- One share of a flank claim is given up. -/
def dropFlank (c : Ctx) (m : Loam) (x0 : LaneSt) (i : ElemIx) : LaneSt :=
  let x := ctlLoad c m x0 i
  if claimOf c x i != 3 then x
  else if 1 < tagOf c x i then ctlSet c m x i [(11, 8, tagOf c x i - 1)]
  else ctlSet c m x i ([(19, 2, 0), (11, 8, 0)] ++ if (m.elem i).ty = tyFlk then [(9, 1, 0), (10, 1, 0)] else [])

/-- An element is released. -/
def releaseElem (c : Ctx) (m : Loam) (x : LaneSt) (i : ElemIx) : LaneSt :=
  let e := m.elem i
  let extra := if e.ty = tyXng ∧ e.field then [(5, 1, 0)] else if e.ty = tyOvl then [(9, 2, 0), (8, 1, 0)] else []
  let y := ctlSet c m x i ([(19, 2, 0), (11, 8, 0)] ++ extra)
  if e.ty = tyPnt then (((demandOf m i (cmdOf c x i)).getD []).map (·.1)).foldl (dropFlank c m) y else y

/-- A list of elements is released, first to last. -/
def releaseAll (c : Ctx) (m : Loam) (x : LaneSt) (l : List ElemIx) : LaneSt := l.foldl (releaseElem c m) x

/-- A route becomes IDLE by release: APPR is cleared in the same write, and source 83 is raised (R131, R141). -/
def routeIdle (c : Ctx) (m : Loam) (x : LaneSt) (rte : ElemIx) : LaneSt :=
  (ctlSet c m x rte [(7, 4, 0), (11, 8, 0), (2, 1, 0)]).source 83

/-- A route whose path has been walked is released whole: its path, its overlap and its OVL. -/
def releaseWalked (c : Ctx) (m : Loam) (x : LaneSt) (rte : ElemIx) (path : List ElemIx) : LaneSt :=
  let o := overlapChain c m x rte
  let y := releaseAll c m (releaseAll c m o.1 path) o.2
  let z := match (rowOf m x rte).overlap with
    | some v => let y1 := ctlLoad c m y v; if claimOf c y1 v = 2 then releaseElem c m y1 v else y1
    | none => y
  routeIdle c m z rte

/-- A route is released whole: its path, its overlap and its OVL. -/
def releaseRoute (c : Ctx) (m : Loam) (x : LaneSt) (rte : ElemIx) : LaneSt :=
  let p := pathChain c m x rte
  releaseWalked c m p.1 rte p.2

/-! ### Proving and clearing (R126 to R128) -/

/-- STATUS is PROVEN or BLOCKED. -/
def proven (c : Ctx) (x : LaneSt) (i : ElemIx) : Bool := 2 ≤ statusOf c x i

/-- A field-bound point or crossing stands as commanded (the table of "Proving and clearing"). -/
def setAsCommanded (c : Ctx) (m : Loam) (x : LaneSt) (i : ElemIx) : Bool :=
  let e := m.elem i
  if e.field && (e.ty == tyPnt || e.ty == tyXng) then
    detOf c x i == cmdOf c x i && proven c x i && (e.ty == tyPnt || wfld c x i 6 1 == wfld c x i 5 1)
  else true

/-- The groups that the points of a chain demand. -/
def demandedGroups (c : Ctx) (m : Loam) (x : LaneSt) (l : List ElemIx) : List (ElemIx × List ElemIx) :=
  (l.filter fun i => (m.elem i).ty == tyPnt).filterMap fun p =>
    let gs := (groupChain m 4 (demandedGroup m p (cmdOf c x p))).1
    if gs.isEmpty then none else some (p, gs)

/-- The flank conditions of R128 for one demand. -/
def flankMet (c : Ctx) (m : Loam) (x : LaneSt) (d : ElemIx × List ElemIx) : Bool :=
  (demandClaims m d.1 d.2).all fun k =>
    match (m.elem k.1).ty with
    | 2 => detOf c x k.1 == k.2 && proven c x k.1
    | 3 => wfld c x k.1 3 4 == 0 && wfld c x k.1 7 4 == 0
    | _ => true

/-- The element the path chain ends at is linked to the exit signal's port 0. -/
def pathIntact (c : Ctx) (m : Loam) (x : LaneSt) (rte : ElemIx) (path : List ElemIx) : Option ElemIx :=
  match path.getLast? with
  | none => some (rowOf m x rte).entry
  | some l =>
    let w := (m.elem l).port (exitOf c x l)
    if nbrPresent w && nbrIx w == (rowOf m x rte).exit && nbrFar w == 0 then none
    else some (if nbrPresent w then nbrIx w else l)

/-- The overlap chain reaches its end and the OVL shows set; otherwise the first element that fails. -/
def overlapIntact (c : Ctx) (m : Loam) (x : LaneSt) (rte : ElemIx) (ovl : List ElemIx) : Option ElemIx :=
  match (rowOf m x rte).overlap with
  | none => none
  | some o =>
    let w := (m.elem o).port (if wfld c x o 8 1 = 1 then 2 else 1)
    let tgt := if nbrPresent w then nbrIx w else o
    if !ovl.contains tgt then some tgt else if wfld c x o 9 2 != 1 then some o else none

/-- The words beside the chains that the proving conditions load: the OVL and the demanded groups. -/
def provingLoads (c : Ctx) (m : Loam) (x : LaneSt) (rte : ElemIx) (l : List ElemIx) : List ElemIx :=
  (rowOf m x rte).overlap.toList ++ (demandedGroups c m x l).flatMap (·.2)

/-- The first element that fails the proving conditions of R127: the conditions in the rule's own order, STATUS and CLEAR taken together along the chains (DESIGN CHOICE, log 76: R127 names "the first failing element" and gives no order among elements). -/
def provingFail (c : Ctx) (m : Loam) (x : LaneSt) (rte : ElemIx) (path ovl : List ElemIx) : Option ElemIx :=
  match pathIntact c m x rte path with
  | some i => some i
  | none =>
    match overlapIntact c m x rte ovl with
    | some i => some i
    | none =>
      match (path ++ ovl).find? fun i => !proven c x i || ((m.elem i).ty == tyTrk && !clearOf c x i) with
      | some i => some i
      | none => ((demandedGroups c m x (path ++ ovl)).flatMap (·.2)).find? fun g => wfld c x g 10 1 == 0

/-- The highest aspect code that a signal's PARAM0.ASPECTS permits (R127). -/
def topAspect (p0 : Nat) : Nat := ((List.range 16).filter fun k => bitOf p0 k).foldl max 0

/-- The actions of R127 once the proving conditions hold. -/
def clearSignal (c : Ctx) (m : Loam) (x : LaneSt) (rte : ElemIx) (chains : List ElemIx) : LaneSt :=
  let y := ctlSets c m x ((chains.filter fun i => (m.elem i).ty == tyTrk).dedup.map fun i => (i, [(7, 2, 0)]))
  let e := (rowOf m x rte).entry
  (ctlSet c m (ctlSet c m y e [(7, 4, topAspect (paramOf m y e))]) rte [(2, 1, 1), (7, 4, 6)]).source 81

/-- RESTQ set on a signal. -/
def restore (c : Ctx) (m : Loam) (x : LaneSt) (sig : ElemIx) : LaneSt := ctlSet c m x sig [(2, 1, 1)]

/-! ### Sequential release (R134, R135) -/

/-- The walk back from a release candidate over locked elements that are not track sections, to the run start. -/
def runStart (c : Ctx) (m : Loam) (x : LaneSt) (t : ElemIx) : LaneSt × ElemIx :=
  let back (y : LaneSt) (i : ElemIx) : Option ElemIx :=
    match precursor c m y i with
    | some p => if (m.elem p).ty = tyTrk then none else some p
    | none => none
  let r := walk c m back m.elems.length x [] t
  (r.1, r.2.getLast?.getD t)

/-- The elements of a chain up to and including one of them. -/
def upTo (t : ElemIx) (l : List ElemIx) : List ElemIx := l.takeWhile (· != t) ++ [t]

/-- A release candidate: its run is released where it starts at a head that is not an entry signal; the answer is the element that followed it. Each visit of an element is a step, in the search for the next track section, in the walk back to the run start, and in the release (DESIGN CHOICE, log 76: R109 counts visits, R135 does not say how often a run is walked). -/
def releaseRun (c : Ctx) (m : Loam) (x : LaneSt) (t : ElemIx) : LaneSt × Option ElemIx :=
  let r := runStart c m x t
  if (precursor c m r.1 r.2).isSome || isEntry c m r.1 r.2 then (r.1, none)
  else
    let nxt := follower c m r.1 t
    let run := walk c m (fun y i => if i = t then none else follower c m y i) m.elems.length r.1 [] r.2
    (releaseAll c m run.1 (if run.2.contains t then run.2 else []), nxt)

/-- The next track section from an element, forward. -/
def nextTrk (c : Ctx) (m : Loam) (x : LaneSt) (i : ElemIx) : LaneSt × Option ElemIx :=
  let r := walk c m (fun y j => if (m.elem j).ty = tyTrk then none else follower c m y j) m.elems.length x [] i
  (r.1, r.2.find? fun j => (m.elem j).ty == tyTrk)

/-- A track section the train has passed: SEQ passed and CLEAR. -/
def passed (c : Ctx) (x : LaneSt) (t : ElemIx) : Bool := seqOf c x t == 2 && clearOf c x t

/-- The same test forward on the next run, as far as it holds (R135, item 3). -/
def releaseOn (c : Ctx) (m : Loam) : Nat → LaneSt → Option ElemIx → LaneSt
  | _, x, none => x
  | 0, x, some _ => x
  | n + 1, x, some f =>
    let r := nextTrk c m x f
    match r.2 with
    | none => r.1
    | some t => if passed c r.1 t then let q := releaseRun c m r.1 t; releaseOn c m n q.1 q.2 else r.1

/-- A release candidate and the runs ahead of it (R135). -/
def releaseCandidate (c : Ctx) (m : Loam) (x : LaneSt) (t : ElemIx) : LaneSt :=
  let q := releaseRun c m x t
  releaseOn c m m.elems.length q.1 q.2

/-! ### Route-map items -/

/-- The item of a route in POINTS_COMMANDED. -/
def itemCommanded (c : Ctx) (m : Loam) (x : LaneSt) (rte : ElemIx) : LaneSt :=
  let r := routeChains c m x rte
  if (r.2.1 ++ r.2.2).all (setAsCommanded c m r.1) then ctlSet c m r.1 rte [(7, 4, 4)] else r.1

/-- The item of a route in POINTS_DETECTED. -/
def itemDetected (c : Ctx) (m : Loam) (x : LaneSt) (rte : ElemIx) : LaneSt :=
  let r := routeChains c m x rte
  let ds := demandedGroups c m r.1 (r.2.1 ++ r.2.2)
  let y := ctlLoads c m r.1 (ds.flatMap fun d => (demandClaims m d.1 d.2).map (·.1))
  if ds.all (flankMet c m y) then
    ctlSet c m ((ds.flatMap (·.2)).foldl (fun y g => ctlSet c m y g [(10, 1, 1)]) y) rte [(7, 4, 5)]
  else y

/-- The item of a route in PROVING with APPR = 0. -/
def itemProving (c : Ctx) (m : Loam) (x : LaneSt) (rte : ElemIx) : LaneSt :=
  let r := routeChains c m x rte
  let y := ctlLoads c m r.1 (provingLoads c m r.1 rte (r.2.1 ++ r.2.2))
  if (provingFail c m y rte r.2.1 r.2.2).isNone then clearSignal c m y rte (r.2.1 ++ r.2.2) else y

/-- The item of a route in SIGNAL_CLEARED. -/
def itemCleared (c : Ctx) (m : Loam) (x : LaneSt) (rte : ElemIx) : LaneSt :=
  let r := pathChain c m x rte
  let e := (rowOf m x rte).entry
  if (firstTrk m r.2).any (fun t => seqOf c r.1 t == 1) then restore c m (ctlSet c m r.1 rte [(7, 4, 7)]) e
  else if wfld c r.1 e 7 4 = 0 then (ctlSet c m r.1 rte [(7, 4, 5)]).source 82
  else r.1

/-- The item of a route in RELEASING_SEQ (R134): the entry run is released and the route becomes IDLE. -/
def itemSequential (c : Ctx) (m : Loam) (x : LaneSt) (rte : ElemIx) : LaneSt :=
  let r := pathChain c m x rte
  match firstTrk m r.2 with
  | none => r.1
  | some t =>
    if passed c r.1 t then
      let nxt := follower c m r.1 t
      releaseOn c m m.elems.length (routeIdle c m (releaseAll c m r.1 (upTo t r.2)) rte) nxt
    else r.1

/-- The item of a route in RELEASING_TIMED (R133). -/
def itemTimed (c : Ctx) (m : Loam) (x : LaneSt) (rte : ElemIx) : LaneSt :=
  let r := pathChain c m x rte
  let y := ctlLoads c m r.1 (timerOf m rte).toList
  if (firstTrk m r.2).any (fun t => seqOf c y t == 1) then ctlSet c m (stopTimer c m y (timerOf m rte)) rte [(7, 4, 7)]
  else if timerDone c y (timerOf m rte) && wfld c y (rowOf m x rte).entry 3 4 == 0 then releaseWalked c m y rte r.2
  else y

/-- The item of a route in RELEASING_EMERGENCY (R137). -/
def itemEmergency (c : Ctx) (m : Loam) (x0 : LaneSt) (rte : ElemIx) : LaneSt :=
  let x := ctlLoads c m x0 ((timerOf m rte).toList ++ [(rowOf m x0 rte).entry])
  if timerDone c x (timerOf m rte) && wfld c x (rowOf m x rte).entry 3 4 == 0 then (releaseRoute c m x rte).source 87 else x

/-- The item of a route element: at most one transition (R126). -/
def itemRoute (c : Ctx) (m : Loam) (x : LaneSt) (rte : ElemIx) : LaneSt :=
  match rstateOf c x rte with
  | 3 => itemCommanded c m x rte
  | 4 => itemDetected c m x rte
  | 5 => if wfld c x rte 2 1 = 0 then itemProving c m x rte else x
  | 6 => itemCleared c m x rte
  | 7 => itemSequential c m x rte
  | 8 => itemTimed c m x rte
  | 9 => itemEmergency c m x rte
  | _ => x

/-- The words that the item of an overlap element loads besides its own: the exit signal, its neighbours at ports 0 and 1, and the release timer. -/
def overlapLoads (m : Loam) (o : ElemIx) : List ElemIx :=
  let w := (m.elem o).port 0
  (timerOf m o).toList ++ if nbrPresent w then nbrIx w :: portLoads m (nbrIx w) 0 ++ portLoads m (nbrIx w) 1 else []

/-- The item of an overlap element (R136). -/
def itemOverlap (c : Ctx) (m : Loam) (x0 : LaneSt) (o : ElemIx) : LaneSt :=
  let x := ctlLoads c m x0 (overlapLoads m o)
  let w := (m.elem o).port 0
  let head := if nbrPresent w then overlapHead c m x (nbrIx w) else none
  match head with
  | none => stopTimer c m (releaseElem c m x o) (timerOf m o)
  | some h =>
    match wfld c x o 9 2 with
    | 1 =>
      let v := (m.elem (nbrIx w)).port 0
      if nbrPresent v && (m.elem (nbrIx v)).ty == tyTrk && claimOf c x (nbrIx v) == 2 && seqOf c x (nbrIx v) == 1 && (timerOf m o).isSome then
        ctlSet c m (startTimer c m x (timerOf m o)) o [(9, 2, 2)]
      else x
    | 2 =>
      if timerDone c x (timerOf m o) then
        let r := chainFrom c m x h
        if r.2.all fun i => (m.elem i).ty != tyTrk || clearOf c r.1 i then releaseElem c m (releaseAll c m r.1 r.2) o else r.1
      else x
    | _ => x

/-- The walk of a proof loss ends at a head: an entry signal that shows an aspect is restored (R129). -/
def lossAt (c : Ctx) (m : Loam) (x : LaneSt) (h : ElemIx) : LaneSt :=
  if isEntry c m x h && wfld c x h 7 4 != 0 then restore c m x h else x

/-- The walk of a proof loss: back to the head, and from an overlap head on along the approaching route's chain (R129). -/
def lossWalk (c : Ctx) (m : Loam) (x : LaneSt) (i : ElemIx) : LaneSt :=
  let r := headFrom c m x i
  match rearPort c m r.1 r.2, isEntry c m r.1 r.2 with
  | some p, false =>
    let w := (m.elem r.2).port p
    if nbrPresent w && (m.elem (nbrIx w)).ty == tySig && nbrFar w == 1 then
      let v := (m.elem (nbrIx w)).port 0
      let y := ctlLoads c m r.1 (portLoads m (nbrIx w) 0)
      if nbrPresent v && (rearPort c m y (nbrIx v)).isSome then let q := headFrom c m y (nbrIx v); lossAt c m q.1 q.2 else y
    else r.1
  | _, _ => lossAt c m r.1 r.2

/-- The groups of a flank member, which for a signal may be two, or the group itself (R121). -/
def groupsOf (m : Loam) (i : ElemIx) : List ElemIx :=
  if (m.elem i).ty = tyFlk then [i]
  else (nbrsOf (m.elem i)).filter fun g => (m.elem g).ty == tyFlk

/-- A group and every group that chains to it. -/
def chainingTo (m : Loam) : Nat → List ElemIx → List ElemIx
  | 0, gs => gs
  | n + 1, gs =>
    let more := gs.flatMap fun g => ([0, 1, 2, 3].filter fun p => nbrPresent ((m.elem g).port p) && nbrFar ((m.elem g).port p) == 3 &&
      (m.elem (nbrIx ((m.elem g).port p))).ty == tyFlk).map fun p => nbrIx ((m.elem g).port p)
    let new := (more.filter fun g => !gs.contains g).dedup
    if new.isEmpty then gs else chainingTo m n (gs ++ new)

/-- A proof loss of a flank member or group: PROV falls on each of its groups and on each group that chains to one, and every member point locked in its flank position is walked back from (R129). -/
def flankLoss (c : Ctx) (m : Loam) (x : LaneSt) (i : ElemIx) : LaneSt :=
  let gs := chainingTo m m.elems.length (groupsOf m i)
  let y := gs.foldl (fun y k => ctlSet c m y k [(10, 1, 0)]) x
  (gs.flatMap (groupMembers m)).foldl (fun y0 k =>
    let y := ctlLoad c m y0 k.1
    if (m.elem k.1).ty = tyPnt ∧ claimOf c y k.1 = 2 ∧ cmdOf c y k.1 = k.2 then lossWalk c m y k.1 else y) y

/-- A RESERVED element whose TAG names a FREE record (R112). -/
def isOrphan (c : Ctx) (x : LaneSt) (i : ElemIx) : Bool := claimOf c x i == 1 && (waveOf x (tagOf c x i)).isNone

/-- An orphan is cleared to FREE, counted, and source 85 is raised (R125). -/
def clearOrphan (c : Ctx) (m : Loam) (x : LaneSt) (i : ElemIx) : LaneSt :=
  ((ctlSet c m x i [(19, 2, 0), (11, 8, 0)]).tally fun r => { r with orphCnt := r.orphCnt + 1 }).source 85

/-- A locked or flank element has lost its proof (R112). -/
def lostProof (c : Ctx) (m : Loam) (x : LaneSt) (i : ElemIx) : Bool :=
  let cl := claimOf c x i
  ((cl == 2 || cl == 3) && statusOf c x i ≤ 1) || ((m.elem i).ty == tyTrk && cl == 2 && !clearOf c x i)

/-- One route-map item: its conditions of R112 are taken as they stand when it is handled. A LOCKED member of a flank group takes the walk along its chain; only an element claimed FLANK takes the flank case (DESIGN CHOICE: R129 speaks of flank members without saying which claim they hold; log 67). -/
def handleItem (c : Ctx) (m : Loam) (x : LaneSt) (i : ElemIx) : LaneSt :=
  let y := visit c m x i
  let t := (m.elem i).ty
  if y.cx.isSome then y
  else if t = tyRte then itemRoute c m y i
  else if !claimable t then y
  else
    let y1 := if t = tyOvl ∧ wfld c y i 9 2 ≠ 0 then itemOverlap c m y i else y
    let y2 := if isOrphan c y1 i then clearOrphan c m y1 i else y1
    let y3 := if lostProof c m y2 i then (if claimOf c y2 i = 3 then flankLoss c m y2 i else lossWalk c m y2 i) else y2
    if t = tyTrk ∧ claimOf c y3 i = 2 ∧ passed c y3 i then releaseCandidate c m y3 i else y3

/-- Every item of the route map, in ascending index; each bit is cleared as its item is handled (R108, item 2). -/
def routeItems (c : Ctx) (m : Loam) (x : LaneSt) : LaneSt :=
  x.reg.routeMap.foldl (fun y i => handleItem c m { y with reg := { y.reg with routeMap := y.reg.routeMap.filter (· != i) } } i) x

end Sys2Proof.Machine
end

