-- ==== Sys2Proof/Machine/Waves.lean ====
section
/-! DEFINITION. Search waves: the acceptance of a route request (R113, R114), the forward search (R115 to R119), the overlap (R120), flank claims (R121, R122), meetings, retreat and endings (R116, R123, R124), locking (R126), and the passes of the wave stage (R108 to R110). -/

namespace Sys2Proof.Machine

/-- What examining an element leads to (R116). -/
inductive Meet | ok | wait | order (n : BitVec 8) | yield | refused (fail : Nat) | waitable (fail : Nat)
deriving DecidableEq, Repr

/-- A leg by which a wave may leave an element: port and required position (R115). -/
abbrev Leg := Nat × Nat

/-! ### The wave table -/

/-- A wave record replaced. -/
def LaneSt.setWave (x : LaneSt) (w : Wave) : LaneSt :=
  { x with reg := { x.reg with waves := x.reg.waves.map fun v => if v.num = w.num then w else v } }

/-- A wave record becomes FREE. -/
def LaneSt.freeWave (x : LaneSt) (n : BitVec 8) : LaneSt :=
  { x with reg := { x.reg with waves := x.reg.waves.filter fun v => v.num != n } }

/-- Wave v is older than wave w (R114). -/
def older (v w : Wave) : Bool := let d := (w.age - v.age).toNat; 1 ≤ d && d < 2 ^ 31

/-- The lowest-numbered FREE record. -/
def freeRecord (x : LaneSt) : Option Nat := (List.range 256).find? fun n => (waveOf x n).isNone

/-! ### Ends and retreats (R123, R124) -/

/-- The completion status of a FAIL code (R139). -/
def failStatus (f : Nat) : Nat := if f = 6 then stTimeout else if f = 7 then stCancelled else stConflict

/-- A ROUTE_SET has ended unset: the report of R124, item 5. -/
def unset (w : Wave) (fail : Nat) (first : Option ElemIx) (x : LaneSt) : LaneSt :=
  (x.tally fun r => { r with unsetCnt := r.unsetCnt + 1, lastFail := some (w.rte, BitVec.ofNat 4 fail, first) }).source 80

/-- The ROUTE_SET of a wave completes; that of a wave inherited from a former active gets no completion (R358). -/
def LaneSt.answerWave (x : LaneSt) (c : Ctx) (w : Wave) (status : Nat) (result : Bytes) : LaneSt :=
  if w.copied then x else x.answer c opRouteSet w.req status result

/-- A wave whose trail is empty ends unset (R124). -/
def endWave (c : Ctx) (m : Loam) (x : LaneSt) (w : Wave) (fail : Nat) : LaneSt :=
  let y := (ctlSet c m x w.rte [(7, 4, 0), (11, 8, 0), (3, 4, fail), (2, 1, 0)]).freeWave w.num
  unset w fail w.failElem (y.answerWave c w (failStatus fail) (routeResult w.rte 0 fail w.failElem))

/-- A wave with nothing left to give back goes where its retreat leads: it ends, or is PAUSED (R123). -/
def settle (c : Ctx) (m : Loam) (x : LaneSt) (w : Wave) : LaneSt :=
  match w.retreat with
  | .ending f => endWave c m x w f.toNat
  | _ => x.setWave { w with st := .paused, flanks := [] }

/-- One more retreat or backtrack has begun (R142). -/
def begunRetreat (x : LaneSt) : LaneSt := x.tally fun r => { r with retCnt := r.retCnt + 1 }

/-- A full retreat begins, for a retry or an end (R123); a retreat that has nothing to give back is settled at once. -/
def retreat (c : Ctx) (m : Loam) (x : LaneSt) (w : Wave) (why : RetreatFor) : LaneSt :=
  let v := { w with retreat := why, flanks := [] }
  if w.trail.isEmpty then settle c m x v
  else
    let y := x.setWave { v with st := .retreating }
    if w.st = .retreating then y else begunRetreat y

/-- One trail entry is given back (R123). The last share of a group returns it to FREE with DEMAND and PROV as they stand (DESIGN CHOICE: R123 names neither, and R131 clears them on release; log 67). -/
def giveBack (c : Ctx) (m : Loam) (x : LaneSt) (e : TrailEntry) : LaneSt :=
  if e.shared ∧ 1 < tagOf c x e.elem then ctlSet c m x e.elem [(11, 8, tagOf c x e.elem - 1)]
  else ctlSet c m x e.elem [(19, 2, 0), (11, 8, 0)]

/-- The first refused or waitable condition of an attempt is kept (R117). -/
def noteFail (w : Wave) (fail : Nat) (i : ElemIx) : Wave :=
  if w.fail = 0 then { w with fail := BitVec.ofNat 4 fail, failElem := some i } else w

/-! ### Passage (R115, R118) -/

/-- The two legs of a point entered at port 0: first the one that matches its present DET, the normal leg where DET shows neither (DESIGN CHOICE: R118 names no order there; log 67). -/
def pointLegs (det : Nat) : List Leg := if det = 2 then [(2, 2), (1, 1)] else [(1, 1), (2, 2)]

/-- The table of passage through an element; none of the ports where it may not be passed. -/
def legsOf (c : Ctx) (m : Loam) (x : LaneSt) (i : ElemIx) (entered : Option Nat) : List Leg :=
  let e := m.elem i
  match e.ty, entered with
  | 3, none => [(1, 0)]
  | 3, some 1 => [(0, 0)]
  | 1, some p => [(p ^^^ 1, 0)]
  | 2, some 0 => pointLegs (detOf c x i)
  | 2, some 1 => [(0, 1)]
  | 2, some 2 => [(0, 2)]
  | 4, some p => [(p ^^^ 1, if e.field then (if p < 2 then 1 else 2) else 0)]
  | _, _ => []

/-- The conditions on a port that a wave leaves by: PRESENT, the wave's direction, and RUN. -/
def portOk (m : Loam) (i : ElemIx) (p : Nat) (dir : Option Bool) : Bool :=
  let w := (m.elem i).port p
  nbrPresent w && nbrRun w ≤ 1 && (match dir with | none => true | some d => nbrDown w == d)

/-- The path step that a predefined route names at the wave's place. -/
def pathStep (m : Loam) (r : RouteRow) (k : Nat) : Option PathStep := if k < r.pathLen then m.path[r.pathOff + k]? else none

/-- A leg is the one that a path step names (R119). -/
def stepLeg (m : Loam) (i : ElemIx) (st : PathStep) (l : Leg) : Bool :=
  l.1 == st.exit.toNat && (!((m.elem i).ty == tyPnt || ((m.elem i).ty == tyXng && (m.elem i).field)) || l.2 == st.pos.toNat)

/-! ### The element conditions (R116, R117) -/

/-- The FAIL code of a condition by the role in which it arose (R117). -/
def roleFail (role : TrailRole) (f : Nat) : Nat :=
  match role with
  | .overlap => 5
  | .ovl => 5
  | .flank => 4
  | .path => f

/-- FAIL for a condition of STATUS, by type. -/
def statusFail (t : Nat) : Nat := if t = tyTrk then 2 else if t = tyPnt ∨ t = tyXng then 3 else 1

/-- An orphan met by a wave is cleared within the same step (R116). -/
def meetOrphan (c : Ctx) (m : Loam) (x : LaneSt) (i : ElemIx) : LaneSt := if isOrphan c x i then clearOrphan c m x i else x

/-- The rows of the element conditions below the first, in their order. -/
def conditions (c : Ctx) (m : Loam) (x : LaneSt) (w : Wave) (role : TrailRole) (i : ElemIx) (opposing : Bool) : Meet :=
  let t := (m.elem i).ty
  match claimOf c x i with
  | 0 =>
    if wfld c x i 21 1 = 1 then .refused (roleFail role 1)
    else if statusOf c x i = 0 then .refused (roleFail role (statusFail t))
    else if statusOf c x i = 1 then .waitable (roleFail role (statusFail t))
    else if t = tyTrk ∧ clearOf c x i = false then .waitable (roleFail role 2)
    else if opposing ∧ (wfld c x i 7 4 ≠ 0 ∨ wfld c x i 3 4 ≠ 0) then .waitable (roleFail role 1)
    else .ok
  | 1 =>
    match waveOf x (tagOf c x i) with
    | none => .ok
    | some o =>
      match o.st with
      | .retreating => .wait
      | .searching => if older w o then .order o.num else .yield
      | _ => .waitable (roleFail role 1)
  | _ => .waitable (roleFail role 1)

/-! ### The search -/

/-- A wave restarts from its entry signal (R108). -/
def restartWave (w : Wave) (entry : ElemIx) : Wave :=
  { w with st := .searching, fail := 0, failElem := none, trail := [], part := .path, here := entry, inPort := 0, dirUp := true,
           stepNo := 0, fwd := 0, flanks := [], retreat := .retry, committed := 0 }

/-- Whether a wave is in its overlap. -/
def inOverlap (w : Wave) : Bool := match w.part with | .path => false | _ => true

/-- The overlap end that is searched for: 1 or 2 as a port of the OVL element. -/
def endPort (w : Wave) : Nat := match w.part with | .overlap true => 2 | .ovl true => 2 | _ => 1

/-- A choice point with an untried leg (R118); the legs of the path are left untried only in a free search. -/
def choiceAt (e : TrailEntry) : Bool := e.untried.isSome

/-- A choice point of the overlap with an untried leg. -/
def overlapChoice (e : TrailEntry) : Bool := e.untried.isSome && e.role == .overlap

/-- The wave's next element: the neighbour at a port of an element, with the port it is entered by. -/
def goOn (m : Loam) (w : Wave) (i : ElemIx) (p : Nat) : Wave :=
  { w with here := nbrIx ((m.elem i).port p), inPort := BitVec.ofNat 2 (nbrFar ((m.elem i).port p)) }

/-- The last entry of a trail replaced. -/
def mapLast (w : Wave) (f : TrailEntry → TrailEntry) : Wave :=
  match w.trail.getLast? with
  | none => w
  | some e => { w with trail := w.trail.dropLast ++ [f e] }

/-- A free search backtracks: at a choice point the untried leg is taken; otherwise the wave gives back its last entry in its next step (R118). A leg whose flank chain is too long is refused at once. -/
def retake (m : Loam) (w : Wave) (e : TrailEntry) : Wave × Bool :=
  let p := (e.untried.getD 0).toNat
  let v := { mapLast w (fun e => { e with exit := BitVec.ofNat 2 p, pos := BitVec.ofNat 2 p, untried := none }) with
             st := .searching, part := (if e.role = .path then .path else match w.part with | .ovl a => .overlap a | q => q) }
  match demandOf m e.elem p with
  | none => (noteFail v 4 e.elem, false)
  | some fl => (goOn m { v with flanks := fl.map fun k => (k.1, BitVec.ofNat 2 k.2) } e.elem p, true)

/-- The search towards the alternative overlap end begins at the exit signal's port 1 (R120, item 3). -/
def alternative (m : Loam) (x : LaneSt) (w : Wave) : Wave :=
  goOn m { w with st := .searching, part := .overlap true, flanks := [] } (rowOf m x w.rte).exit 1

/-- Whether a retreat of a wave has reached its goal with the trail as it stands. -/
def goalReached (w : Wave) : Bool :=
  match w.retreat with
  | .backtrack => w.trail.isEmpty || (w.trail.getLast?.map choiceAt).getD false
  | .altOverlap => !w.trail.any fun e => e.role == .overlap
  | _ => w.trail.isEmpty

/-- What a wave does after a refusal, in this order: the next leg of its overlap, the alternative overlap end, in a free search the next leg of its path, a retry, or the end of the attempt (R116, R118, R120). Where the OVL element itself is refused or waitable after end 1 has been reserved, the overlap attempt counts as refused, and OVL port 2 is tried (DESIGN CHOICE, log 76: R120 speaks of the search for the end). -/
def afterRefusal (m : Loam) (x : LaneSt) (w : Wave) (waitable : Bool) : RetreatFor :=
  let r := rowOf m x w.rte
  if !waitable && (inOverlap w) && w.trail.any overlapChoice then .backtrack
  else if (inOverlap w) && w.altok && (endPort w) == 1 && (match r.overlap with | some o => nbrPresent ((m.elem o).port 2) | none => false) then .altOverlap
  else if !waitable && r.kind == 1 && w.trail.any choiceAt then .backtrack
  else if waitable && w.wait then .retry
  else .ending w.fail

/-- A backtrack or a change of overlap whose goal is reached goes on at once; a leg that is refused leads to the next retreat, which counts as one (R142). -/
def resume (c : Ctx) (m : Loam) : Nat → LaneSt → Wave → LaneSt
  | 0, x, w => x.setWave w
  | n + 1, x, w =>
    if goalReached w then
      match w.retreat, w.trail.getLast? with
      | .backtrack, some e =>
        match retake m w e with
        | (v, true) => x.setWave v
        | (v, false) =>
          match afterRefusal m x v false with
          | .backtrack => resume c m n (begunRetreat x) { v with st := .retreating, retreat := .backtrack }
          | .altOverlap => resume c m n (begunRetreat x) { v with st := .retreating, retreat := .altOverlap }
          | why => retreat c m x v why
      | .altOverlap, _ =>
        let v := alternative m x w
        let e := (rowOf m x w.rte).exit
        if portOk m e 1 (some !w.dirUp) then x.setWave v
        else
          let u := noteFail v 5 e
          match afterRefusal m x u false with
          | .backtrack => resume c m n (begunRetreat x) { u with st := .retreating, retreat := .backtrack }
          | .altOverlap => x.setWave u
          | why => retreat c m x u why
      | _, _ => settle c m x w
    else x.setWave w

/-- A retreat of any kind begins (R118, R120, R123). -/
def beginRetreat (c : Ctx) (m : Loam) (x : LaneSt) (w : Wave) (why : RetreatFor) : LaneSt :=
  match why with
  | .backtrack => resume c m 1025 (begunRetreat x) { w with st := .retreating, retreat := .backtrack, flanks := [] }
  | .altOverlap => resume c m 1025 (begunRetreat x) { w with st := .retreating, retreat := .altOverlap, flanks := [] }
  | _ => retreat c m x w why

/-- A refused or waitable condition at an element. -/
def refuse (c : Ctx) (m : Loam) (x : LaneSt) (w : Wave) (waitable : Bool) (fail : Nat) (i : ElemIx) : LaneSt :=
  let v := noteFail w fail i
  beginRetreat c m x v (afterRefusal m x v waitable)

/-- An outcome of R116 other than a reservation. -/
def meetOutcome (c : Ctx) (m : Loam) (x : LaneSt) (w : Wave) (i : ElemIx) : Meet → LaneSt
  | .ok => x
  | .wait => x.setWave w
  | .order n => match waveOf (x.setWave w) n.toNat with
    | some o => retreat c m (x.setWave w) o .retry
    | none => x.setWave w
  | .yield => retreat c m x w .retry
  | .refused f => refuse c m x w false f i
  | .waitable f => refuse c m x w true f i

/-- An element is reserved, with its trail entry in the same step (R116, R125). -/
def reserve (c : Ctx) (m : Loam) (x : LaneSt) (w : Wave) (e : TrailEntry) : LaneSt × Wave :=
  (ctlSet c m x e.elem [(19, 2, 1), (11, 8, w.num.toNat)], { w with trail := w.trail ++ [e] })

/-- The attempt is complete: the wave enters LOCKING (R120). -/
def toLocking (c : Ctx) (m : Loam) (x : LaneSt) (w : Wave) : LaneSt :=
  ctlSet c m (x.setWave { w with st := .locking, committed := 0, flanks := [] }) w.rte [(7, 4, 2)]

/-- Arrival at the exit signal: the path ends, and the overlap is next where the row names one (R120). -/
def arrive (c : Ctx) (m : Loam) (x : LaneSt) (w : Wave) : LaneSt :=
  let r := rowOf m x w.rte
  match r.overlap with
  | none => toLocking c m x w
  | some _ =>
    let v := goOn m { w with part := .overlap false } r.exit 1
    if portOk m r.exit 1 (some !w.dirUp) then x.setWave v else refuse c m x v false 5 r.exit

/-- The trail entries of a role. -/
def countRole (w : Wave) (role : TrailRole) : Nat := (w.trail.filter fun e => e.role == role).length

/-- One more forward step of a free search (R118). -/
def forward (w : Wave) (free : Bool) : Wave := if free then { w with fwd := w.fwd + 1 } else w

/-- An element passes the conditions and is reserved, with its flank demand (R116, R122, R126). A point whose demand is too long a chain is refused once it is reserved, so that a free search goes on by its other leg. -/
def advance (c : Ctx) (m : Loam) (x : LaneSt) (w : Wave) (legs : List Leg) (isEnd choice : Bool) : LaneSt :=
  let leg := legs.headD (0, 0)
  let i := w.here
  let role := if (inOverlap w) then TrailRole.overlap else .path
  let demand := if (m.elem i).ty = tyPnt then demandOf m i leg.2 else some []
  let untried := if choice && !isEnd then (legs[1]?).map fun l => BitVec.ofNat 2 l.1 else none
  let first := w.trail.isEmpty
  let r := reserve c m x { w with dirUp := if first then !nbrDown ((m.elem i).port 1) else w.dirUp, stepNo := w.stepNo + 1 }
    { elem := i, exit := BitVec.ofNat 2 leg.1, pos := BitVec.ofNat 2 leg.2, role := role, shared := false, inPort := w.inPort, untried := untried }
  match demand with
  | none => refuse c m r.1 r.2 false 4 i
  | some fl =>
    let v := { r.2 with flanks := fl.map fun k => (k.1, BitVec.ofNat 2 k.2) }
    r.1.setWave (if isEnd then { v with part := (match v.part with | .overlap a => .ovl a | p => p) } else goOn m v i leg.1)

/-- The legs open to a wave at its element: the table's, by ports that R115 allows; the overlap end is passed by its port whether or not the search could go on (R126). -/
def openLegs (c : Ctx) (m : Loam) (x : LaneSt) (w : Wave) (isEnd : Bool) : List Leg :=
  let entered := if w.trail.isEmpty then none else some w.inPort.toNat
  let l := legsOf c m x w.here entered
  if isEnd then l.take 1 else l.filter fun g => portOk m w.here g.1 (if w.trail.isEmpty then none else some !w.dirUp)

/-- The role in which a wave examines its next element. -/
def stepRole (w : Wave) : TrailRole := if inOverlap w then .overlap else .path

/-- The first row of the conditions fails: no leg is open, the path or overlap limit or the trail is full, or the element is in the trail already (R115, R118, R120). -/
def blockedRow (m : Loam) (x : LaneSt) (w : Wave) (legs : List Leg) : Bool :=
  let r := rowOf m x w.rte
  let full := if inOverlap w then 32 ≤ countRole w .overlap else r.kind == 1 && r.pathLen ≤ countRole w .path
  legs.isEmpty || full || 1024 ≤ w.trail.length || w.trail.any fun e => e.elem == w.here

/-- What the wave meets at its next element (R116). -/
def meetHere (c : Ctx) (m : Loam) (x : LaneSt) (w : Wave) : Meet :=
  conditions c m (meetOrphan c m x w.here) w (stepRole w) w.here ((m.elem w.here).ty == tySig && !w.trail.isEmpty)

/-- The wave waits in place at its next element, which takes no forward step (R109, R116). -/
def waitsHere (c : Ctx) (m : Loam) (x : LaneSt) (w : Wave) (legs : List Leg) : Bool :=
  !blockedRow m x w legs && (match meetHere c m x w with | .wait => true | .order _ => true | _ => false)

/-- Examining an element in a forward step (R116), with the legs the wave may take. -/
def examine (c : Ctx) (m : Loam) (x : LaneSt) (w0 : Wave) (legs : List Leg) (isEnd : Bool) : LaneSt :=
  let free := (rowOf m x w0.rte).kind == 1
  let i := w0.here
  let role := stepRole w0
  let y := meetOrphan c m x i
  let out := meetHere c m x w0
  let row1 := blockedRow m x w0 legs
  let w := if waitsHere c m x w0 legs then w0 else forward w0 free
  if x.set.searchmax < w.fwd then retreat c m x w (.ending 6)
  else if row1 then refuse c m x w false (roleFail role 1) i
  else
    match out with
    | .ok => advance c m y w legs isEnd (free || (inOverlap w))
    | o => meetOutcome c m y w i o

/-- A forward step on the path of a predefined route (R119). An element reached after the last step that is not the exit, or not by its port 0, raises source 88 as a step that names another element does (DESIGN CHOICE: R119 names the source for such a step only; log 67). -/
def stepPredefined (c : Ctx) (m : Loam) (x : LaneSt) (w : Wave) : LaneSt :=
  let r := rowOf m x w.rte
  if r.pathLen ≤ w.stepNo then
    if w.here = r.exit ∧ w.inPort = 0 then arrive c m x w else refuse c m (x.source 88) w false 1 w.here
  else
    match pathStep m r w.stepNo with
    | some st =>
      if st.elem = w.here ∧ (w.stepNo = 0 → st.exit = 1) then examine c m x w ((openLegs c m x w false).filter (stepLeg m w.here st)) false
      else refuse c m (x.source 88) w false 1 w.here
    | none => refuse c m (x.source 88) w false 1 w.here

/-- A forward step on the path of a free search (R115, R118). -/
def stepFree (c : Ctx) (m : Loam) (x : LaneSt) (w : Wave) : LaneSt :=
  if !w.trail.isEmpty && w.here == (rowOf m x w.rte).exit && w.inPort == 0 then arrive c m x w
  else examine c m x w (openLegs c m x w false) false

/-- The overlap end that a wave searches for. -/
def overlapEnd (m : Loam) (x : LaneSt) (w : Wave) : ElemIx := ((rowOf m x w.rte).overlap.map fun o => nbrIx ((m.elem o).port (endPort w))).getD 0

/-- The next action of a wave of a free search is a forward step, and no arrival, flank claim, reservation of the OVL element or wait in place (R109). -/
def stepsNext (c : Ctx) (m : Loam) (x : LaneSt) (w : Wave) : Bool :=
  w.flanks.isEmpty && match w.part with
  | .ovl _ => false
  | .overlap _ => !waitsHere c m x w (openLegs c m x w (w.here == overlapEnd m x w))
  | .path => !(!w.trail.isEmpty && w.here == (rowOf m x w.rte).exit && w.inPort == 0) && !waitsHere c m x w (openLegs c m x w false)

/-- A forward step in the overlap (R120). -/
def stepOverlap (c : Ctx) (m : Loam) (x : LaneSt) (w : Wave) : LaneSt :=
  let tgt := overlapEnd m x w
  examine c m x w (openLegs c m x w (w.here == tgt)) (w.here == tgt)

/-- The OVL element itself is reserved, with the end that was used, and the attempt is complete (R120, item 4). -/
def stepOvl (c : Ctx) (m : Loam) (x : LaneSt) (w : Wave) : LaneSt :=
  let o := ((rowOf m x w.rte).overlap).getD 0
  if 1024 ≤ w.trail.length || w.trail.any (fun e => e.elem == o) then refuse c m x w false 5 o
  else
    let y := meetOrphan c m x o
    match conditions c m y w .ovl o false with
    | .ok =>
      let r := reserve c m y w { elem := o, exit := BitVec.ofNat 2 (endPort w), pos := 0, role := .ovl, shared := false, inPort := 0, untried := none }
      toLocking c m r.1 r.2
    | out => meetOutcome c m y w o out

/-- One flank claim (R122). A member signal that shows an aspect is judged as an opposing signal is, since its flank position is aspect 0 (DESIGN CHOICE: R122 refers to R116, which names opposing signals only; log 67). -/
def stepFlank (c : Ctx) (m : Loam) (x : LaneSt) (w : Wave) (i : ElemIx) (pos : Nat) (rest : List (ElemIx × BitVec 2)) : LaneSt :=
  let entry (shared : Bool) : TrailEntry :=
    { elem := i, exit := 0, pos := BitVec.ofNat 2 pos, role := .flank, shared := shared, inPort := 0, untried := none }
  match w.trail.find? fun e => e.elem == i with
  | some e => if e.pos = 0 ∨ e.pos.toNat = pos then x.setWave { w with flanks := rest } else refuse c m x w false 4 i
  | none =>
    if 1024 ≤ w.trail.length then refuse c m x w false 4 i
    else if claimOf c x i = 3 then
      if tagOf c x i < 255 then
        (ctlSet c m x i [(11, 8, tagOf c x i + 1)]).setWave { w with trail := w.trail ++ [entry true], flanks := rest }
      else refuse c m x w true 4 i
    else
      let y := meetOrphan c m x i
      match conditions c m y w .flank i ((m.elem i).ty == tySig) with
      | .ok => let r := reserve c m y w (entry false); r.1.setWave { r.2 with flanks := rest }
      | out => meetOutcome c m y w i out

/-! ### Locking (R126) -/

/-- The fields that the commit of a trail entry writes. -/
def commitFields (m : Loam) (e : TrailEntry) : List (Nat × Nat × Nat) :=
  let t := (m.elem e.elem).ty
  let pos := e.pos.toNat
  match e.role with
  | .flank => [(19, 2, 3), (11, 8, 1)] ++ (if t = tyPnt then [(7, 2, pos), (0, 7, 0)] else if t = tyFlk then [(9, 1, 1)] else [])
  | .ovl => [(19, 2, 2), (11, 8, e.exit.toNat), (9, 2, 1), (8, 1, if e.exit = 2 then 1 else 0)]
  | _ => [(19, 2, 2), (11, 8, e.exit.toNat)] ++
    (if t = tyPnt then [(7, 2, pos), (0, 7, 0)] else if t = tyXng ∧ (m.elem e.elem).field then [(7, 2, pos), (0, 5, 0), (5, 1, 1)] else [])

/-- The last entry has been committed: the route stands, or is released whole where a cancel is pending. That release visits each element in a step, as any release does (DESIGN CHOICE, log 76: R109 counts the walks of items and requests, and names none within a commit). -/
def lockDone (c : Ctx) (m : Loam) (x : LaneSt) (w : Wave) : LaneSt :=
  let y := (x.freeWave w.num).tally fun r => { r with lockCnt := r.lockCnt + 1 }
  if w.cancel then
    let z := ctlSet c m (releaseRoute c m y w.rte) w.rte [(3, 4, 7)]
    unset w 7 none (z.answerWave c w stCancelled (routeResult w.rte 0 7 none))
  else (ctlSet c m y w.rte [(7, 4, 3), (11, 8, 0)]).answerWave c w stAccepted (routeResult w.rte 3 0 none)

/-- One step of a LOCKING wave. -/
def stepLock (c : Ctx) (m : Loam) (x : LaneSt) (w : Wave) : LaneSt :=
  match w.trail[w.committed]? with
  | none => lockDone c m x w
  | some e =>
    let v := { w with committed := w.committed + 1 }
    let y := (if e.shared then x else ctlSet c m x e.elem (commitFields m e)).setWave v
    if v.committed < w.trail.length then y else lockDone c m y v

/-- One step of a RETREATING wave: the last entry is given back (R123). -/
def stepBack (c : Ctx) (m : Loam) (x : LaneSt) (w : Wave) : LaneSt :=
  match w.trail.getLast? with
  | none => resume c m 1025 x w
  | some e => resume c m 1025 (giveBack c m x e) { w with trail := w.trail.dropLast }

/-- One step of a wave (R108, R109). -/
def waveStep (c : Ctx) (m : Loam) (x : LaneSt) (w : Wave) : LaneSt :=
  let y := x.took 1
  match w.st, w.flanks, w.part with
  | .paused, _, _ => x
  | .retreating, _, _ => stepBack c m y w
  | .locking, _, _ => stepLock c m y w
  | .searching, f :: rest, _ => stepFlank c m (ctlLoad c m y f.1) w f.1 f.2.toNat rest
  | .searching, [], .ovl _ => stepOvl c m (ctlLoads c m y (rowOf m x w.rte).overlap.toList) w
  | .searching, [], .overlap _ => stepOverlap c m (ctlLoad c m y w.here) w
  | .searching, [], .path =>
    let z := ctlLoad c m y w.here
    if (rowOf m x w.rte).kind = 1 then stepFree c m z w else stepPredefined c m z w

/-! ### The passes (R108, R110, R124) -/

/-- A wave that can take a step. -/
def live (w : Wave) : Bool := w.st != .paused

/-- A wave that has not entered LOCKING by its life's end ends with FAIL 0x6, unless it is ending already (R124). -/
def expireWave (c : Ctx) (m : Loam) (x : LaneSt) (w : Wave) : LaneSt :=
  let ending := w.st == .retreating && (match w.retreat with | .ending _ => true | _ => false)
  if w.st != .locking && !ending && x.set.wavelife ≤ c.cycle - w.accepted then retreat c m x w (.ending 6) else x

/-- The waves in order of age, oldest first. -/
def byAge (l : List Wave) : List Wave := sortBy (fun v w => older v w || v.age == w.age) l

/-- Before the first pass: waves at the end of their lives, then the restart of the PAUSED ones. -/
def startPasses (c : Ctx) (m : Loam) (x : LaneSt) : LaneSt :=
  let y := x.reg.waves.foldl (expireWave c m) x
  { y with reg := { y.reg with waves := y.reg.waves.map fun w => if w.st = .paused then restartWave w (rowOf m y w.rte).entry else w } }

/-- One pass: every wave that can takes one step, oldest first, while the total is below WSTEPS. -/
def onePass (c : Ctx) (m : Loam) (x : LaneSt) : LaneSt :=
  (byAge (x.reg.waves.filter live)).foldl (fun y v =>
    match waveOf y v.num.toNat with
    | some w => if live w && w.rte == v.rte && y.rpt.steps < y.set.wsteps && y.cx.isNone then waveStep c m y w else y
    | none => y) x

/-- Passes until the budget is reached or a whole pass takes no step. -/
def passes (c : Ctx) (m : Loam) : Nat → LaneSt → LaneSt
  | 0, x => x
  | n + 1, x =>
    if x.set.wsteps ≤ x.rpt.steps || !x.reg.waves.any live || x.cx.isSome then x
    else passes c m n (onePass c m x)

/-- The stage's end: EXH and source 84 where the budget was reached with a wave step left to take (R110). -/
def endStage (x : LaneSt) : LaneSt :=
  let exh := x.set.wsteps ≤ x.rpt.steps && x.reg.waves.any live
  let y := x.tally fun r => { r with staged := true, exh := exh, active := x.reg.waves.length }
  if exh then y.source 84 else y

/-- Item 3 of the wave stage. -/
def wavePasses (c : Ctx) (m : Loam) (x : LaneSt) : LaneSt :=
  if x.set.wsteps ≤ x.rpt.steps then endStage x else endStage (passes c m x.set.wsteps (startPasses c m x))

/-! ### The request (R113, R114) -/

/-- A ROUTE_SET becomes a wave: the lowest FREE record, the next age, RSTATE SEARCHING (R114). -/
def acceptRoute (c : Ctx) (m : Loam) (x : LaneSt) (q : Req) (n : Nat) : LaneSt :=
  let rte := reqIndex q
  let w : Wave :=
    { num := BitVec.ofNat 8 n, st := .searching, rte := rte, age := x.reg.ageCtr, accepted := c.cycle, wait := bitOf (reqArg q 24 2) 0,
      altok := bitOf (reqArg q 24 2) 1, cancel := false, fail := 0, failElem := none, trail := [], part := .path, here := (rowOf m x rte).entry,
      inPort := 0, dirUp := true, stepNo := 0, fwd := 0, flanks := [], retreat := .retry, committed := 0, req := q, copied := false }
  let y := { x with reg := { x.reg with waves := x.reg.waves ++ [w], ageCtr := x.reg.ageCtr + 1 } }
  (ctlSet c m y rte [(7, 4, 1), (11, 8, n), (3, 4, 0)]).tally fun r => { r with setCnt := r.setCnt + 1 }

end Sys2Proof.Machine
end

