-- ==== Sys2Proof/Machine/Commands.lean ====
section
/-! DEFINITION. The requests that the lanes carry out on their element words: the route-engine requests (R113, R132, R137, R138), PARAM_PROPOSE and PARAM_CONFIRM (R165 to R171), and ELEMENT_READ (R249). Each is one function of a lane. -/

namespace Sys2Proof.Machine

/-! ### Authority (R51, R92) -/

/-- Whether a key of the Loam image gives an authority now: IN, INPREV, VALID and VPREV are 1 after its first step of a cycle of LOGIC that followed another (R51, R92). -/
def keyAuthority (c : Ctx) (m : Loam) (x : LaneSt) (of : KeyRow → Bool) : Bool :=
  x.logicPrev && m.keymap.any fun k => of k && x.stepped.contains k.key &&
    wfld c x k.key 16 3 == 7 && wfld c x k.key 13 1 == 1

/-- The KEY words that an authority is read from, each load checked (R181). -/
def keyLoads (c : Ctx) (m : Loam) (x : LaneSt) : LaneSt := ctlLoads c m x (m.keymap.map (·.key))

/-! ### The checks that come first -/

/-- The index of a request lies at or above ELEMCOUNT; with no image it is not judged (R493). -/
def indexBad (c : Ctx) (q : Req) : Bool :=
  match c.loam with
  | none => false
  | some m => m.elems.length ≤ reqIndex q

/-- The checks of R138, items 1 and 2, with R238 before them and R50, R359 with them: the status of the first that fails. A module that stands by refuses the request, and in recovery it is refused too (R421). -/
def firstChecks (c : Ctx) (op : BitVec 16) (q : Req) : Option Nat :=
  if malformed op q || indexBad c q then some stMalformed
  else if q.maint then some stPort
  else if c.recovery then some stState
  else if c.loam.isNone || !c.level.serves then some stLevel
  else if c.standby then some stState
  else none

/-- A route-engine completion that shows the named element: RSTATE and FAIL of a route element, 0 for any other (R139). -/
def answerElem (c : Ctx) (op : BitVec 16) (q : Req) (status : Nat) (first : Option ElemIx) (x : LaneSt) : LaneSt :=
  let i := reqIndex q
  let rte := match c.loam with | some m => decide (i < m.elems.length) && (m.elem i).ty == tyRte | none => false
  x.answer c op q status (routeResult i (if rte then rstateOf c x i else 0) (if rte then wfld c x i 3 4 else 0) first)

/-- Executing a request takes one step (R109), except that one which R238 turns away has no effect but its completion (R7); one that passes the first checks is carried out on the image's elements, any other completes. -/
def onElement (c : Ctx) (op : BitVec 16) (q : Req) (x : LaneSt) (f : Loam → LaneSt → LaneSt) : LaneSt :=
  let y := if malformed op q then x else x.took 1
  match firstChecks c op q, c.loam with
  | none, some m => f m (ctlLoad c m y (reqIndex q))
  | some st, _ => answerElem c op q st none y
  | none, none => answerElem c op q stLevel none y

/-! ### ROUTE_SET (R113, R114, R127) -/

/-- The row of a route element names signals at both ends and a kind that is not reserved (R113). -/
def rowOk (m : Loam) (x : LaneSt) (rte : ElemIx) : Bool :=
  let r := rowOf m x rte
  (m.elem r.entry).ty == tySig && (m.elem r.exit).ty == tySig && r.kind.toNat ≤ 1

/-- A re-clear: the proving conditions are checked while the request is executed (R127). -/
def reclear (c : Ctx) (m : Loam) (q : Req) (x : LaneSt) : LaneSt :=
  let rte := reqIndex q
  let r := routeChains c m x rte
  let y := ctlLoads c m r.1 (provingLoads c m r.1 rte (r.2.1 ++ r.2.2))
  match provingFail c m y rte r.2.1 r.2.2 with
  | none => answerElem c opRouteSet q stDone none (clearSignal c m y rte (r.2.1 ++ r.2.2))
  | some i => answerElem c opRouteSet q stConflict (some i) y

/-- ROUTE_SET (R113): the checks in their order, then a new wave or a re-clear. -/
def routeSet (c : Ctx) (q : Req) (x : LaneSt) : LaneSt :=
  onElement c opRouteSet q x fun m y =>
    let rte := reqIndex q
    let rs := rstateOf c y rte
    let again := rs == 5 && wfld c y rte 2 1 == 1
    if (m.elem rte).ty != tyRte || !rowOk m y rte || !(rs == 0 || again) then answerElem c opRouteSet q stState none y
    else match freeRecord y with
      | none => answerElem c opRouteSet q stBusy none y
      | some n => if again then reclear c m q y else acceptRoute c m y q n

/-! ### ROUTE_CANCEL (R132) -/

/-- The approach timer starts, and the route waits for it with its signal restored (R132). -/
def timedRelease (c : Ctx) (m : Loam) (x : LaneSt) (rte : ElemIx) : LaneSt :=
  startTimer c m (ctlSet c m (restore c m x (rowOf m x rte).entry) rte [(7, 4, 8)]) (timerOf m rte)

/-- The wave of a route. -/
def waveFor (x : LaneSt) (rte : ElemIx) : Option Wave := x.reg.waves.find? fun w => w.rte == rte

/-- A cancel meets the route's wave: a LOCKING wave takes the cancel-pending bit, one that is ending keeps its cause, any other ends with FAIL 0x7 (R124, R132). -/
def cancelWave (c : Ctx) (m : Loam) (x : LaneSt) (w : Wave) : LaneSt :=
  if w.st = .locking then x.setWave { w with cancel := true }
  else match w.st, w.retreat with
    | .retreating, .ending _ => x
    | _, _ => retreat c m x w (.ending 7)

/-- ROUTE_CANCEL (R132). An element that is not a route completes with REJECTED_STATE (DESIGN CHOICE: R132 and R138 give no status for it; log 67). -/
def routeCancel (c : Ctx) (q : Req) (x : LaneSt) : LaneSt :=
  onElement c opRouteCancel q x fun m y =>
    let rte := reqIndex q
    let rs := rstateOf c y rte
    let done (z : LaneSt) := answerElem c opRouteCancel q stDone none z
    if (m.elem rte).ty != tyRte then answerElem c opRouteCancel q stState none y
    else if rs == 1 || rs == 2 then
      match waveFor y rte with
      | some w => done (cancelWave c m y w)
      | none => done y
    else if rs == 3 || rs == 4 || (rs == 5 && wfld c y rte 2 1 == 0) then done (releaseRoute c m y rte)
    else if rs == 5 || rs == 6 then done (timedRelease c m y rte)
    else answerElem c opRouteCancel q stState none y

/-! ### ROUTE_RELEASE_EMERGENCY (R137) -/

/-- Counts and sources of an accepted emergency release. -/
def emergencyTaken (x : LaneSt) : LaneSt := (x.tally fun r => { r with erelCnt := r.erelCnt + 1 }).source 86

/-- An emergency release of a route: the approach timer starts unless it already runs in RELEASING_TIMED (R137). -/
def emergencyRoute (c : Ctx) (m : Loam) (x : LaneSt) (rte : ElemIx) : LaneSt :=
  let runs := rstateOf c x rte == 8 && (match timerOf m rte with | some t => wfld c x t 17 2 == 1 | none => false)
  let y := restore c m x (rowOf m x rte).entry
  let z := if runs then y else startTimer c m y (timerOf m rte)
  emergencyTaken (ctlSet c m z rte [(7, 4, 9)])

/-- ROUTE_RELEASE_EMERGENCY (R137, R138). -/
def routeEmergency (c : Ctx) (q : Req) (x : LaneSt) : LaneSt :=
  onElement c opEmergency q x fun m y0 =>
    let i := reqIndex q
    let y := ctlLoads c m (keyLoads c m y0) (if (m.elem i).ty = tyRte then (timerOf m i).toList else chainLoads c m y0 i)
    if !keyAuthority c m y (·.erelease) then answerElem c opEmergency q stPort none y
    else if (m.elem i).ty == tyRte then
      if 3 ≤ rstateOf c y i && rstateOf c y i ≤ 8 then answerElem c opEmergency q stDone none (emergencyRoute c m y i)
      else answerElem c opEmergency q stState none y
    else if (rearPort c m y i).isSome && !isEntry c m y i && (precursor c m y i).isNone then
      let r := chainFrom c m y i
      answerElem c opEmergency q stDone none ((emergencyTaken (releaseAll c m r.1 r.2)).source 87)
    else answerElem c opEmergency q stState none y

/-! ### The other element commands (R138) -/

/-- POINT_MOVE: CMD is written, with the movement time, where STATUS is PROVEN and CLAIM is FREE. -/
def pointMove (c : Ctx) (q : Req) (x : LaneSt) : LaneSt :=
  onElement c opPointMove q x fun m y =>
    let i := reqIndex q
    let e := m.elem i
    if !(e.field && (e.ty == tyPnt || e.ty == tyXng)) then answerElem c opPointMove q stState none y
    else if claimOf c y i != 0 then answerElem c opPointMove q stConflict none y
    else if statusOf c y i != 3 then answerElem c opPointMove q stState none y
    else answerElem c opPointMove q stAccepted none (ctlSet c m y i [(7, 2, reqArg q 24 1), (0, if e.ty = tyPnt then 7 else 5, 0)])

/-- SIGNAL_RESTORE: RESTQ is set. -/
def signalRestore (c : Ctx) (q : Req) (x : LaneSt) : LaneSt :=
  onElement c opRestore q x fun m y =>
    if (m.elem (reqIndex q)).ty == tySig then answerElem c opRestore q stDone none (restore c m y (reqIndex q))
    else answerElem c opRestore q stState none y

/-- The counters that a fault clear resets, by type (R83). -/
def faultCounter : Nat → List (Nat × Nat × Nat)
  | 1 => [(3, 4, 0)]
  | 2 => [(0, 7, 0)]
  | 3 => [(0, 2, 0)]
  | 4 => [(0, 5, 0)]
  | _ => []

/-- The fields that a clear writes: SWP of a track section that awaits a sweep, and STATUS UNPROVEN with the type's counter where the element is FAULTED (R83, R138). -/
def clearFields (c : Ctx) (m : Loam) (x : LaneSt) (i : ElemIx) : List (Nat × Nat × Nat) :=
  let t := (m.elem i).ty
  (if t = tyTrk ∧ wfld c x i 9 1 = 1 then [(9, 1, 0)] else []) ++ (if statusOf c x i = 0 then [(22, 2, 1)] ++ faultCounter t else [])

/-- ELEMENT_BLOCK (R138): unblock, block, or clear with key authority. -/
def elementBlock (c : Ctx) (q : Req) (x : LaneSt) : LaneSt :=
  onElement c opBlock q x fun m y0 =>
    let i := reqIndex q
    let act := reqArg q 24 1
    let y := if act = 2 then keyLoads c m y0 else y0
    if act == 2 && !keyAuthority c m y (·.reset) then answerElem c opBlock q stPort none y
    else if (m.elem i).ty == tyNone then answerElem c opBlock q stState none y
    else if act == 2 then
      if (clearFields c m y i).isEmpty then answerElem c opBlock q stState none y
      else answerElem c opBlock q stDone none (ctlSet c m y i (clearFields c m y i))
    else answerElem c opBlock q stDone none (ctlSet c m y i [(21, 1, act)])

/-! ### Changing values in service (R165 to R171) -/

/-- The bits of PARAM0 that a type defines, with CHG (R105). -/
def paramBits : Nat → Nat
  | 1 => 0x8000001F
  | 2 => 0x800003FF
  | 3 => 0x8000FFFF
  | 4 => 0x800000FF
  | 5 => 0x807FFFFF
  | 8 => 0x8003FFFF
  | _ => 0x80000000

/-- A value lies within the ranges of R105 for a type. -/
def paramRangeOk (t v : Nat) : Bool :=
  v &&& paramBits t == v &&
  match t with
  | 2 => 1 ≤ fld v 0 7 && fld v 7 3 ≤ 4
  | 3 => bitOf v 0
  | 4 => 1 ≤ fld v 0 5 && fld v 5 3 ≤ 4
  | 8 => 1 ≤ fld v 0 17
  | _ => true

/-- The field of PARAM0 that may change, by type (R166). -/
def changeField : Nat → Option (Nat × Nat)
  | 1 => some (0, 4)
  | 2 => some (0, 7)
  | 3 => some (0, 16)
  | 4 => some (0, 5)
  | 8 => some (0, 17)
  | _ => none

/-- A proposed value changes only the field of R166, keeps CHG, and permits no aspect that the static image clears. -/
def changeOk (t static v : Nat) : Bool :=
  bitOf static 31 &&
  match changeField t with
  | none => false
  | some (l, w) => putFld v l w 0 == putFld static l w 0 && (t != tySig || v &&& static == v)

/-- PARAM0 in force of a named element, 0 where there is none. -/
def inForce (c : Ctx) (x : LaneSt) (i : ElemIx) : Nat :=
  match c.loam with
  | none => 0
  | some m => if i < m.elems.length then paramOf m x i else 0

/-- The completion of PARAM_PROPOSE (R167). -/
def answerPropose (c : Ctx) (q : Req) (status ptag : Nat) (x : LaneSt) : LaneSt :=
  x.answer c opPropose q status (leBytes 4 (reqIndex q) ++ leBytes 4 (inForce c x (reqIndex q)) ++ leBytes 4 (reqArg q 24 4) ++ leBytes 2 ptag)

/-- PARAM_PROPOSE (R167): the checks in their order, then the proposal is open. -/
def paramPropose (c : Ctx) (q : Req) (x : LaneSt) : LaneSt :=
  let i := reqIndex q
  let v := reqArg q 24 4
  let bad := match c.loam with | some m => !paramRangeOk (m.elem i).ty v | none => false
  if malformed opPropose q || indexBad c q || bad then answerPropose c q stMalformed 0 x
  else if q.maint then answerPropose c q stPort 0 x
  else if c.recovery then answerPropose c q stState 0 x
  else match c.loam with
    | none => answerPropose c q stLevel 0 x
    | some m =>
      if c.level != .full then answerPropose c q stLevel 0 x
      else if c.standby || !changeOk (m.elem i).ty (m.elem i).param0.toNat v then answerPropose c q stState 0 x
      else if x.reg.proposal.isSome then answerPropose c q stBusy 0 x
      else if (assoc i x.reg.overrides).isNone && 4096 ≤ x.reg.overrides.length then answerPropose c q stState 0 x
      else
        let p : Proposal := { elem := i, value := BitVec.ofNat 32 v, ptag := BitVec.ofNat 16 c.cycle, cycle := c.cycle }
        answerPropose c q stAccepted (c.cycle % 65536) { x with reg := { x.reg with proposal := some p } }

/-- The completion of PARAM_CONFIRM (R168). -/
def answerConfirm (c : Ctx) (q : Req) (status : Nat) (x : LaneSt) : LaneSt :=
  x.answer c opConfirm q status
    (leBytes 4 (reqIndex q) ++ leBytes 4 (if status = stDone then reqArg q 24 4 else 0) ++ leBytes 4 0 ++ leBytes 2 (reqArg q 28 2))

/-- A confirm names a proposal's three values. -/
def names (q : Req) (p : Proposal) : Bool :=
  p.elem == reqIndex q && p.value.toNat == reqArg q 24 4 && p.ptag.toNat == reqArg q 28 2

/-- PARAM_CONFIRM (R168): the first item that matches decides. -/
def paramConfirm (c : Ctx) (q : Req) (x : LaneSt) : LaneSt :=
  let bad := match c.loam with | some m => !paramRangeOk (m.elem (reqIndex q)).ty (reqArg q 24 4) | none => false
  if malformed opConfirm q || indexBad c q || bad then answerConfirm c q stMalformed x
  else if q.maint then answerConfirm c q stPort x
  else if c.recovery then answerConfirm c q stState x
  else if c.loam.isNone || c.level != .full then answerConfirm c q stLevel x
  else if c.standby then answerConfirm c q stState x
  else match x.reg.proposal with
    | none => answerConfirm c q (if (x.reg.expired.map (names q)).getD false then stTimeout else stState) x
    | some p =>
      if p.cycle = c.cycle then answerConfirm c q stState x
      else if !names q p then answerConfirm c q stState { x with reg := { x.reg with proposal := none } }
      else answerConfirm c q stDone { x with reg := { x.reg with proposal := none, confirmed := some p } }

/-- A proposal still open after its window is discarded and becomes the expired-proposal record (R169). -/
def expireProposal (c : Ctx) (x : LaneSt) : LaneSt :=
  match x.reg.proposal with
  | none => x
  | some p => if p.cycle + x.set.window < c.cycle then { x with reg := { x.reg with proposal := none, expired := some p } } else x

/-- The adjustment that goes with a change (R166). -/
def adjustFields (t v : Nat) (w : Info) : List (Nat × Nat × Nat) :=
  match t with
  | 1 => [(3, 4, min (ifld w 3 4) (fld v 0 4))]
  | 2 => [(0, 7, min (ifld w 0 7) (fld v 0 7))]
  | 4 => [(0, 5, min (ifld w 0 5) (fld v 0 5))]
  | 3 => if bitOf v (ifld w 7 4) then [] else [(7, 4, 0)]
  | _ => []

/-- A change confirmed in the cycle before is applied: the override, the adjustment, and the mark (R170). -/
def applyConfirmed (c : Ctx) (m : Loam) (x : LaneSt) : LaneSt :=
  match x.reg.confirmed with
  | none => x
  | some p =>
    let y := { x with reg := { x.reg with confirmed := none, overrides := assocPutUp p.elem p.value x.reg.overrides } }
    ctlSet c m y p.elem (adjustFields (m.elem p.elem).ty p.value.toNat (infoOf c y p.elem))

/-! ### ELEMENT_READ (R249) -/

/-- A read entry: the information word with TYPE and FIELD, then PARAM0 in force. -/
def readEntry (c : Ctx) (m : Loam) (x : LaneSt) (i : ElemIx) : Bytes :=
  let e := m.elem i
  leBytes 4 ((infoOf c x i).toNat + e.ty * 2 ^ 24 + b2n e.field * 2 ^ 28) ++ leBytes 4 (paramOf m x i)

/-- ELEMENT_READ: the words as they stand, with the buffer words as agreed content (R246, R249). -/
def elementRead (c : Ctx) (q : Req) (x : LaneSt) : LaneSt :=
  let i := reqIndex q
  let n := reqArg q 24 2
  let result (e : Bytes) : Bytes := leBytes 4 i ++ padTo 8 e ++ leBytes 2 n
  if malformed opRead q then x.answer c opRead q stMalformed (result [])
  else if q.maint && c.lcs != 2 then x.answer c opRead q stPort (result [])
  else match c.loam with
    | none => x.answer c opRead q stState (result [])
    | some m =>
      if m.elems.length < i + n then x.answer c opRead q stMalformed (result [])
      else
        let y := (List.range n).foldl (fun y k => ctlLoad c m y (i + k)) x
        let es := (List.range n).flatMap fun k => readEntry c m y (i + k)
        y.complete { mkCmpl opRead q stDone c.cycle (result (es.take 8)) with data := if q.length = 0 then [] else es }

/-! ### The requests of the wave stage and of step 2 (R108, R152) -/

/-- A request that the lanes carry out on their words, by its opcode; others leave the lane as it is. -/
def laneRequest (c : Ctx) (op : BitVec 16) (q : Req) (x : LaneSt) : LaneSt :=
  match op.toNat with
  | 0x01 => routeSet c q x
  | 0x02 => routeCancel c q x
  | 0x03 => routeEmergency c q x
  | 0x04 => pointMove c q x
  | 0x05 => signalRestore c q x
  | 0x06 => elementRead c q x
  | 0x07 => elementBlock c q x
  | 0x10 => paramPropose c q x
  | 0x11 => paramConfirm c q x
  | _ => x

end Sys2Proof.Machine
end

