-- ==== Sys2Proof/Machine/Recorder.lean ====
section
/-! DEFINITION. Shale (R392 to R403): flushes to flash, the ring of erase blocks, the work of a management tick, the range of RECORD_READ, and the commands of the recorder. -/

namespace Sys2Proof.Machine

/-- A byte of erased Shale flash. -/
def flashByte (_ : Nat) : Byte := 0xFF

/-- The flash address of a record slot: 8,192 records of 32 bytes in each block (R399). -/
def slotAddr (block slot : Nat) : Nat := block * 262144 + slot * 32

/-- The block after a block in ring order, bad blocks skipped; the search is bounded by the number of blocks. -/
def nextBlock (bad : List Nat) : Nat → Nat → Nat
  | 0, b => b
  | n + 1, b => let k := (b + 1) % 256; if bad.contains k then nextBlock bad n k else k

/-- The block whose erase comes next: the one after the block being written, so that the next block is erased ahead and 254 full blocks stay (R399). -/
def eraseTarget (r : RecSt) : Nat := nextBlock r.bad 256 r.wblock

/-- The oldest record once blocks no longer hold records: the first of the oldest block left, or the next to be written. -/
def oldestOf (r : RecSt) (blocks : List (Nat × Word)) : Word :=
  match blocks with
  | [] => if r.buf.isEmpty then r.next else r.flushed + 1
  | (_, n) :: _ => n

/-- A block leaves the ring of blocks that hold records, and with it any older one, which a failed block may be. -/
def dropBlock (r : RecSt) (b : Nat) : RecSt :=
  if r.blocks.any fun x => x.1 == b then
    let left := (r.blocks.dropWhile fun x => x.1 != b).drop 1
    { r with flash := bytesErase r.flash (b * 262144) 262144, blocks := left, oldest := oldestOf r left }
  else r

/-- Writing goes on in the next block of the ring, which is erased by then, and the erase of the one after it is due. -/
def openBlock (r : RecSt) : RecSt :=
  let b := eraseTarget r
  { dropBlock r b with wblock := b, wslot := 0, eraseDue := true }

/-- One record is programmed into flash; a new block begins where the present one is full. -/
def programRecord (r : RecSt) (b : Bytes) : RecSt :=
  let r1 := if r.wslot < 8192 then r else openBlock r
  let no : Word := BitVec.ofNat 32 (leAt b 4 4)
  { r1 with
    flash := bytesPut flashByte r1.flash (slotAddr r1.wblock r1.wslot) b
    blocks := if r1.wslot = 0 then r1.blocks ++ [(r1.wblock, no)] else r1.blocks
    wslot := r1.wslot + 1
    flushed := no }

/-- A block that fails to program or to erase: FLUSHERR, and a record with its number (R399). -/
def blockFailed (s : State) (b : Nat) : State := (recEvent s 0).record 4 (openSev 4) 0x00 (leBytes 2 b)

/-- The counters that REC_CTRL.CLRCNT clears (R402). -/
def recClear (s : State) : State :=
  (((s.setReg R.REC_DROPCNT 0).setReg R.REC_SUPPCNT 0).setReg R.REC_FLUSHCNT 0).setReg R.REC_CRCCNT 0

/-- What a write of REC_CTRL does (R397, R402). -/
def flushWrite (s : State) (v : Word) : State :=
  let s1 := if v.getLsbD 0 then recFlush s else s
  if v.getLsbD 1 then recClear s1 else s1

/-! ### Reading records (R400, R401) -/

/-- The newest record, staged or flushed. -/
def newest (s : State) : Word := s.shale.next - 1

/-- The range a RECORD_READ returns: its first record and their number, from the oldest and newest of the snapshot. -/
def recordRange (oldest newest first : Word) (count : Nat) : Option (Word × Nat) :=
  let span := (newest - oldest).toNat
  if newest + 1 = oldest then none
  else if (first - oldest).toNat ≤ span then some (first, min count (newest - first + 1).toNat)
  else if 2 ^ 31 ≤ (first - oldest).toNat then some (oldest, min count (span + 1))
  else none

/-- The range of a RECORD_READ that a snapshot carries (R400). -/
def wantedRange (sn : Snap) (x : BitVec 16 × Req) : Option (Word × Nat) :=
  if x.1 = opRecord ∧ malformed x.1 x.2 = false then
    recordRange sn.recOldest sn.recNewest (BitVec.ofNat 32 (reqArg x.2 20 4)) (reqArg x.2 24 2)
  else none

/-- The ranges of RECORD_READ whose records have still to be written to host memory (R401): those of the running snapshot and the completions that the lanes will present, until the commit, and those that the IOI holds. -/
def rangesHeld (s : State) : List (Word × Nat) :=
  let own := if s.cyc.started && !s.cyc.committed then allLanes.flatMap fun l => (s.lanes.get l).words.filterMap fun w => match w with | .cmpl c => some c | .msg _ => none else []
  (if s.cyc.started && !s.cyc.committed then s.snap.elim [] (fun sn => sn.descs.filterMap (wantedRange sn)) else []) ++
    ((own ++ s.hif.held).filter fun c => c.opcode == opRecord && c.status == 0).map fun c => (BitVec.ofNat 32 (leAt c.result 0 4), leAt c.result 4 2)

/-- A block holds a record that a RECORD_READ returns and that has still to be written to host memory, so it is not erased (R401). -/
def blockWanted (s : State) (b : Nat) : Bool :=
  (rangesHeld s).any fun x => s.shale.blocks.any fun y => y.1 == b && (decide ((x.1 - y.2).toNat < 8192) || decide ((y.2 - x.1).toNat < x.2))

/-- The next block of the ring still holds records: its due erase has not ended. -/
def nextHolds (r : RecSt) : Bool := r.blocks.any fun x => x.1 == eraseTarget r

/-- Records are programmed in order; the number programmed, and the blocks erased to make room. A flush waits for no erase (R399), so a next block that still holds records is erased then; where one of them has still to be returned (R401), the rest of the records stays staged (DESIGN CHOICE between the two rules, log 79). -/
def programAll (wanted : Nat → Bool) : List Bytes → RecSt → RecSt × Nat × Nat
  | [], r => (r, 0, 0)
  | b :: t, r =>
    if 8192 ≤ r.wslot ∧ wanted (eraseTarget r) = true then (r, 0, 0)
    else
      let q := programAll wanted t (programRecord r b)
      (q.1, q.2.1 + 1, q.2.2 + b2n (decide (8192 ≤ r.wslot) && nextHolds r))

/-- A flush ends: the records it covers are in flash, in record order, and their buffer space is free (R397); each erase sets WRAP (R399). After a power-fail flush no record is accepted (R398). -/
def finishFlush (s : State) : State :=
  match s.shale.flushing with
  | none => s
  | some n =>
    let q := programAll (blockWanted s) (s.shale.buf.take n) s.shale
    let held := s.shale.eraseHeld || (s.power.pfw && q.1.wblock != s.shale.wblock)
    let t := ({ s with shale := { q.1 with buf := s.shale.buf.drop q.2.1, flushing := none, pfwStop := s.shale.pfwStop || s.power.pfw, eraseHeld := held } } : State).bump R.REC_FLUSHCNT 1
    if q.2.2 = 0 then t else recEvent t 3

/-- FLUSH_COMPLETE (R397, R398). -/
def execFlushComplete (s : State) : Host.Outcome State Fault Refusal :=
  .next (finishFlush s)

/-- A block fails to program (R399): it is marked bad and skipped, so that the flush goes on in the next block, or, where it is the next block itself, in the one after it, whose erase is then due. Only a flush programs a block. -/
def programFailed (s : State) (b : Nat) : State :=
  let bad := insertUp b s.shale.bad
  if s.shale.flushing.isNone || s.shale.bad.contains b then s
  else if b = s.shale.wblock then blockFailed { s with shale := { s.shale with bad := bad, wslot := 8192 } } b
  else if b = eraseTarget s.shale then blockFailed { s with shale := { dropBlock s.shale b with flash := s.shale.flash, bad := bad, eraseDue := true } } b
  else s

/-- RECORD_ENTRY: a unit reports a record (R394, R395); none carries a reserved code, severity or unit (R392). -/
def execRecordEntry (code : BitVec 16) (sev : BitVec 3) (src : Byte) (payload : Bytes) (s : State) : Host.Outcome State Fault Refusal :=
  .next (if code = 0 ∨ 4 < sev.toNat ∨ 0x0B < src.toNat then s else s.record code sev src payload)

/-- The end of the erase that is due (R399). Where none is due, the block holds a record to be returned, or a power-fail warning lets none begin (R446), none ends. -/
def eraseEnds (s : State) (ok : Bool) : State :=
  let b := eraseTarget s.shale
  if !s.shale.eraseDue || s.shale.eraseHeld || blockWanted s b then s
  else if ok then recEvent { s with shale := { dropBlock s.shale b with eraseDue := false } } 3
  else blockFailed { s with shale := { dropBlock s.shale b with flash := s.shale.flash, bad := insertUp b s.shale.bad } } b

/-- BLOCK_ERASE (R399): the erase that is due completes and removes the oldest records, or fails and the block is bad; a block that fails to program comes to the same. -/
def execBlockErase (x : BlockEnd) (s : State) : Host.Outcome State Fault Refusal :=
  match x with
  | .erased => .next (eraseEnds s true)
  | .failed => .next (eraseEnds s false)
  | .programFails b => .next (programFailed s b.toNat)

/-! ### The management tick (R395 to R397) -/

/-- Every bucket takes RATE tokens, up to BURST; RATECFG applies from this tick (R395, R403). -/
def refill (s : State) : State :=
  let burst := s.regF R.REC_RATECFG 0 8
  let rate := s.regF R.REC_RATECFG 8 8
  let all := min burst (s.shale.burst + rate)
  let ts := (s.shale.tokens.map fun x => (x.1, min burst (x.2 + rate))).filter fun x => x.2 != all
  { s with shale := { s.shale with burst := all, tokens := ts } }

/-- One SUPPRESSED record for a code (R396). -/
def suppressedRecord (s : State) (x : BitVec 16 × Nat × Nat) : State :=
  s.record 1 1 0x00 (leBytes 2 x.1.toNat ++ leBytes 4 x.2.1 ++ leBytes 6 x.2.2)

/-- The SUPPRESSED records of a tick, in ascending code. -/
def suppressedRecords (s : State) : State :=
  (sortBy (fun x y => x.1.toNat ≤ y.1.toNat) s.shale.supp).foldl suppressedRecord { s with shale := { s.shale with supp := [] } }

/-- What a management tick does in Shale: the refill, the summaries, and a flush. -/
def recTick (s : State) : State := recFlush (suppressedRecords (refill s))

/-! ### Stored records (R401) -/

/-- A stored record, from the buffer or from flash. -/
def recordAt (s : State) (no : Word) : Bytes :=
  match s.shale.buf.find? fun b => leAt b 4 4 == no.toNat with
  | some b => b
  | none =>
    let read (x : Nat × Word) : Bytes := bytesGet flashByte s.shale.flash (slotAddr x.1 (no - x.2).toNat) 32
    match s.shale.blocks.find? fun x => (no - x.2).toNat < 8192 && leAt (read x) 4 4 == no.toNat with
    | some x => read x
    | none => List.replicate 32 0xFF

/-- The CRC of a record fails. -/
def recordBad (b : Bytes) : Bool := leAt b 30 2 != (crc16 (b.take 30)).toNat

/-- The records of a range as stored, and the state with those that fail their CRC counted (R401). -/
def readRecords (s : State) (first : Word) (n : Nat) : State × Bytes :=
  let rs := (List.range n).map fun k => recordAt s (first + BitVec.ofNat 32 k)
  (rs.foldl (fun t b => if recordBad b then recEvent (t.bump R.REC_CRCCNT 1) 4 else t) s, rs.flatten)

/-- The REC registers whose value the state holds elsewhere (R402). -/
def liveREC (s : State) (off v : Nat) : Nat :=
  if off = R.REC_STAT then s.shale.buf.length + b2n s.shale.flushing.isSome * 2 ^ 14 + b2n s.shale.pfwStop * 2 ^ 15
  else if off = R.REC_OLDEST then s.shale.oldest.toNat
  else if off = R.REC_NEWEST then (newest s).toNat
  else if off = R.REC_FLUSHED then s.shale.flushed.toNat
  else v

end Sys2Proof.Machine
end

