-- ==== Sys2Proof/Machine/Update.lean ====
section
/-! DEFINITION. Firmware update and life cycle (R404 to R424): the stored images, the boot sequence, the update session and its opcodes, activation and trial, attestation, and transition tokens. -/

namespace Sys2Proof.Machine

/-! ### Stored images -/

/-- The IV of a Loam region whose image has n bytes. -/
def loamIv (s : State) (b : Bool) (n : Nat) : Bytes := bytesGet erasedByte (bankMem s b) (regionBase true + n) 12

/-- The first k bytes of the Loam image of n bytes in a region, decrypted under the storage key (R409). -/
def loamPlain (s : State) (b : Bool) (n k : Nat) : Bytes := gcmText s.stored.storageKey (loamIv s b n) 0 (regionBytes s b true k)

/-- The tag over the encrypted image of n bytes in a region. -/
def loamTag (s : State) (b : Bool) (n : Nat) : Bytes := gcmTag s.stored.storageKey (loamIv s b n) [] (regionBytes s b true n)

/-- The Loam image that a region stores, where its tag is right (R409, R419). -/
def storedLoam (s : State) (b : Bool) : Option Bytes :=
  let n := (bankOf s b).llen
  if loamTag s b n = bytesGet erasedByte (bankMem s b) (regionBase true + n + 12) 16 then some (loamPlain s b n n) else none

/-- The image that the lanes accept from a region: the engine reads and decrypts it, and each lane checks the bytes it is given (R106, R419, R420). -/
def loadedLoam (s : State) (b readOk : Bool) : Option Loam :=
  if readOk then (storedLoam s b).bind (checkLoam s.stored.loamKey) else none

/-- UPD_FLOOR: the anti-rollback floor (R418). -/
def svnFloor (s : State) : Nat := s.stored.floor.toNat

/-! ### The firmware container (R410) -/

/-- Its header: MAGIC, FMT, HLEN, HCRC and KEYID. -/
def fwHeaderOk (b : Bytes) : Bool :=
  (b.take 4 == [0x53, 0x4B, 0x46, 0x57]) && leAt b 4 2 == 1 && leAt b 6 2 == 0x80 && leAt b 0x11 1 == 1 &&
    leAt b 0x7C 4 == (crc32c (b.take 0x7C)).toNat

/-- Its lengths: TOTAL a multiple of 64 and at most 64 MiB, PLEN above 384 and within TOTAL with the header and the tag. -/
def fwLengthsOk (b : Bytes) : Bool :=
  leAt b 0x14 4 % 64 == 0 && leAt b 0x14 4 ≤ 0x4000000 && 384 < leAt b 0x18 4 && 128 + leAt b 0x18 4 + 16 ≤ leAt b 0x14 4

/-- The header of a Loam image: MAGIC, FMT, HLEN and HCRC (R102). -/
def loamHead (b : Bytes) : Bool :=
  (b.take 4 == [0x4C, 0x4F, 0x41, 0x4D]) && leAt b 4 2 == 1 && leAt b 6 2 == 0x100 && leAt b 0xFC 4 == (crc32c (b.take 0xFC)).toNat

/-! ### Boot (R405, R417, R420, R421) -/

/-- The plaintext of the container in a bank: body and signature (R411). -/
def fwPlain (s : State) (b : Bool) : Bytes :=
  let h := regionBytes s b false 128
  gcmText s.stored.imageKey ((h.drop 0x1C).take 12) 0 ((regionBytes s b false (128 + leAt h 0x18 4)).drop 128)

/-- The tag of the container in a bank is that over its header and ciphertext under the image key (R411). -/
def fwTagOk (s : State) (b : Bool) : Bool :=
  let h := regionBytes s b false 128
  let n := leAt h 0x18 4
  let all := regionBytes s b false (128 + n + 16)
  s.stored.imageKey.length == 32 && gcmTag s.stored.imageKey ((h.drop 0x1C).take 12) h ((all.drop 128).take n) == all.drop (128 + n)

/-- The SHA-256 digest of the header and body of the container in a bank (R411, R422). -/
def fwDigest (s : State) (b : Bool) : Bytes :=
  let p := fwPlain s b
  sha256 (regionBytes s b false 128 ++ p.take (p.length - 384))

/-- The signature of the container in a bank verifies under the firmware signing key (R411). -/
def fwSigOk (s : State) (b : Bool) : Bool :=
  let p := fwPlain s b
  pssVerify s.stored.firmwareKey (fwDigest s b) (p.drop (p.length - 384))

/-- What the boot ROM finds of a container, as FCAUSE codes it: 0 pass, 1 header, 2 below the floor, 3 GCM tag, 4 signature, 6 a flash error. -/
def bankCheck (s : State) (b readOk : Bool) : Nat :=
  let h := regionBytes s b false 128
  if !readOk then 6
  else if !fwHeaderOk h || !fwLengthsOk h then 1
  else if leAt h 0x0C 4 < svnFloor s then 2
  else if !fwTagOk s b then 3
  else if !fwSigOk s b then 4
  else 0

/-- A failed boot step marks its bank FAILED and writes a record (R420). -/
def bankFailed (s : State) (b : Bool) (cause : Nat) : State :=
  (setBank s b fun x => { x with fstate := 5, fcause := BitVec.ofNat 3 cause }).note 5 (openSev 5) 0x09

/-- Whether a bank is CONFIRMED. -/
def confirmed (s : State) (b : Bool) : Bool := (bankOf s b).fstate == 4

/-- The boot ROM fixes the life-cycle state: the later of the stored state and the BU's, or the stored state alone where the BU's contents were lost; a pending state is in force from this reset (R405, R407). A module that becomes RETIRED erases every secret key of R408 (R405). -/
def fixLcs (s : State) : State :=
  let lcs := if s.bu.vbatLost || s.bu.lcs.toNat ≤ s.stored.pendLcs.toNat then s.stored.pendLcs else s.bu.lcs
  let keep (key : Bytes) : Bytes := if lcs = 4 then [] else key
  { s with
    stored := { s.stored with
      lcs := lcs, pendLcs := lcs, loamKey := s.stored.loamKeyNew
      imageKey := keep s.stored.imageKey, storageKey := keep s.stored.storageKey, identityPrivate := keep s.stored.identityPrivate }
    bu := { s.bu with lcs := lcs } }

/-- At a boot, a bank in TRIAL with the trial disarmed is marked FAILED with FCAUSE 0b101 (R417). -/
def staleTrial (s : State) (b : Bool) : State :=
  if (bankOf s b).fstate = 3 ∧ s.bu.trial ≠ some b then updEvent ((bankFailed s b 5).setF R.UPD_BOOT 1 4 11) 4 else s

/-- The bank that is tried first: the armed trial bank, otherwise the preferred CONFIRMED bank, otherwise any CONFIRMED bank. -/
def firstChoice (s : State) : Option Bool :=
  match s.bu.trial with
  | some b => some b
  | none =>
    match [false, true].find? fun b => confirmed s b && (bankOf s b).pref with
    | some b => some b
    | none => [false, true].find? (confirmed s)

/-- The bank is booted: GLB and UPD show it, and a trial's health window runs (R417, R420). -/
def bankBooted (s : State) (b trial : Bool) : State :=
  let s1 := { s with upd := { s.upd with booted := some b, trial := if trial then some b else none, trialEnd := s.cyc.timeBase + 120000000 } }
  let s2 := s1.setF R.UPD_BOOT 0 1 (b2n b)
  if trial then updEvent s2 2 else s2

/-- No bank passes: recovery (R421). -/
def recoveryBoot (s : State) : State :=
  { s with upd := { s.upd with booted := none, recovery := true } }.setF R.UPD_BOOT 5 1 1

/-- The bank that is tried second: the other one, where it is CONFIRMED. -/
def secondChoice (s : State) (read0 read1 b : Bool) : State :=
  if confirmed s (!b) then
    let c := bankCheck s (!b) (if b then read0 else read1)
    if c = 0 then bankBooted s (!b) false else recoveryBoot ((bankFailed s (!b) c).setF R.UPD_BOOT 2 3 c)
  else recoveryBoot s

/-- The choice of a firmware bank and its checks; an armed trial is disarmed (R417, R420). -/
def bootFirmware (s : State) (read0 read1 : Bool) : State :=
  let trial := s.bu.trial
  let s0 := staleTrial (staleTrial s false) true
  let s1 := { s0 with bu := { s0.bu with trial := none } }
  match firstChoice s0 with
  | none => recoveryBoot s1
  | some b =>
    let c := bankCheck s1 b (if b then read1 else read0)
    if c = 0 then bankBooted s1 b trial.isSome
    else secondChoice (updEvent ((bankFailed s1 b c).setF R.UPD_BOOT 1 4 (1 + 2 * c)) 4) read0 read1 b

/-- The bank whose Loam region has LACT. -/
def loamBank (s : State) : Option Bool := [false, true].find? fun b => (bankOf s b).lact

/-- The Loam region with LACT is decrypted and checked, once Kiln has passed (R420, R443); a failure leaves the module without an image, marks the region FAILED and writes a record. -/
def bootLoam (s : State) : State :=
  match loamBank s with
  | none => s
  | some b =>
    if s.upd.recovery then s
    else match loadedLoam s b s.upd.loamRead with
      | some m => { s with loam := some m }
      | none => (setBank s b fun x => { x with lstate := 5 }).note 5 (openSev 5) 0x09

/-- The operating time of a reset and a boot, for which the time base does not run: a free time of up to 1,300 ms (R443, R451; log 15). -/
def bootTime (s : State) : State := s.drawn.buTime (s.freeNow.toNat % 1300001)

/-- BOOT (R420): the life-cycle state and the firmware bank; a RETIRED module stops at once. Kiln then waits for its conditions (R425), and the Loam load comes after it (R443). The operands tell whether the flash of the two firmware regions, and of the Loam region with LACT, can be read. -/
def execBoot (read0 read1 readLoam : Bool) (s : State) : Host.Outcome State Fault Refusal :=
  if s.power.booted || s.power.por then .next s
  else
    let s0 := fixLcs (bootTime { s with power := { s.power with booted := true } })
    if s0.lcs = 4 then .next { s0 with power := { s0.power with retired := true } }
    else
      let s1 := bootFirmware s0 read0 read1
      .next ({ s1 with upd := { s1.upd with loamRead := readLoam } }.setF R.KLN_STAT 0 3 1)

/-! ### The update session (R412 to R414) -/

/-- The update engine's progress report (R413). -/
def progressOf (s : State) : Progress :=
  { sess := s.upd.sess.map fun x => { num := x.num, loam := x.loam, maint := x.maint, total := x.total, recv := x.recv },
    readyF := s.upd.readyF, readyL := s.upd.readyL, trial := s.upd.trial, trialEnd := s.upd.trialEnd,
    loading := s.upd.load.isSome || s.loamNext.isSome, attesting := s.upd.attest.isSome }

/-- The update engine as the lanes know it, changed by what they execute. -/
def State.updSeen (s : State) (f : Progress → Progress) : State := { s with group := { s.group with upd := f s.group.upd } }

/-- A port may carry update requests in the life-cycle state: PORT_MAINT only in MANUFACTURE and DEVELOPMENT (R49, R404). -/
def updPort (s : State) (q : Req) : Bool := !q.maint || s.lcs == 0 || s.lcs == 2

/-- Update opcodes complete with SERVICE_LEVEL in REDUCED and BEDROCK (R46, R413). -/
def updLow (s : State) : Bool := s.level == .reduced || s.level == .bedrock

/-- The image kind that an UPDATE_OPEN names. -/
def openLoam (q : Req) : Bool := reqArg q 24 1 == 1

/-- TOTAL is allowed for the kind (R413). -/
def totalOk (q : Req) : Bool :=
  let t := reqArg q 20 4
  t != 0 && t % 64 == 0 && t ≤ (if openLoam q then 0x1C000000 - 64 else 0x4000000)

/-- The target region of a session: the firmware region of the bank not booted, or the Loam region without LACT; where neither or both qualify the choice is left open (log 19). -/
def targetBank (s : State) (loam : Bool) : Bool :=
  if loam then match loamBank s with | some b => !b | none => s.freeNow.getLsbD 0
  else match s.upd.booted with | some b => !b | none => s.freeNow.getLsbD 0

/-- An answer at once. -/
def answered (s : State) (status : Nat) (result : Bytes) : State × Option (Nat × Bytes) := (s, some (status, result))

/-- UPDATE_OPEN takes the session: its region is STAGING, and the command completes once it is erased. -/
def openSession (s : State) (q : Req) : State :=
  let loam := openLoam q
  let b := targetBank s loam
  let num := s.upd.opened % 65535 + 1
  let x : Sess := { num := num, loam := loam, maint := q.maint, bank := b, total := reqArg q 20 4, recv := 0, erased := false, lastAt := s.cyc.timeBase, waiting := [(opOpen, q, [])] }
  let s1 := setBank s.drawn b fun r => if loam then { r with lstate := 1, lver := 0, lid := 0, llen := 0 } else { r with fstate := 1, fcause := 0, version := 0, svn := 0, pairfmt := 0, flen := 0 }
  let keep (mine : Bool) (r : List (Nat × Bool)) : List (Nat × Bool) := if mine then r.filter fun y => y.2 != b else r
  let u := { s1.upd with sess := some x, opened := num, readyF := keep (!loam) s1.upd.readyF, readyL := keep loam s1.upd.readyL }
  (updEvent { s1 with upd := u } 0).updSeen fun v => { v with
    sess := some { num := num, loam := loam, maint := q.maint, total := x.total, recv := 0 }
    readyF := keep (!loam) v.readyF
    readyL := keep loam v.readyL }

/-- UPDATE_OPEN (R413). A trial is pending from its activation on; under a power-fail warning no erase begins, and the session ends as at a reset (R446). -/
def judgeOpen (s : State) (q : Req) : State × Option (Nat × Bytes) :=
  if malformed opOpen q || !totalOk q then answered s stMalformed []
  else if updLow s then answered s stLevel []
  else if !updPort s q then answered s stPort []
  else if s.lcs = 4 ∨ (openLoam q ∧ s.level ≠ .stopped) ∨ (!openLoam q ∧ (s.group.upd.trial.isSome || s.upd.activate)) ∨ (openLoam q ∧ s.upd.recovery) then answered s stState []
  else if s.group.upd.sess.isSome then answered s stBusy []
  else if s.power.pfw then
    let t := endSession (openSession s q)
    ({ t with upd := { t.upd with erasing := none } }, none)
  else (openSession s q, none)

/-- The session that a request names, if the lanes know it open. -/
def namedSession (s : State) (q : Req) : Option SessRep := s.group.upd.sess.filter fun x => x.num == reqArg q 20 2

/-- The same session as the engine still holds it; it may have ended since the report. -/
def heldSession (s : State) (q : Req) : Option Sess := s.upd.sess.filter fun x => x.num == reqArg q 20 2

/-- RESULT bytes 12 to 15 of UPDATE_WRITE and UPDATE_CLOSE: the bytes received in the session named, 0 where none is open (R248). -/
def recvBytes (s : State) (q : Req) : Bytes := leBytes 4 ((namedSession s q).elim 0 (·.recv))

/-- The engine takes an accepted write: its bytes count as received, and it waits to be programmed. A session that has ended since the report the lanes judged by takes none, and the write completes as any that waited on it (R413; log 18). -/
def engineWrite (s : State) (q : Req) (data : Bytes) : State :=
  match heldSession s q with
  | none => s.defer opWrite q stState (recvBytes s q)
  | some x => { s with upd := { s.upd with sess := some { x with recv := x.recv + q.length.toNat, lastAt := s.cyc.timeBase, waiting := x.waiting ++ [(opWrite, q, padTo q.length.toNat data)] } } }

/-- UPDATE_WRITE (R413): the bytes received count at once, and the completion waits until they are programmed. -/
def judgeWrite (s : State) (q : Req) (data : Bytes) : State × Option (Nat × Bytes) :=
  let recv := recvBytes s q
  if malformed opWrite q || (namedSession s q).any (fun x => x.total < reqArg q 24 4 + q.length.toNat) then answered s stMalformed recv
  else if updLow s then answered s stLevel recv
  else if !updPort s q then answered s stPort recv
  else match namedSession s q with
    | none => answered s stState recv
    | some x =>
      if x.maint != q.maint then answered s stBusy recv
      else if reqArg q 24 4 ≠ x.recv then answered s stState recv
      else ((engineWrite s q data).updSeen fun v => { v with sess := some { x with recv := x.recv + q.length.toNat } }, none)

/-- The header checks of UPDATE_CLOSE: MALFORMED, or REJECTED_STATE for an image that goes back (R413). -/
def closeCheck (s : State) (x : Sess) : Nat :=
  if x.loam then
    let h := loamPlain s x.bank x.total 256
    if !loamHead h then stMalformed
    else match s.loam with
      | some m => if m.imageId.toNat = leAt h 8 8 ∧ leAt h 0x10 4 < m.imageVer.toNat then stState else stDone
      | none => stDone
  else
    let h := regionBytes s x.bank false 128
    if !fwHeaderOk h || leAt h 0x14 4 != x.total then stMalformed
    else if leAt h 0x0C 4 < svnFloor s then stState
    else stDone

/-- The region of a session is complete: the tag of a Loam image is stored after its IV (R409). -/
def sealRegion (s : State) (x : Sess) : State :=
  if x.loam then
    setBankMem s x.bank fun m => bytesPut erasedByte m (regionBase true + x.total + 12) (loamTag s x.bank x.total ++ List.replicate (loamTail - 28) 0)
  else s

/-- A region becomes READY: the values of its header and the CRC-32C over the stored region are recorded (R409, R413). -/
def markReady (s : State) (x : Sess) (b : BankSt) : BankSt :=
  if x.loam then
    let h := loamPlain s x.bank x.total 256
    { b with lstate := 2, lcrc := crc32c (regionBytes s x.bank true (x.total + loamTail)), lver := BitVec.ofNat 32 (leAt h 0x10 4), lid := BitVec.ofNat 64 (leAt h 8 8), llen := x.total }
  else
    let h := regionBytes s x.bank false 128
    { b with fstate := 2, fcause := 0, version := BitVec.ofNat 32 (leAt h 8 4), svn := BitVec.ofNat 32 (leAt h 0x0C 4), pairfmt := BitVec.ofNat 8 (leAt h 0x10 1),
             flen := x.total, fcrc := crc32c (regionBytes s x.bank false x.total) }

/-- The session's region becomes READY and the session closes. -/
def regionReady (s : State) (x : Sess) : State :=
  let u := if x.loam then { s.upd with readyL := s.upd.readyL ++ [(x.num, x.bank)] } else { s.upd with readyF := s.upd.readyF ++ [(x.num, x.bank)] }
  let t := sealRegion s x
  updEvent (closeSession { t with upd := u } x stState (markReady t x)) 1

/-- UPDATE_CLOSE once no write is waiting: the checks decide, and a failure ends the session. -/
def finishClose (s : State) (x : Sess) : State × Nat :=
  match closeCheck s x with
  | 0 => (regionReady s x, stDone)
  | st => (endSession s, st)

/-- The engine takes an accepted close; behind writes that are not programmed yet it waits for them. The lanes see the outcome with its report: the completion waits for the first snapshot that shows it (R19, R413). -/
def engineClose (s : State) (q : Req) : State × Option (Nat × Bytes) :=
  match heldSession s q with
  | none => answered s stState (recvBytes s q)
  | some x =>
    if x.waiting.isEmpty then
      let r := finishClose s x
      (r.1.defer opClose q r.2 (leBytes 4 x.recv), none)
    else ({ s with upd := { s.upd with sess := some { x with lastAt := s.cyc.timeBase, waiting := x.waiting ++ [(opClose, q, [])] } } }, none)

/-- UPDATE_CLOSE (R413). -/
def judgeClose (s : State) (q : Req) : State × Option (Nat × Bytes) :=
  let recv := recvBytes s q
  if malformed opClose q then answered s stMalformed recv
  else if updLow s then answered s stLevel recv
  else if !updPort s q then answered s stPort recv
  else match namedSession s q with
    | none => answered s stState recv
    | some x =>
      if x.recv < x.total then answered s stState recv
      else if x.maint != q.maint then answered s stBusy recv
      else engineClose s q

/-- What an activation, or (true) a confirm, of a bank programs into storage: the region TRIAL (R416), or the bank CONFIRMED and preferred with the floor raised to its SVN, and the other FAILED where it now lies below (R418). -/
def storeMark (s : State) (w : Bool × Bool) : State :=
  if !w.1 then setBank s w.2 fun x => { x with fstate := 3 }
  else
    let svn := (bankOf s w.2).svn
    let floor := if s.stored.floor.toNat < svn.toNat then svn else s.stored.floor
    let s1 := setBank { s with stored := { s.stored with floor := floor } } w.2 fun x => { x with fstate := 4, fcause := 0, pref := true }
    setBank s1 (!w.2) fun x => if x.fstate != 0 && x.svn.toNat < floor.toNat then { x with fstate := 5, fcause := 2, pref := false } else { x with pref := false }

/-- A program of storage, which a power-fail warning holds until its end (R446). -/
def storeNow (s : State) (w : Bool × Bool) : State :=
  if s.power.pfw then { s with upd := { s.upd with held := s.upd.held ++ [w] } } else storeMark s w

/-- A firmware activation: TRIAL, armed in the BU, with the reset at the next t0 (R416). -/
def activateFirmware (s : State) (b : Bool) : State :=
  let s1 := storeNow s (false, b)
  let rest := s.upd.readyF.filter fun x => x.2 != b
  { s1 with upd := { s1.upd with readyF := rest, activate := true }, bu := { s1.bu with trial := some b } }.updSeen fun v => { v with readyF := rest }

/-- UPDATE_ACTIVATE (R413, R416, R419). -/
def judgeActivate (s : State) (q : Req) : State × Option (Nat × Bytes) :=
  let names (r : List (Nat × Bool)) : Option Bool := (r.find? fun x => x.1 == reqArg q 20 2).map (·.2)
  if malformed opActivate q then answered s stMalformed []
  else if updLow s then answered s stLevel []
  else if !updPort s q then answered s stPort []
  else match names s.group.upd.readyF, names s.group.upd.readyL with
    | some b, _ =>
      if s.group.upd.sess.isSome then answered s stBusy []
      else if s.sby.role = .active ∧ (s.sby.partner.map (·.elig)).getD false then answered s stState []
      else answered (activateFirmware s b) stDone [BitVec.ofNat 8 (b2n b)]
    | none, some b =>
      if s.group.upd.sess.isSome then answered s stBusy []
      else if s.level ≠ .stopped ∨ s.upd.recovery then answered s stState []
      else
        let rest := s.upd.readyL.filter fun x => x.2 != b
        ({ s with upd := { s.upd with readyL := rest, load := some (b, q) }, stored := { s.stored with loamKey := s.stored.loamKeyNew } }.updSeen fun v =>
          { v with readyL := rest, loading := true }, none)
    | none, none => answered s stState []

/-- A counted CONFIRM_HEALTH (R418). -/
def confirmHealth (s : State) (b : Bool) : State :=
  (updEvent (storeNow { s with upd := { s.upd with trial := none } } (true, b)) 3).updSeen fun v => { v with trial := none }

/-- UPDATE_CONFIRM_HEALTH (R413, R417, R418): it counts only in a cycle whose t0 lies before the window's end. -/
def judgeHealth (s : State) (q : Req) : State × Option (Nat × Bytes) :=
  if malformed opHealth q then answered s stMalformed []
  else if !s.upd.recovery && s.level != .full then answered s stLevel []
  else if !updPort s q then answered s stPort []
  else match s.group.upd.trial with
    | none => answered s stState []
    | some b => if s.cyc.lastT0 < s.group.upd.trialEnd then answered (confirmHealth s b) stDone [BitVec.ofNat 8 (b2n b)] else answered s stState []

/-! ### Attestation (R422) -/

/-- The digest of the bytes that the Loam signature covers (R422, R9); without an image it is open (log 4). -/
def loamDigest (s : State) : Bytes :=
  match s.loam with
  | some m => sha256 m.signed
  | none => Config.attestDigest 1 s.free

/-- The digest of the booted header and body (R422, R411); in recovery no container is booted, and it is open (log 4). -/
def bootedDigest (s : State) : Bytes :=
  match s.upd.booted with
  | some b => fwDigest s b
  | none => Config.attestDigest 0 s.free

/-- The 256 bytes that an attestation report signs. -/
def reportBody (s : State) (nonce : Bytes) : Bytes :=
  let b := s.upd.booted.getD false
  let other := bankOf s (!b)
  let oc := other.fstate == 4
  let own := bankOf s b
  [0x41, 0x54, 0x54, 0x53] ++ leBytes 2 1 ++ leBytes 2 640 ++ padTo 32 nonce ++ leBytes 4 (s.regN R.GLB_SERIAL_LO) ++ leBytes 4 (s.regN R.GLB_SERIAL_HI) ++
  leBytes 1 s.lcs ++ leBytes 1 s.level.code ++ leBytes 1 (b2n b) ++ leBytes 1 (b2n s.upd.trial.isSome + 2 * b2n s.upd.recovery) ++
  leBytes 4 (if s.upd.booted.isSome then own.version.toNat else 0) ++ leBytes 4 (if s.upd.booted.isSome then own.svn.toNat else 0) ++ leBytes 4 (svnFloor s) ++
  leBytes 4 (if oc then other.version.toNat else 0) ++ leBytes 4 (if oc then other.svn.toNat else 0) ++ padTo 32 (bootedDigest s) ++
  leBytes 8 ((s.loam.map (·.imageId.toNat)).getD 0) ++ leBytes 4 ((s.loam.map (·.imageVer.toNat)).getD 0) ++ padTo 16 ((s.loam.map (·.certId)).getD []) ++
  padTo 32 (loamDigest s) ++ leBytes 6 s.optime ++ leBytes 4 s.bu.pwrcyc.toNat ++ leBytes 4 s.bu.bootcnt.toNat ++ leBytes 6 s.cycle ++
  sha256 s.stored.identityKey ++ List.replicate 40 0

/-- The signature of a report with the identity key, under a free salt (R9, R422); a module that holds no identity key pair (R408) gives free bytes (log 4). -/
def reportSignature (s : State) (body : Bytes) : Bytes :=
  if 2 ^ 3071 ≤ modulus s.stored.identityKey ∧ s.stored.identityPrivate.length = rsaBytes then pssSign s.stored.identityKey s.stored.identityPrivate (sha256 body) (s.freeBytes saltBytes)
  else Config.sign body

/-- ATTEST (R422): the IOI writes the report, and the command completes with its length. From PORT_MAINT in REDUCED or BEDROCK both R46 and R50 apply and no rule orders them; SERVICE_LEVEL comes first (DESIGN CHOICE, log 41). -/
def judgeAttest (s : State) (q : Req) : State × Option (Nat × Bytes) :=
  if malformed opAttest q then answered s stMalformed []
  else if updLow s then answered s stLevel []
  else if q.maint then answered s stPort []
  else if s.lcs = 4 then answered s stState []
  else if s.group.upd.attesting then answered s stBusy []
  else
    let body := reportBody s (q.args.take 32)
    let report := body ++ padTo 384 (reportSignature s body)
    let s1 := { s.drawnBytes saltBytes with hif := { s.hif with reads := assocPut q.seq.toNat report s.hif.reads }, upd := { s.upd with attest := some q.seq } }
    answered ((updEvent s1 6).updSeen fun v => { v with attesting := true }) stDone (leBytes 4 640)

/-! ### The engine's reports (R413) -/

/-- An image's bytes are programmed where their write names them, those of a Loam image encrypted (R409). -/
def programWrite (s : State) (x : Sess) (q : Req) (data : Bytes) : State :=
  let off := reqArg q 24 4
  let stored := if x.loam then gcmText s.stored.storageKey (loamIv s x.bank x.total) off data else data
  setBankMem s x.bank fun m => bytesPut erasedByte m (regionBase x.loam + off) stored

/-- One waiting descriptor is done: a write's bytes are programmed, or the close behind the writes is judged. -/
def engineDone (s : State) (w : BitVec 16 × Req × Bytes) : State :=
  match s.upd.sess with
  | none => s
  | some x =>
    let y := { x with waiting := x.waiting.drop 1 }
    let s1 := { s with upd := { s.upd with sess := some y } }
    if w.1 = opWrite then (programWrite s1 y w.2.1 w.2.2).defer opWrite w.2.1 stDone (leBytes 4 (reqArg w.2.1 24 4 + w.2.1.length.toNat))
    else if w.1 = opClose then let r := finishClose s1 y; r.1.defer opClose w.2.1 r.2 (leBytes 4 y.recv)
    else s

/-- BYTES_PROGRAMMED: what waits on the engine is programmed, and completes with the bytes received. -/
def execBytesProgrammed (s : State) : Host.Outcome State Fault Refusal :=
  match s.upd.sess with
  | none => .next s
  | some x => if x.erased && !s.power.pfw then .next (x.waiting.foldl engineDone s) else .next s

/-- The flash of a region is erased. -/
def eraseRegion (s : State) (b loam : Bool) : State := setBankMem s b fun m => bytesErase m (regionBase loam) (regionSize loam)

/-- The erased region of a session, with a fresh IV where it is to hold a Loam image (R409). -/
def sessionErased (s : State) (x : Sess) : State :=
  let t := eraseRegion s x.bank x.loam
  if x.loam then (setBankMem t x.bank fun m => bytesPut erasedByte m (regionBase true + x.total) (s.freeBytes 12)).drawnBytes 12 else t

/-- REGION_ERASED: the session's region reads erased, and UPDATE_OPEN completes with DONE and the session; or the erase that a session left behind has completed (R446). -/
def execRegionErased (s : State) : Host.Outcome State Fault Refusal :=
  match s.upd.sess with
  | none =>
    match s.upd.erasing with
    | none => .next s
    | some (b, loam) => .next (eraseRegion { s with upd := { s.upd with erasing := none } } b loam)
  | some x =>
    if x.erased then .next s
    else
      let opens := x.waiting.filter fun w => w.1 == opOpen
      let y := { x with erased := true, waiting := x.waiting.filter fun w => w.1 != opOpen }
      let s1 := sessionErased { s with upd := { s.upd with sess := some y, erasing := none } } x
      .next (opens.foldl (fun t w => t.defer opOpen w.2.1 stDone (leBytes 2 x.num)) s1)

/-- The idle limit of the open session has passed since its latest open, write or close was executed (R412). The time base moves by rounds of 1,000 macroticks, and the instant lies within the round that follows. -/
def idlePassed (s : State) : Bool :=
  s.upd.sess.any fun x => x.lastAt + s.regF R.UPD_CFG 0 12 * 1000000 < s.cyc.timeBase + 1000

/-- IDLE: the session's idle limit has passed (R412). -/
def execIdle (s : State) : Host.Outcome State Fault Refusal := if idlePassed s then .next (endSession s) else .next s

/-- The health window has ended at the t0 of the running cycle, or before, and that cycle has committed (R417). -/
def windowOver (s : State) : Bool := s.upd.trial.isSome && decide (s.upd.trialEnd ≤ s.cyc.lastT0) && s.cyc.committed

/-- HEALTH_WINDOW_END: without a counted confirm the module sets FALLBACK and resets, and its record is in the buffer after the reset (R417; log 18). -/
def execHealthWindowEnd (s : State) : Host.Outcome State Fault Refusal :=
  if windowOver s then
    .next ((moduleReset (updEvent s 4) 4 s.sby.strap s.power.addr).note 7 (openSev 7) 0x09)
  else .next s

/-! ### A Loam load (R106, R172, R173, R419) -/

/-- Each lane without an image: every word holds the spare form, and the regions are empty (R106, R180). -/
def dropLoam (s : State) : State :=
  { s.updLanes (fun l x => x.freshStart (memberNo s) l none s.cyc.cycle) with loam := none, loamNext := none }

/-- LOAM_LOAD_CHECKED: the lanes have checked the image that the engine has delivered from the region, whose flash can be read or not (R419). On a pass LACT moves and the image takes effect at the next t0; on a failure the module has no Loam image and the command completes with REJECTED_STATE. -/
def execLoamLoadChecked (readOk : Bool) (s : State) : Host.Outcome State Fault Refusal :=
  match s.upd.load with
  | none => .next s
  | some (b, q) =>
    let s1 := { s with upd := { s.upd with load := none } }
    match loadedLoam s b readOk with
    | some m =>
      let s2 := setBank (setBank s1 (!b) fun x => { x with lact := false }) b fun x => { x with lact := true, lstate := 4 }
      .next ({ s2 with loamNext := some m }.defer opActivate q stDone [BitVec.ofNat 8 (b2n b)])
    | none =>
      let s2 := setBank s1 b fun x => { x with lstate := 5 }
      .next ((dropLoam s2).defer opActivate q stState [])

/-! ### Tokens (R405 to R407) -/

/-- The 1,024 bytes of the token registers. -/
def tokenBytes (s : State) : Bytes := (List.range 256).flatMap fun w => leBytes 4 (s.regN (R.UPD_TOKEN w))

/-- The format of a token: MAGIC, KIND, the reserved bytes, and a PAYLOAD of zeros where the token carries none. -/
def tokenFormatOk (t : Bytes) : Bool :=
  let kind := leAt t 4 1
  let zero (a n : Nat) : Bool := ((t.drop a).take n).all (· == 0)
  (t.take 4 == [0x53, 0x4B, 0x4C, 0x43]) && (kind == 1 || kind == 2) && zero 7 1 && zero 0x14 44 && zero 0x1C0 192 &&
    (kind == 2 || leAt t 5 1 == 1 || zero 0x40 384)

/-- The transitions of R404. -/
def transitionOk (cur tgt : Nat) : Bool := [(0, 1), (1, 2), (1, 3), (2, 4), (3, 4)].contains (cur, tgt)

/-- FROM and TO are allowed: FROM is the state in force; a key load names the Loam signing key, in PROVISIONED or DEVELOPMENT. -/
def tokenTargetOk (s : State) (t : Bytes) : Bool :=
  leAt t 6 1 == s.lcs && (if leAt t 4 1 = 1 then transitionOk s.lcs (leAt t 5 1) else leAt t 5 1 == 1 && (s.lcs == 1 || s.lcs == 2))

/-- SEQ: above the stored key sequence for a key load, 0 for a transition. -/
def tokenSeqOk (s : State) (t : Bytes) : Bool :=
  if leAt t 4 1 = 1 then leAt t 0x10 4 == 0 else s.stored.keySeq.toNat < leAt t 0x10 4

/-- SIG verifies over bytes 0x000 to 0x27F (R406): under the owner key, or where FROM is MANUFACTURE under the Boniora manufacturing key. R408 does not say where the module holds that key, so its verdict is an operand (log 6). -/
def tokenSigned (s : State) (t : Bytes) (madeByBoniora : Bool) : Bool :=
  if leAt t 6 1 = 0 then madeByBoniora else pssVerify s.stored.ownerKey (sha256 (t.take 0x280)) ((t.drop 0x280).take 384)

/-- UPD_LCSTAT.FAIL of a token: the first failing check; in RETIRED every token fails with FROM or TO (R407). -/
def tokenFail (s : State) (t : Bytes) (madeByBoniora : Bool) : Nat :=
  if s.lcs = 4 then 3
  else if !tokenFormatOk t then 1
  else if leAt t 8 8 ≠ (s.wide R.GLB_SERIAL_LO).toNat then 2
  else if !tokenTargetOk s t then 3
  else if !tokenSigned s t madeByBoniora then 4
  else if !tokenSeqOk s t then 5
  else if s.level ≠ .stopped then 6
  else 0

/-- What a token that passes stores: the pending state, with the owner key on the way to PROVISIONED, or a new Loam signing key. -/
def tokenStore (s : State) (t : Bytes) : State :=
  let payload := (t.drop 0x40).take 384
  if leAt t 4 1 = 1 then
    { s with stored := { s.stored with pendLcs := BitVec.ofNat 3 (leAt t 5 1), ownerKey := if leAt t 5 1 = 1 then payload else s.stored.ownerKey } }
  else { s with stored := { s.stored with loamKeyNew := payload, keySeq := BitVec.ofNat 32 (leAt t 0x10 4) } }

/-- A write of UPD_LCCMD submits the token; while BUSY is 1 it has no effect (R407). -/
def lcCmdWrite (s : State) (v : Word) : State :=
  if v.getLsbD 0 && !s.upd.tokenBusy then { s with upd := { s.upd with tokenBusy := true } }.setReg R.UPD_LCSTAT 0 else s

/-- TOKEN_PROCESSED: the verdict, the effect of a pass, and the clearing of the token registers (R407); a power-fail warning holds it (R446). -/
def execTokenProcessed (madeByBoniora : Bool) (s : State) : Host.Outcome State Fault Refusal :=
  if s.upd.tokenBusy && !s.power.pfw then
    let t := tokenBytes s
    let f := tokenFail s t madeByBoniora
    let s1 := if f = 0 then tokenStore s t else s
    let s2 := { s1 with upd := { s1.upd with tokenBusy := false } }.setReg R.UPD_LCSTAT (BitVec.ofNat 32 (2 + 4 * b2n (f == 0) + 8 * f))
    .next (updEvent ((List.range 256).foldl (fun x w => x.setReg (R.UPD_TOKEN w) 0) s2) 5)
  else .next s

/-! ### Refreshes of flash (R490) -/

/-- The number of a region in the list of the refreshes. -/
def refreshNo : FlashRegion → Nat
  | .firmware0 => 0
  | .firmware1 => 1
  | .loam0 => 2
  | .loam1 => 3
  | .shale => 4
  | .config => 5

/-- The interval of 8,760 h in which the operating time lies. -/
def refreshPeriod (s : State) : Nat := s.optime / 31536000000

/-- An update session or an erase that it left behind holds an image region (R412). -/
def regionHeld (s : State) (b loam : Bool) : Bool :=
  (s.upd.sess.any fun x => x.bank == b && x.loam == loam) || s.upd.erasing == some (b, loam)

/-- A refresh of a region waits (R490): for a session that holds it, for the end of a power-fail warning, or for a RECORD_READ. -/
def refreshWaits (s : State) (r : FlashRegion) : Bool :=
  s.power.pfw || (match r with
    | .firmware0 => regionHeld s false false
    | .firmware1 => regionHeld s true false
    | .loam0 => regionHeld s false true
    | .loam1 => regionHeld s true true
    | .shale => !(rangesHeld s).isEmpty
    | .config => false)

/-- FLASH_REFRESH (R490): where the region has not been refreshed in this interval of operating time and nothing holds it, its bytes stand unchanged in a spare area; once they have been checked there that area is the current one, and a copy that fails leaves the earlier one in use. The stored bytes and the recorded CRCs stay. -/
def execFlashRefresh (r : Refresh) (s : State) : Host.Outcome State Fault Refusal :=
  if s.power.booted && !refreshWaits s r.region && r.copyOk && s.stored.refreshed.getD (refreshNo r.region) 0 != refreshPeriod s then
    .next { s with stored := { s.stored with refreshed := setAt s.stored.refreshed (refreshNo r.region) fun _ => refreshPeriod s } }
  else .next s

/-! ### UPD registers (R423) -/

/-- The UPD registers whose value the state holds elsewhere (R423). -/
def liveUPD (s : State) (off v : Nat) : Nat :=
  let bank (b : Bool) : Nat :=
    let x := bankOf s b
    x.fstate.toNat + x.fcause.toNat * 8 + b2n x.pref * 64 + x.lstate.toNat * 256 + b2n x.lact * 2048
  let ver (b : Bool) : Nat := if (bankOf s b).fstate = 0 then 0 else (bankOf s b).version.toNat
  let lver (b : Bool) : Nat := if (bankOf s b).lstate = 0 then 0 else (bankOf s b).lver.toNat
  if off = R.UPD_SESS then (s.upd.sess.map fun x => sessWord x + 2 ^ 16).getD v
  else if off = R.UPD_RECV then (s.upd.sess.map (·.recv)).getD v
  else if off = R.UPD_TOTAL then (s.upd.sess.map (·.total)).getD v
  else if off = R.UPD_BANK_STAT 0 then bank false
  else if off = R.UPD_BANK_STAT 1 then bank true
  else if off = R.UPD_BANK_VER 0 then ver false
  else if off = R.UPD_BANK_VER 1 then ver true
  else if off = R.UPD_BANK_SVN 0 then (bankOf s false).svn.toNat
  else if off = R.UPD_BANK_SVN 1 then (bankOf s true).svn.toNat
  else if off = R.UPD_BANK_LVER 0 then lver false
  else if off = R.UPD_BANK_LVER 1 then lver true
  else if off = R.UPD_FLOOR then svnFloor s
  else if off = R.UPD_TRIAL then
    match s.upd.trial with
    | none => 0
    | some b => 1 + 2 * b2n b + min ((s.upd.trialEnd - s.cyc.timeBase) / 1000000) 127 * 256
  else if off = R.UPD_BOOTCNT then s.bu.bootcnt.toNat
  else if off = R.UPD_LCSTAT then
    putFld (putFld (putFld v 0 1 (b2n s.upd.tokenBusy)) 6 3 s.stored.pendLcs.toNat) 9 1 (b2n (s.stored.pendLcs != s.bu.lcs))
  else v

end Sys2Proof.Machine
end

