-- ==== Sys2Proof/Machine/Requests.lean ====
section
/-! DEFINITION. The requests of the host and of PORT_MAINT, one command each: those the lanes carry out on their words, and those the module judges as a whole (MODE_REQUEST, LANE_RELEASE, LANE_REJOIN, STANDBY_SWITCH, RECORD_READ, the update opcodes, ATTEST). -/

namespace Sys2Proof.Machine

/-! ### The lanes' view -/

/-- What a lane's work rests on in the present state. -/
def ctxOf (s : State) (l : Lane) : Ctx :=
  { lane := l, loam := s.loam, level := s.level, cycle := s.cyc.cycle, mem := memberNo s, lcs := s.lcs,
    newTick := ((s.lanes.get l).snap.map (·.newTick)).getD false,
    standby := (isStandby s && (s.level.serves || s.sby.acting == .standby)) || s.sby.takeover == some s.cyc.cycle, recovery := s.upd.recovery }

/-- A code fault that a lane has just found stops it (R192). -/
def settleFault (s : State) (l : Lane) : State :=
  match (s.lanes.get l).cx with
  | none => s
  | some d => codeFault (s.updLane l fun x => { x with cx := none }) l d

/-- The code faults of all lanes. -/
def settleFaults (s : State) : State := allLanes.foldl settleFault s

/-- A request from PORT_MAINT waits for the next snapshot, which takes it after the host descriptors (R412); it is numbered by a count of its own, which no fetch sequence number reaches, and carries the buffer of its write. -/
def stageMaint (op : BitVec 16) (q : Req) (data : Bytes) (s : State) : State :=
  let n := ~~~s.hif.maintSeq
  { s with hif := { s.hif with
    maint := s.hif.maint ++ [(op, { q with seq := n })]
    maintSeq := s.hif.maintSeq + 1
    bufs := if op = opWrite then s.hif.bufs ++ [(n, data)] else s.hif.bufs } }

/-- A request that every running lane carries out on its words, in the order of the snapshot; one from PORT_MAINT enters the next snapshot. -/
def laneCommand (op : BitVec 16) (q : Req) (s : State) : State :=
  if q.maint then stageMaint op q [] s else settleFaults (s.onRunning fun l x => laneRequest (ctxOf s l) op q x)

/-! ### MODE_REQUEST (R44, R163, R494) -/

/-- The level that the members support (R44). -/
def supported (s : State) : Level :=
  match setSize (memberSet s) with
  | 3 => .full
  | 2 => .reduced
  | _ => .stopped

/-- Leaving STOPPED is allowed: the life-cycle state, a verified Loam image, no load in progress, Kiln passed, and eight cycles since reset and since the load (R163, R172, R404). -/
def mayLeave (s : State) : Bool :=
  (s.lcs == 2 || s.lcs == 3) && s.loam.isSome && !s.group.upd.loading && s.power.kilnDone && 8 ≤ s.cyc.cycle &&
    s.cyc.loadedAt + 8 ≤ s.cyc.cycle && s.level == .stopped && 2 ≤ setSize (memberSet s)

/-- RESULT of MODE_REQUEST: the level after and the level before. -/
def modeResult (s : State) (after : Level) : Bytes := [BitVec.ofNat 8 after.code, BitVec.ofNat 8 s.level.code]

/-- MODE_REQUEST, with PORT_KEY authority as a lane reads it (R44, R50, R494). -/
def judgeMode (s : State) (l : Lane) (q : Req) : State × Option (Nat × Bytes) :=
  let same := modeResult s s.level
  let key := match s.loam with | some m => keyAuthority (ctxOf s l) m (s.lanes.get l) (·.stop) | none => false
  let tgt := reqArg q 20 1
  if malformed opMode q then answered s stMalformed same
  else if q.maint then answered s stPort same
  else if s.upd.recovery then answered s stState same
  else if tgt = 0 then
    if !key then answered s stPort same
    else if s.level = .stopped then answered s stState same
    else answered { s with group := { s.group with modeTo := some .stopped } } stDone (modeResult s .stopped)
  else if 2 ≤ tgt ∧ mayLeave s then
    answered { s with group := { s.group with modeTo := some (supported s) } } stDone (modeResult s (supported s))
  else answered s stState same

/-! ### LANE_RELEASE and LANE_REJOIN (R219, R220) -/

/-- RESULT of LANE_RELEASE and LANE_REJOIN: the lane and its state. -/
def laneBytes (s : State) (n : Nat) : Bytes :=
  [BitVec.ofNat 8 n, BitVec.ofNat 8 ((laneOf n).elim 0 fun l => (s.lanes.get l).st.code)]

/-- LANE_RELEASE: pending until the verdict of its cycle (R219). -/
def judgeRelease (s : State) (q : Req) : State × Option (Nat × Bytes) :=
  let r := laneBytes s (reqArg q 20 1)
  if malformed opRelease q then answered s stMalformed r
  else if q.maint then answered s stPort r
  else if s.upd.recovery then answered s stState r
  else if s.level ≠ .full then answered s stLevel r
  else match laneOf (reqArg q 20 1) with
    | none => answered s stMalformed r
    | some l => ({ s with group := { s.group with release := s.group.release ++ [(l, q)] } }, none)

/-- The lane whose settings the group's decisions take: the lowest-lettered running member. -/
def judgeFrom (s : State) : Lane := (allLanes.find? fun l => (s.lanes.get l).running && (s.lanes.get l).st == .member).getD .a

/-- A rejoin begins: the lane enters COPY and is held in lane reset, its accumulators cleared (R193, R220), with the RJLIMIT of the present snapshot (R227); after a passed proof test it is not reset again, and its rail is lowered at this instant (R205, R225). -/
def beginRejoin (s : State) (l : Lane) (proof : Bool) : State :=
  let s1 := setLaneState (s.updLane l fun x => { x with running := false, inReset := !proof, rail := !proof, units := [], words := [], cx := none }) l .copy none
  let j : Rejoin := { lane := l, r := s.cyc.cycle, step := 1, fromA := [], fromB := [], ended := 0, k := none, silOk := 0, proof := proof, limit := ((s.snap.map (·.set.rjlimit)).getD (s.lanes.get (judgeFrom s)).set.rjlimit), gotRegions := false }
  { s1 with group := { s1.group with rejoin := some j } }.setReg R.LANE_RJSTAT (BitVec.ofNat 32 (laneNo l + 4))

/-- LANE_REJOIN (R220). -/
def judgeRejoin (s : State) (q : Req) : State × Option (Nat × Bytes) :=
  let r := laneBytes s (reqArg q 20 1)
  if malformed opRejoin q then answered s stMalformed r
  else if q.maint then answered s stPort r
  else if s.upd.recovery then answered s stState r
  else if s.level = .bedrock ∨ setSize (memberSet s) < 2 then answered s stLevel r
  else match laneOf (reqArg q 20 1) with
    | none => answered s stMalformed r
    | some l =>
      let st := (s.lanes.get l).st
      if s.level = .full ∨ st = .member ∨ st = .dead then answered s stState r
      else if s.group.rejoin.isSome ∨ s.group.proof.isSome then answered s stBusy r
      else let t := beginRejoin s l false; answered t stAccepted (laneBytes t (laneNo l))

/-! ### RECORD_READ (R400, R401) -/

/-- RECORD_READ: the range that the snapshot's numbers give; the IOI writes the records before the entry. Where none is returned the spec names no first record, and it is a free value. -/
def judgeRecords (s : State) (q : Req) : State × Option (Nat × Bytes) :=
  let first : Word := BitVec.ofNat 32 (reqArg q 20 4)
  let oldest := (s.snap.map (·.recOldest)).getD s.shale.oldest
  let last := (s.snap.map (·.recNewest)).getD (newest s)
  if malformed opRecord q then answered s stMalformed []
  else if q.maint && s.lcs != 2 then answered s stPort []
  else match recordRange oldest last first (reqArg q 24 2) with
    | none => answered s.drawn stDone (leBytes 4 (s.freeNow.toNat % 2 ^ 32) ++ leBytes 2 0)
    | some (no, n) =>
      let r := readRecords s no n
      let t := { r.1 with hif := { r.1.hif with reads := assocPut q.seq.toNat r.2 r.1.hif.reads } }
      answered t stDone (leBytes 4 no.toNat ++ leBytes 2 n)

/-! ### STANDBY_SWITCH (R359, R360) -/

/-- RESULT byte 12 of STANDBY_SWITCH (R360): 0 a paired module that has not committed ACTIVE, 1 active or alone. -/
def roleByte (s : State) : Bytes := [if commitsStandby s then 0 else 1]

/-- STANDBY_SWITCH: on success the handover begins with the commit of this cycle, or the next where that has passed, and the completion waits for its outcome. -/
def judgeSwitch (s : State) (q : Req) : State × Option (Nat × Bytes) :=
  let r := roleByte s
  if malformed opSwitch q then answered s stMalformed r
  else if q.maint then answered s stPort r
  else if s.upd.recovery ∨ s.sby.pairenNow = false then answered s stState r
  else if !s.level.serves then answered s stLevel r
  else if isStandby s = true ∨ (s.sby.partner.map (·.elig)).getD false = false then answered s stState r
  else if s.sby.handover.isSome then answered s stBusy r
  else ({ s with sby := { s.sby with handover := some (s.cyc.cycle + b2n s.cyc.committed), switchReq := some q } }, none)

/-! ### Every request that the module judges as a whole (R152) -/

/-- A request of the module by its opcode: the state after it, and its completion unless that is deferred. A reserved opcode is MALFORMED (R238). -/
def moduleRequest (s : State) (l : Lane) (op : BitVec 16) (q : Req) (data : Bytes) : State × Option (Nat × Bytes) :=
  match op.toNat with
  | 0x20 => judgeRecords s q
  | 0x30 => judgeOpen s q
  | 0x31 => judgeWrite s q data
  | 0x32 => judgeClose s q
  | 0x33 => judgeActivate s q
  | 0x34 => judgeHealth s q
  | 0x40 => judgeRelease s q
  | 0x41 => judgeRejoin s q
  | 0x50 => judgeAttest s q
  | 0x60 => judgeMode s l q
  | 0x70 => judgeSwitch s q
  | _ => answered s stMalformed []

/-- Whether an opcode is carried out by the lanes on their words. -/
def isLaneOp (op : BitVec 16) : Bool := (1 ≤ op.toNat && op.toNat ≤ 7) || op == 0x10 || op == 0x11

/-- The lane through which the module reads key authority: the lowest-lettered member that runs. -/
def judgeLane (s : State) : Lane := judgeFrom s

/-- A request of the module: judged once, and completed by every running lane; one from PORT_MAINT enters the next snapshot. -/
def moduleCommand (op : BitVec 16) (q : Req) (data : Bytes) (s : State) : State :=
  if q.maint then stageMaint op q data s else
  let r := moduleRequest s (judgeLane s) op q data
  match r.2 with
  | none => r.1
  | some a => r.1.complete (mkCmpl op q a.1 s.cyc.cycle a.2)

/-! ### The commands -/

/-- ROUTE_SET (R113). -/
def execRouteSet (q : Req) (s : State) : Host.Outcome State Fault Refusal := .next (laneCommand opRouteSet q s)

/-- ROUTE_CANCEL (R132). -/
def execRouteCancel (q : Req) (s : State) : Host.Outcome State Fault Refusal := .next (laneCommand opRouteCancel q s)

/-- ROUTE_RELEASE_EMERGENCY (R137). -/
def execRouteReleaseEmergency (q : Req) (s : State) : Host.Outcome State Fault Refusal := .next (laneCommand opEmergency q s)

/-- POINT_MOVE (R138). -/
def execPointMove (q : Req) (s : State) : Host.Outcome State Fault Refusal := .next (laneCommand opPointMove q s)

/-- SIGNAL_RESTORE (R138). -/
def execSignalRestore (q : Req) (s : State) : Host.Outcome State Fault Refusal := .next (laneCommand opRestore q s)

/-- ELEMENT_READ (R249). -/
def execElementRead (q : Req) (s : State) : Host.Outcome State Fault Refusal := .next (laneCommand opRead q s)

/-- A request with its ACTION byte set, byte 24 of the descriptor (R248). -/
def withAction (q : Req) (a : Byte) : Req := { q with args := q.args.set 4 a }

/-- ELEMENT_BLOCK with action block (R138). -/
def execElementBlockBlock (q : Req) (s : State) : Host.Outcome State Fault Refusal := .next (laneCommand opBlock (withAction q 1) s)

/-- ELEMENT_BLOCK with action unblock (R138). -/
def execElementBlockUnblock (q : Req) (s : State) : Host.Outcome State Fault Refusal := .next (laneCommand opBlock (withAction q 0) s)

/-- ELEMENT_BLOCK with action clear (R83, R138). -/
def execElementBlockClear (q : Req) (s : State) : Host.Outcome State Fault Refusal := .next (laneCommand opBlock (withAction q 2) s)

/-- PARAM_PROPOSE (R167). -/
def execParamPropose (q : Req) (s : State) : Host.Outcome State Fault Refusal := .next (laneCommand opPropose q s)

/-- PARAM_CONFIRM (R168). -/
def execParamConfirm (q : Req) (s : State) : Host.Outcome State Fault Refusal := .next (laneCommand opConfirm q s)

/-- RECORD_READ (R400). -/
def execRecordRead (q : Req) (s : State) : Host.Outcome State Fault Refusal := .next (moduleCommand opRecord q [] s)

/-- UPDATE_OPEN (R413). -/
def execUpdateOpen (q : Req) (s : State) : Host.Outcome State Fault Refusal := .next (moduleCommand opOpen q [] s)

/-- UPDATE_WRITE (R413); the operand is what the update engine reads from the buffer. -/
def execUpdateWrite (q : Req) (data : Bytes) (s : State) : Host.Outcome State Fault Refusal := .next (moduleCommand opWrite q data s)

/-- UPDATE_CLOSE (R413). -/
def execUpdateClose (q : Req) (s : State) : Host.Outcome State Fault Refusal := .next (moduleCommand opClose q [] s)

/-- UPDATE_ACTIVATE (R416, R419). -/
def execUpdateActivate (q : Req) (s : State) : Host.Outcome State Fault Refusal := .next (moduleCommand opActivate q [] s)

/-- UPDATE_CONFIRM_HEALTH (R418). -/
def execUpdateConfirmHealth (q : Req) (s : State) : Host.Outcome State Fault Refusal := .next (moduleCommand opHealth q [] s)

/-- LANE_RELEASE (R219). -/
def execLaneRelease (q : Req) (s : State) : Host.Outcome State Fault Refusal := .next (moduleCommand opRelease q [] s)

/-- LANE_REJOIN (R220). -/
def execLaneRejoin (q : Req) (s : State) : Host.Outcome State Fault Refusal := .next (moduleCommand opRejoin q [] s)

/-- ATTEST (R422). -/
def execAttest (q : Req) (s : State) : Host.Outcome State Fault Refusal := .next (moduleCommand opAttest q [] s)

/-- MODE_REQUEST (R44). -/
def execModeRequest (q : Req) (s : State) : Host.Outcome State Fault Refusal := .next (moduleCommand opMode q [] s)

/-- STANDBY_SWITCH (R360). -/
def execStandbySwitch (q : Req) (s : State) : Host.Outcome State Fault Refusal := .next (moduleCommand opSwitch q [] s)

/-- RESERVED_OPCODE: a descriptor whose opcode the table does not name completes with MALFORMED (R238); an opcode that is named acts as its own command does. -/
def execReservedOpcode (op : BitVec 16) (q : Req) (s : State) : Host.Outcome State Fault Refusal :=
  if isLaneOp op then .next (laneCommand op q s) else .next (moduleCommand op q [] s)

end Sys2Proof.Machine
end

