-- ==== Sys2Proof/Machine/Inputs.lean ====
section
/-! DEFINITION. What the lanes take from a snapshot and build for the networks: the codes of vital entries (R278, R316, R333), the validity of every input record (R23, R288, R317, R336, R375 to R377), and the command, safe-state and outgoing records with their messages (R41, R87, R492). -/

namespace Sys2Proof.Machine

/-! ### Codes (R278) -/

/-- Both codes check (R23). -/
def codesCheck (dirb : Nat) (obj : BitVec 24) (rcd : BitVec 16) (stamp : Nat) (c1 c2 : Word) : Bool :=
  let b := codeInput dirb obj rcd stamp
  vmp1 b == c1 && vmp2 b == c2

/-- ROUND lies in the window of R288 and R317: it is 1 to ⌊T_cyc / 5⌋ rounds before the round of t0. -/
def roundInWindow (tb tcyc : Nat) (round : Word) : Bool :=
  let d := (BitVec.ofNat 32 (tb / 1000) - round).toNat
  1 ≤ d && d ≤ tcyc / 5

/-! ### The VIO frame (R374, R375) -/

/-- The first two tests of R375: the CRC, and arrival no earlier than 100 µs before t0. -/
def vioTwo (tb : Nat) (f : VioIn) : Bool :=
  f.frame.length == 14 && (crc16 (f.frame.take 12)).toNat == beAt f.frame 12 2 && tb ≤ f.arrival + 100

/-- FCNT of an up frame. -/
def vioFcnt (f : VioIn) : BitVec 16 := BitVec.ofNat 16 (beAt f.frame 1 2)

/-- The third test of R375: FCNT has advanced by 40 × Δ, within ±3 %, modulo 2^16. -/
def vioAdvanced (r : VioRef) (tb : Nat) (f : VioIn) : Bool :=
  let want := 40 * ((tb - r.t0) / 1000)
  let got := (vioFcnt f - r.fcnt).toNat
  let off := ((got : Int) - (want % 65536 : Nat)).natAbs
  100 * min off (65536 - off) ≤ 3 * want

/-- Whether the frame of a snapshot is valid against the reference, if there is one (R375). -/
def vioValid (r : Option VioRef) (tb : Nat) : Option VioIn → Bool
  | none => false
  | some f => vioTwo tb f && (match r with | some r => vioAdvanced r tb f | none => false)

/-- The reference for the next cycle: this snapshot's frame where it passed the first two tests. -/
def vioNextRef (tb : Nat) : Option VioIn → Option VioRef
  | none => none
  | some f => if vioTwo tb f then some ⟨vioFcnt f, tb⟩ else none

/-! ### Records -/

/-- The record of a NET 0x1 element (R288). -/
def starRecord (sn : Snap) (tcyc : Nat) (e : Elem) : Option (BitVec 16) :=
  (sn.etlF.find? fun f => f.port == e.chan && f.obj == e.obj).bind fun f =>
    if codesCheck 0xA5 (f.pad ++ f.obj) f.record f.round.toNat f.code1 f.code2 && roundInWindow sn.tb tcyc f.round then some f.record else none

/-- The record of an incoming NET 0x2 element (R317). -/
def ringRecord (sn : Snap) (tcyc : Nat) (e : Elem) : Option (BitVec 16) :=
  (sn.etlR.find? fun f => f.obj == e.obj).bind fun f =>
    if codesCheck 0x3C (f.pad ++ f.obj) f.record (f.src.toNat * 2 ^ 32 + f.round.toNat) f.code1 f.code2 && f.src.toNat == e.obj.toNat / 2 ^ 15 &&
        roundInWindow sn.tb tcyc f.round then some f.record else none

/-- The record of a NET 0x3 element (R336). -/
def canRecord (sn : Snap) (e : Elem) : Option (BitVec 16) :=
  (sn.can.find? fun f => f.ctrl.toNat == e.chan.toNat && f.obj == e.obj).bind fun f =>
    if codesCheck 0x69 (f.pad ++ f.obj) f.record f.cycle.toNat f.code1 f.code2 && (f.cycle.toNat + 1) % 2 ^ 48 == sn.cycle % 2 ^ 48 then some f.record
    else none

/-- The output that a NET 0x4 element drives, if OUTV is 1 (R376). -/
def vioOutOf (e : Elem) : Option Nat := if bitOf e.obj.toNat 16 then some (fld e.obj.toNat 12 4) else none

/-- The record of a NET 0x4 element from a valid frame (R376, R377); `on` holds the outputs committed on in the cycle before. -/
def vioRecord (f : VioIn) (on : BitVec 16) (e : Elem) : Option (BitVec 16) :=
  let o := e.obj.toNat
  let pins := beAt f.frame 4 4
  let proven := beAt f.frame 8 2
  if bitOf (beAt f.frame 3 1) 0 then none
  else
    let a := if bitOf o 5 then b2n (bitOf pins (fld o 0 5) != bitOf o 17) else 0
    let b := if bitOf o 11 then b2n (bitOf pins (fld o 6 5)) else 0
    match vioOutOf e with
    | none => some (BitVec.ofNat 16 (a + 2 * b))
    | some k => if bitOf proven k then some (BitVec.ofNat 16 (a + 2 * b + 0x8000 * b2n (on.getLsbD k))) else none

/-- The valid input record of an element in a snapshot, if it has one. -/
def inputRecord (mem : Nat) (sn : Snap) (tcyc : Nat) (vioOk : Bool) (on : BitVec 16) (e : Elem) : Option (BitVec 16) :=
  if !takesInput mem e then none
  else match e.net.toNat with
    | 1 => starRecord sn tcyc e
    | 2 => ringRecord sn tcyc e
    | 3 => canRecord sn e
    | 4 => if vioOk then sn.vio.bind fun f => vioRecord f on e else none
    | _ => none

/-- A lane takes a snapshot's inputs: the VIO frame first, then the record of every element that takes one. -/
def takeInputs (mem : Nat) (m : Option Loam) (sn : Snap) (x : LaneSt) : LaneSt :=
  let ok := vioValid x.vioRef sn.tb sn.vio
  let cf := match sn.vio with | some f => !ok || bitOf (beAt f.frame 3 1) 0 | none => true
  let ins := match m with
    | none => []
    | some m => m.elems.zipIdx.filterMap fun p => (inputRecord mem sn x.set.tcyc ok x.outOn p.1).map fun r => (p.2, r)
  { x with vioRef := vioNextRef sn.tb sn.vio, vioOk := ok, vioCf := cf, prevInputs := x.inputs, inputs := ins }

/-- The elements whose input record or its validity differs from the previous snapshot (R98). -/
def changedInputs (m : Loam) (x : LaneSt) : List ElemIx :=
  (List.range m.elems.length).filter fun i => assoc i x.inputs != assoc i x.prevInputs

/-- The KEY elements, dirty at the start of every LOGIC (R92, R98). -/
def keyElems (m : Loam) : List ElemIx := (List.range m.elems.length).filter fun i => (m.elem i).ty == tyKey

/-! ### Outgoing records -/

/-- A field of an outgoing record: lowest bit and width of the word's field, its lowest bit in the record, and whether the record carries the complement. -/
abbrev RecField := Nat × Nat × Nat × Bool

/-- The record that fields of a word make. -/
def fieldsRecord (w : Info) (fs : List RecField) : BitVec 16 :=
  BitVec.ofNat 16 ((fs.map fun f => 2 ^ f.2.2.1 * (if f.2.2.2 then 2 ^ f.2.1 - 1 - ifld w f.1 f.2.1 else ifld w f.1 f.2.1)).sum)

/-- The same record as the shadow pass builds it, transformed, from the fields of a transformed word (R184, R190). -/
def fieldsDual (l : Lane) (tw : Info) (fs : List RecField) : BitVec 16 :=
  (BitVec.ofNat 16 (65535 - (fs.map fun f => 2 ^ f.2.2.1 * (if f.2.2.2 then dualField l tw f.1 f.2.1 else 2 ^ f.2.1 - 1 - dualField l tw f.1 f.2.1)).sum)).rotateLeft (rotL l % 16)

/-- The fields of an element type's command record (R87); none for a type that sends none. -/
def commandFields (t : Nat) : Option (List RecField) :=
  match t with
  | 2 => some [(7, 2, 0, false)]
  | 3 => some [(7, 4, 0, false)]
  | 4 => some [(7, 2, 0, false), (5, 1, 2, false)]
  | 9 => some [(15, 1, 0, false)]
  | 10 => some [(18, 1, 0, false), (16, 2, 1, false)]
  | 11 => some [(18, 1, 0, false)]
  | _ => none

/-- The command record of an element type from its word (R87). -/
def commandRecord (t : Nat) (w : Info) : Option (BitVec 16) := (commandFields t).map (fieldsRecord w)

/-- The safe-state command of an element type (R41). -/
def safeRecord (t : Nat) : Option (BitVec 16) :=
  match t with
  | 2 => some 0
  | 3 => some 0
  | 4 => some 4
  | 9 => some 0
  | 10 => some 0
  | 11 => some 0
  | _ => none

/-- The fields of the record of an outgoing NET 0x2 element (R492). -/
def peerFields (t : Nat) : Option (List RecField) :=
  match t with
  | 1 => some [(10, 1, 0, true)]
  | 2 => some [(9, 2, 0, false)]
  | 3 => some [(3, 4, 0, false)]
  | 4 => some [(9, 2, 0, false), (6, 1, 2, false)]
  | 9 => some [(18, 1, 0, false), (15, 1, 1, true)]
  | 10 => some [(15, 1, 0, false)]
  | 11 => some [(18, 1, 0, false)]
  | _ => none

/-- The record of an outgoing NET 0x2 element from its word (R492). -/
def peerRecord (t : Nat) (w : Info) : Option (BitVec 16) := (peerFields t).map (fieldsRecord w)

/-- The message of a command record on the element's network (R278, R333, R374); none on the ring, where only outgoing elements send. -/
def commandMsg (cycle : Nat) (e : Elem) (rcd : BitVec 16) : Option Msg :=
  match e.net.toNat with
  | 1 => some (message .etlF 0x5A e.chan e.obj rcd (cycle % 2 ^ 48))
  | 3 => some (message .can 0x96 e.chan e.obj rcd (cycle % 2 ^ 48))
  | 4 => (vioOutOf e).map fun k => { net := .vio, chan := BitVec.ofNat 4 k, obj := e.obj, record := rcd, code1 := 0, code2 := 0 }
  | _ => none

/-- The message of an outgoing element (R316). Its codes stand for ROUND 0 until a frame carries it: they are taken for that frame's ROUND (log 20). -/
def peerMsg (mem : Nat) (e : Elem) (rcd : BitVec 16) : Msg :=
  message .etlR 0x3C 0 e.obj rcd (mem * 2 ^ 32)

/-- The record that an element sends in a cycle (R41, R87, R492): its outgoing record, its command record, or its safe-state command. -/
def elemRecord (c : Ctx) (safe : Bool) (x : LaneSt) (i : ElemIx) (e : Elem) : Option (BitVec 16) :=
  let w := infoOf c x i
  if !e.field then none
  else if outgoing c.mem e then (if c.level.serves && 2 ≤ ifld w 22 2 then peerRecord e.ty w else none)
  else if safe then safeRecord e.ty
  else commandRecord e.ty w

/-- The same record in the shadow pass, from the transformed word, brought back by the inverse transform (R184, R190). -/
def elemShadow (c : Ctx) (safe : Bool) (x : LaneSt) (i : ElemIx) (e : Elem) : Option (BitVec 16) :=
  let l := c.lane
  let tw := shadowFwd l (infoOf c x i)
  if !e.field then none
  else if outgoing c.mem e then (if c.level.serves && dualField l tw 22 2 ≤ 1 then (peerFields e.ty).map fun fs => shadowInv l (fieldsDual l tw fs) else none)
  else if safe then (safeRecord e.ty).map fun r => shadowInv l (shadowFwd l r)
  else (commandFields e.ty).map fun fs => shadowInv l (fieldsDual l tw fs)

/-- The message of one element in a cycle (R41, R87, R492). -/
def elemMsg (c : Ctx) (safe : Bool) (x : LaneSt) (i : ElemIx) (e : Elem) : Option Msg :=
  (elemRecord c safe x i e).bind fun r => if outgoing c.mem e then some (peerMsg c.mem e r) else commandMsg c.cycle e r

/-- The primary step of assembly on an element: its word is loaded and checked, and the record that it sends waits in a delay register (R181, R190). An element that sends nothing is only loaded. -/
def assemblePrimary (c : Ctx) (m : Loam) (safe : Bool) (x : LaneSt) (i : ElemIx) : LaneSt :=
  if x.cx.isSome then x
  else if !loadOk c m x i then x.faulted 1 ctlUnit i
  else match elemRecord c safe x i (m.elem i) with
    | none => x
    | some r => x.issue ctlUnit ⟨i, r.setWidth 24, 0⟩

/-- Its shadow step: the two records are compared; the term of the message enters with the stream's (R191, R193). -/
def assembleShadow (c : Ctx) (m : Loam) (safe : Bool) (x : LaneSt) (i : ElemIx) : LaneSt :=
  if x.cx.isSome then x
  else if !loadOkShadow c m x i then x.faulted 1 ctlUnit i
  else match elemRecord c safe x i (m.elem i) with
    | none => x
    | some r => x.compareTerm (fun _ => 0) ctlUnit (((elemShadow c safe x i (m.elem i)).getD (~~~r)).setWidth 24) 0 fun z _ => z

/-- A slot of assembly: a primary step, and then a shadow step. -/
def assembleSlot (c : Ctx) (m : Loam) (safe : Bool) (x : LaneSt) (p : Option ElemIx × Option ElemIx) : LaneSt :=
  let y := match p.1 with | some i => assemblePrimary c m safe x i | none => x
  match p.2 with | some i => assembleShadow c m safe y i | none => y

/-- Assembly of the field-bound elements by the lane controller, the shadow pass one step behind (R190). -/
def assembleElems (c : Ctx) (m : Loam) (safe : Bool) (x : LaneSt) : LaneSt :=
  (interleave 1 ((List.range m.elems.length).filter fun i => (m.elem i).field)).foldl (assembleSlot c m safe) x

/-- The place of a message in ascending network, channel and OBJ (R290). -/
def msgKey (m : Msg) : Nat :=
  (match m.net with | .etlF => 0 | .etlR => 1 | .can => 2 | .vio => 3 | .pair => 4) * 2 ^ 24 + m.chan.toNat * 2 ^ 20 + m.obj.toNat

/-- The messages of a cycle (R24, R161). -/
def fieldMsgs (c : Ctx) (m : Loam) (safe : Bool) (x : LaneSt) : List Msg :=
  sortBy (fun a b => msgKey a ≤ msgKey b) (m.elems.zipIdx.filterMap fun p => elemMsg c safe x p.2 p.1)

end Sys2Proof.Machine
end

