-- ==== Sys2Proof/Machine/Sums.lean ====
section
/-! DEFINITION. The words of a snapshot with their digest (R16, R19, R147, R208, R212, R242). -/

namespace Sys2Proof.Machine

/-! ### The words of a snapshot (R16, R19, R147, R208, R212, R242) -/

/-- Bytes as words of eight, the lowest byte first. -/
def wordsOf : Nat → Bytes → List DWord
  | 0, _ => []
  | k + 1, b => if b.isEmpty then [] else BitVec.ofNat 64 (leAt b 0 8) :: wordsOf k (b.drop 8)

/-- The 64 bytes of a descriptor as fetched (R237). -/
def descBytes (op : BitVec 16) (q : Req) : Bytes :=
  padTo 64 (leBytes 2 op.toNat ++ leBytes 2 q.flags.toNat ++ leBytes 4 q.tag.toNat ++ leBytes 8 q.bufaddr.toNat ++ leBytes 4 q.length.toNat ++ q.args)

/-- The nine words of a descriptor (R242). -/
def descWords (d : BitVec 16 × Req) : List DWord :=
  wordsOf 8 (descBytes d.1 d.2) ++ [Config.transportWord d.2.sq d.2.index d.2.seq d.2.bufFailed]

/-- The verdict word (R212). -/
def verdictWord : Option Verdict → DWord
  | none => Config.verdictWord []
  | some v => Config.verdictWord ([v.members.toNat, v.agree.toNat, v.excluded.toNat] ++ match v.check with | none => [] | some r => [r.toNat, v.voted.toNat])

/-- The numbers of an engine's report (R413). -/
def progressNums (p : Progress) : List Nat :=
  let region (r : List (Nat × Bool)) : List Nat := r.length :: r.flatMap fun x => [x.1, b2n x.2]
  (match p.sess with | none => [0] | some x => [1, x.num, b2n x.loam, b2n x.maint, x.total, x.recv]) ++ region p.readyF ++ region p.readyL ++
  (match p.trial with | none => [0] | some b => [1, b2n b]) ++ [p.trialEnd, b2n p.loading, b2n p.attesting]

/-- The numbers of the register values that a snapshot carries (R60). -/
def settingNums (x : Settings) : List Nat :=
  [x.wsteps, x.wavelife, x.searchmax, x.offset, x.window, x.reqmax, x.tcyc, x.rjlimit, x.cplimit, b2n x.dbg]

/-- The words of a copy block that a snapshot delivers: its header and entries, and its codes (R352). -/
def copyWordsOf (b : CopyBlock) : List DWord :=
  let c := blockBytes b.cycle b.number b.body
  wordsOf (c.length / 8 + 1) c ++ [b.code2 ++ b.code1]

/-- The words of a snapshot: the time-base word, the verdict word, nine words for each descriptor, two for each input entry, the VIO up frame, the management-plane data and the copy blocks. The order after the second word is the model's (log 2). -/
def snapWords (sn : Snap) : List DWord :=
  [BitVec.ofNat 64 sn.tb, verdictWord sn.verdict] ++ sn.descs.flatMap descWords ++
  (sn.etlF.flatMap fun f => Config.entryWords 1 f.port.toNat (f.pad ++ f.obj) f.record f.code1 f.code2 f.round.toNat) ++
  (sn.etlR.flatMap fun f => Config.entryWords 2 f.src.toNat (f.pad ++ f.obj) f.record f.code1 f.code2 f.round.toNat) ++
  (sn.can.flatMap fun f => Config.entryWords 3 f.ctrl.toNat (f.pad ++ f.obj) f.record f.code1 f.code2 f.cycle.toNat) ++
  (match sn.vio with | none => [] | some f => wordsOf 2 f.frame ++ Config.planeWords [f.arrival]) ++
  Config.planeWords ([sn.cycle, b2n sn.newTick, b2n sn.holdLost, sn.recOldest.toNat, sn.recNewest.toNat, b2n sn.align] ++ settingNums sn.set ++ progressNums sn.upd ++
    sn.brks.map BitVec.toNat ++ [b2n sn.halt, sn.shown.length] ++ sn.shown.flatMap fun e => [e.1.toNat, e.2.1.seq.toNat, e.2.2.1, leNat e.2.2.2]) ++
  sn.copies.flatMap copyWordsOf

/-- The snapshot digest: the CRC-64/ECMA-182 over every word in the order of delivery (R208). -/
def snapDigest (sn : Snap) : DWord := crc64 ((snapWords sn).flatMap fun w => leBytes 8 w.toNat)

end Sys2Proof.Machine
end

