-- ==== Sys2Proof/Machine/Boundary.lean ====
section
/-! DEFINITION. The cycle boundary and CONSENSUS: where t0 falls (R145, R146, R311), what takes effect at it (R44, R45, R163, R173, R219, R221 to R226, R432), the snapshot (R19, R20, R147, R159, R212), the t0 faults (R148, R450), the halt points of a phase entry (R199, R200), and the comparison of the snapshot digests (R22, R149, R151, R212, R215). -/

namespace Sys2Proof.Machine

/-! ### Check words (R215) -/

/-- The lane that presents the complement in cycle n. -/
def checkNamed (n : Nat) : Option Lane :=
  match n % 4 with
  | 1 => some .a
  | 2 => some .b
  | 3 => some .c
  | _ => none

/-- The check word of a lane in cycle n. -/
def checkWordOf (l : Lane) (n : Nat) : DWord :=
  let v : DWord := BitVec.ofNat 64 (n * phi)
  if checkNamed n = some l then ~~~v else v

/-- The lanes whose word equals another's. -/
def agreeingWords (ws : List (Lane × DWord)) : BitVec 3 :=
  setOf ((ws.filter fun p => ws.any fun q => q.1 != p.1 && q.2 == p.2).map (·.1))

/-- The result that the check words of a set of lanes require in cycle n. -/
def requiredCheck (m : BitVec 3) (n : Nat) : BitVec 3 := agreeingWords ((lanesOf m).map fun l => (l, checkWordOf l n))

/-- The result in a verdict word differs from the one that the members of its cycle require: a Sieve self-check failure. The members that were not excluded in the cycle are all compared (R215). -/
def selfCheckBad (v : Verdict) : Bool :=
  (v.before &&& ~~~v.excluded) &&& ~~~v.voted != 0 || v.check != some (requiredCheck v.voted v.cycle)

/-! ### Halt points (R199, R200) -/

/-- Debug is enabled, as the register holds it (R198). -/
def dbgOn (s : State) : Bool := s.regBit R.DBG_CTRL 0

/-- Debug is enabled as a lane knows it: from the latest snapshot that it has taken (R60, R198). -/
def laneDbg (s : State) (l : Lane) : Bool := (s.lanes.get l).set.dbg

/-- A lane halts at a point: its rail rises, and the registers show the point (R200, R202). RESUME goes on from the same point; the entries of INPUT, CONSENSUS and EXCHANGE lie behind the work of their command, so there the next halt point follows. The HALT that it met is spent. -/
def haltLane (s : State) (l : Lane) (phase stage stratum ripple : Nat) : State :=
  let s1 := s.updLane l fun x => { x with dbgHold := true, armed := false, passHalt := phase != 0 && phase != 1 && phase != 4 }
  let s2 := s1.setReg R.DBG_HALTPT (BitVec.ofNat 32 (phase + stage * 8 + stratum % 8 * 32 + min ripple 255 * 256))
  let n := s.cycle
  settleHold ((s2.setReg R.DBG_HALTCYC_LO (BitVec.ofNat 32 n)).setReg R.DBG_HALTCYC_HI (BitVec.ofNat 32 (n / 2 ^ 32)))

/-- A halt point: a lane that has just been resumed at it goes on; otherwise it halts where a HALT is pending or a breakpoint matches. The answer tells whether the lane goes on. -/
def haltPoint (s : State) (l : Lane) (phase stage stratum ripple : Nat) (hit : Word → Bool) : State × Bool :=
  if (s.lanes.get l).passHalt then (s.updLane l fun x => { x with passHalt := false }, true)
  else if laneDbg s l && (s.lanes.get l).running && ((s.lanes.get l).armed || (s.lanes.get l).brks.any hit) then (haltLane s l phase stage stratum ripple, false)
  else (s, true)

/-- A breakpoint at the entry of a phase. -/
def phaseHit (phase : Nat) (w : Word) : Bool := fld w.toNat 26 3 == 3 && fld w.toNat 23 3 == phase

/-- The entry of a phase in a lane. -/
def phaseEntry (s : State) (l : Lane) (phase : Nat) : State × Bool := haltPoint s l phase 0 0 0 (phaseHit phase)

/-- The entry of a phase in every running lane. -/
def phaseEntries (s : State) (phase : Nat) : State :=
  allLanes.foldl (fun t l => if (t.lanes.get l).running then (phaseEntry t l phase).1 else t) s

/-! ### Where t0 falls (R145, R146) -/

/-- The least multiple of k that is at least t. -/
def roundUp (t k : Nat) : Nat := (t + k - 1) / k * k

/-- The boundary leaves STOPPED for the level that the members support (R44, R163). -/
def leavesStopped (s : State) : Bool :=
  s.level == .stopped && !s.sieve.latch && (match s.group.modeTo with | some .full => true | some .reduced => true | _ => false) &&
    (supported s).serves

/-- T_cyc from the next t0 onwards (R145). -/
def nextTcyc (s : State) : Nat :=
  if leavesStopped s then (s.snap.map (·.set.tcyc)).getD s.cyc.tcyc else s.cyc.tcycNext

/-- The time-base count of the next t0, the halted time left out (R145, R146, R200); that of a ring member's cycle 0 comes one round after its start-up completes, so no condition of it was still open then (R311); it falls on a round start (R273), so the halted time counts in whole rounds (log 35). -/
def nextT0 (s : State) : Nat :=
  if s.cyc.started then
    let t := s.cyc.lastT0 + 1000 * s.cyc.tcyc + roundUp s.cyc.halted 1000
    if nextTcyc s = s.cyc.tcyc then t else roundUp t (1000 * nextTcyc s)
  else if s.regBit R.FRN_CTRL 0 then roundUp (max s.cyc.timeBase (s.cyc.startFrom + 1000)) (1000 * s.cyc.tcyc)
  else roundUp s.cyc.timeBase 1000

/-- The member is SYNCED or is itself master (R311). -/
def ringReady (s : State) : Bool := s.regF R.FRN_STAT 0 3 == 5 || s.regF R.FRN_STAT 3 2 == 1

/-- The IOI's start-up has completed (R146, R311, R349). -/
def startupDone (s : State) : Bool :=
  if s.regBit R.FRN_CTRL 0 then ringReady s
  else !s.sby.pairenNow || s.sby.timeDone || s.sby.waitOver || s.sby.strap

/-- The IOI raises t0: the module runs, Kiln has let it start, its start-up is complete, and no lane is halted (R200, R429). -/
def t0Due (s : State) : Bool :=
  !s.power.por && s.power.booted && s.power.kilnDone && !s.power.refused && !s.power.retired && !s.power.ioiLost && !anyHold s && (s.cyc.started || startupDone s)

/-! ### What takes effect at the boundary -/

/-- A pending release, by the verdict of its cycle (R219): its completion is written at the commit of the cycle that begins. -/
def carryRelease (v : Option Verdict) (s : State) (lq : Lane × Req) : State :=
  let l := lq.1
  let done (t : State) (st : Nat) : State := t.defer opRelease lq.2 st (laneBytes t (laneNo l))
  if (s.lanes.get l).st ≠ .member then done s stDone
  else if setSize (memberSet s) = 3 ∧ s.level = .full ∧ (v.map (·.excluded)).getD 7 = 0 then
    done (setLaneState (stopLane s l) l .released (some 7)) stDone
  else done s stLevel

/-- Every pending release. -/
def carryReleases (v : Option Verdict) (s : State) : State :=
  s.group.release.foldl (carryRelease v) { s with group := { s.group with release := [] } }

/-- A ROUTE_SET whose wave is withdrawn completes with SERVICE_LEVEL (R47); that of an inherited wave is the former active's (R358). -/
def withdrawWaves (cycle : Nat) (x : LaneSt) : LaneSt :=
  (x.reg.waves.filter fun w => !w.copied).foldl (fun y w => y.complete (mkCmpl opRouteSet w.req stLevel cycle (routeResult w.rte 0 0 none))) x

/-- Every lane starts afresh from the words of R93, its waves withdrawn (R47, R164, R173). -/
def freshLanes (s : State) : State :=
  s.updLanes fun l x => if x.running then (withdrawWaves s.cyc.cycle x).freshStart (memberNo s) l s.loam s.cyc.cycle else x

/-- A request for STOPPED takes effect at this boundary (R44): the Sieve's latch is clear, and two lanes agree. -/
def entersStopped (s : State) : Bool :=
  s.group.modeTo == some .stopped && !s.sieve.latch && s.level != .stopped && decide (2 ≤ setSize (memberSet s))

/-- The one change of level of a boundary, with its cause (R44, R45, R226): automatic causes come before requests, and the lowest resulting level is taken. `lost` tells that a t0 fault has taken a member. -/
def boundaryChange (lost : Bool) (s : State) : Option (Level × Nat) :=
  let n := setSize (memberSet s)
  match s.level with
  | .stopped => if leavesStopped s then some (supported s, 1) else none
  | .bedrock => if entersStopped s then some (.stopped, 1) else none
  | .full => if n < 2 then some (.bedrock, 5) else if entersStopped s then some (.stopped, 1)
      else if n = 2 then some (.reduced, if lost then 2 else 3) else none
  | .reduced => if n < 2 then some (.bedrock, 5) else if entersStopped s then some (.stopped, 1)
      else if n = 3 then some (.full, 4) else none

/-- The level of the cycle that begins: on leaving STOPPED the lanes take the settings of the snapshot that carried the request (R143, R163), and a T_cyc written since that snapshot enters the next one (R145); on entering it every lane starts afresh (R164). An admission that changes no level raises source 68 by itself (R220). -/
def boundaryLevel (lost admitted : Bool) (s : State) : State :=
  let s1 := { s with group := { s.group with modeTo := none }, cyc := { s.cyc with moved := (boundaryChange lost s).isSome } }
  match boundaryChange lost s with
  | none => if admitted then evgRaise s1 68 else s1
  | some (tgt, cause) =>
    let s2 := changeLevel s1 tgt cause
    if tgt = .stopped then freshLanes s2
    else if s.level = .stopped then
      let set := (s.snap.map (·.set)).getD Settings.reset
      ({ s2 with cyc := { s2.cyc with tcycW := if s2.cyc.tcycLate then s2.cyc.tcycW else s2.cyc.tcyc } } : State).updLanes fun _ x => { x with set := { set with dbg := x.set.dbg } }
    else s2

/-- A Loam image that has passed its checks takes effect (R173). -/
def carryLoam (s : State) : State :=
  match s.loamNext with
  | none => s
  | some m => freshLanes { s with loam := some m, loamNext := none, cyc := { s.cyc with loadedAt := s.cyc.cycle } }

/-- A member that was taken for a direct run leaves the group, and enters COPY with CAUSE 0xB (R217, R432). -/
def carryDirect (s : State) : State :=
  match s.group.directLeave with
  | none => s
  | some l => setLaneState (stopLane { s with group := { s.group with directLeave := none } } l) l .copy (some 0xB)

/-- What a lane holds besides the copied words once its copy is complete: its epochs at r, and what it has taken from the snapshots and agreed at the commits, as the members hold it (R222). -/
def silentStart (s : State) (r : Rejoin) : State :=
  let from0 := (allLanes.find? fun l => (s.lanes.get l).st == .member && (s.lanes.get l).running).map s.lanes.get
  s.updLane r.lane fun x =>
    let y := { x with running := true, eOld := r.r, eCur := r.r, stepped := [], timers := [], cx := none, units := [], words := [], presented := [] }
    match from0 with
    | none => y
    | some m => { y with set := m.set, brks := m.brks, inputs := m.inputs, prevInputs := m.prevInputs, vioRef := m.vioRef, vioOk := m.vioOk, vioCf := m.vioCf,
                         outOn := m.outOn, logicDone := m.logicDone, logicPrev := m.logicPrev }

/-- Every copy word and every resend has been delivered: the returning lane holds the information words, the regions and the signature that the lowest-lettered member holds (R222). -/
def copyHeld (s : State) (r : Rejoin) : Bool :=
  match allLanes.find? fun l => (s.lanes.get l).st == .member && (s.lanes.get l).running with
  | none => false
  | some l =>
    let x := s.lanes.get r.lane
    let y := s.lanes.get l
    x.reg == y.reg && x.sigma == y.sigma &&
      (List.range ((s.loam.map (·.elems.length)).getD 0)).all fun i => sramInfo r.lane x.sram i == sramInfo l y.sram i

/-- The conditions of R222 hold at the end of cycle k. -/
def copyDone (s : State) (r : Rejoin) (k : Nat) : Bool :=
  r.step == 2 && r.r + 3 ≤ k && r.ended == 3 && r.fromA.isEmpty && r.fromB.isEmpty && copyHeld s r

/-- The copy is past its last cycle, r + 1 + RJLIMIT (R222). -/
def copyLate (r : Rejoin) (k : Nat) : Bool := decide (r.r + 1 + r.limit < k)

/-- The returning lane is admitted (R223, R226). -/
def admitLane (s : State) (r : Rejoin) : State :=
  let s1 := setLaneState ((rejoinEnded s 1).bump R.LANE_RJCNT 1) r.lane .member none
  if r.proof then (s1.setF R.LANE_PTSTAT 4 2 1).setF R.LANE_PTSTAT 6 1 0 else s1

/-- One evaluator of a lane is disabled (R197, R428). -/
def disableEval (s : State) (l : Lane) (n : Nat) : State :=
  (s.updLane l fun x => { x with evalOff := some (BitVec.ofNat 6 n) }).setF R.KLN_EVDIS (8 * laneNo l) 7 (n % 64 + 64)

/-- The cases of R196 for a comparator and its rail checker: a difference at each of the 48 positions, injected on either side with the bit at 0 and at 1, gives disagree; equal words give agree; forced rails are reported invalid. -/
def comparatorCases : Bool :=
  ((List.range 48).all fun b => [0, 2 ^ 48 - 1].all fun v => railVerdict (rails48 (v ^^^ 2 ^ b) v) == some false && railVerdict (rails48 v (v ^^^ 2 ^ b)) == some false) &&
    [0, 2 ^ 48 - 1].all (fun v => railVerdict (rails48 v v) == some true) && railVerdict 0 == none && railVerdict 3 == none

/-- The cases of R196 for a delay register: the four patterns, with the element index field at the same, read as written. -/
def delayCases : Bool :=
  [0, 2 ^ 48 - 1, 0x555555555555, 0xAAAAAAAAAAAA].all fun v =>
    let r : DelayReg := ⟨v % 2 ^ 23, BitVec.ofNat 24 v, v / 2 ^ 24⟩
    ((LaneSt.reset.issue 0 r).unit 0).delay == [r]

/-- The case of R196 for the residue unit: the chapter's worked example, for the lane's own constants. -/
def residueCase (l : Lane) : Bool := checkField l 0xD00A80 5008 == checkShadow l (shadowInv l (shadowFwd l (0xD00A80 : Info))) 5008

/-- The compare-path cases on a lane's own hardware (R196). -/
def pathCases (l : Lane) : Bool := comparatorCases && delayCases && residueCase l

/-- The compare-path failures of a lane: tests 0x1 and 0x2 of its blocks 0 to 64 (R196, R426). -/
def pathFailures (l : Lane) (fs : List KilnFail) : List Nat :=
  ((fs.filter fun f => f.unit.toNat == laneNo l && f.block.toNat ≤ 64 && (f.test == 1 || f.test == 2)).map fun f => f.block.toNat).dedup

/-- The returning lane leaves reset and runs the compare-path cases of R196 on its own hardware: an evaluator that fails is disabled, and two of them or the controller's part end the rejoin with RESULT 0x2 (R197, R221), and so does a missing rail or a die that has not cooled since its trip, in lane reset as before (R438, R454; log 62). -/
def rejoinTest (s : State) (r : Rejoin) (tested : List KilnFail) : State :=
  if (s.lanes.get r.lane).hot || !railsHeld s r.lane then rejoinFail s 2 9 else
  let s1 := s.updLane r.lane fun x => { x with inReset := false, rail := false }
  let off := ((s.lanes.get r.lane).evalOff.map (·.toNat)).toList ++ (if pathCases r.lane then [] else [ctlUnit])
  match (pathFailures r.lane tested ++ off).dedup with
  | [] => s1
  | [n] => if n = ctlUnit then rejoinFail s1 2 9 else disableEval s1 r.lane n
  | _ => rejoinFail s1 2 9

/-- The step of a rejoin at a boundary, in the cycle that begins (R221 to R223). LANE_COPYCYC counts the cycles of the copy and stands from its completion on (DESIGN CHOICE, log 74: R227 says only "since the copy began"). -/
def carryRejoin (tested : List KilnFail) (s : State) : State :=
  match s.group.rejoin with
  | none => s
  | some r =>
    let n := s.cyc.cycle
    let put (t : State) (j : Rejoin) : State := { t with group := { t.group with rejoin := some j } }
    if r.step = 1 ∧ r.r + 1 = n then rejoinTest s r tested
    else if r.step = 1 then
      ((put s { r with step := 2 }).setF R.LANE_RJSTAT 2 3 2 |>.setReg R.LANE_COPYWORDS 0).setReg R.LANE_COPYCYC 0
    else if r.step = 2 ∧ (copyLate r (n - 1) ∨ copyDone s r (n - 1) = false ∧ copyLate r n) then rejoinFail s 4 9
    else if copyDone s r (n - 1) then
      (silentStart (setLaneState (put s { r with step := 3, k := some (n - 1) }) r.lane .silent none) r).setF R.LANE_RJSTAT 2 3 3
    else if r.step = 2 then s.bumpSat R.LANE_COPYCYC 0 12
    else match r.k with
      | none => s
      | some k => if n < k + 4 then s else if r.silOk = 3 then admitLane s r else rejoinFail s 5 9

/-! ### The rotating proof test (R224, R225) -/

/-- A management tick falls on the macrotick of t0: what it has changed waits for the next snapshot (R19). -/
def tickNow (s : State) : Bool := decide (s.cyc.tickSeen < s.cyc.tick) && decide (s.cyc.timeBase ≤ s.cyc.tick)

/-- The first due tick not yet reached: the least m ≥ 28,800 above LANE_TICK that is congruent to PHASE. -/
def nextPtDue (s : State) : Nat :=
  let t := max (s.regN R.LANE_TICK + 1) 28800
  t + (s.regF R.LANE_PTCFG 0 15 + 28800 - t % 28800) % 28800

/-- The four conditions of R224; a tick that falls on t0's own macrotick waits for the next boundary (R19); at a boundary that takes a member out for another cause the level is no longer FULL (R45). -/
def proofDue (s : State) : Bool :=
  decide (s.regN R.LANE_PTDUE + b2n (tickNow s) ≤ s.regN R.LANE_TICK) && s.level == .full && decide (setSize (memberSet s) = 3) && s.upd.sess.isNone &&
    allLanes.all fun l => !(s.lanes.get l).running || (s.lanes.get l).reg.proposal.isNone

/-- A lane leaves the group for its proof test: the registers name it, and the next due tick follows (R224, R225, R227). The turn of the lanes moves on with a start only, so that the lane of a due tick that passed while a test waited keeps its turn (DESIGN CHOICE, log 74: R224 does not say whether a skipped due tick takes a turn). -/
def startProof (s : State) (l : Lane) : State :=
  let s1 := setLaneState (stopLane s l) l .proof (some 8)
  let s2 := { s1 with group := { s1.group with proof := some l } }
  (s2.setReg R.LANE_PTSTAT (BitVec.ofNat 32 ((laneNo l + 1) % 3 + laneNo l * 4 + 64))).setReg R.LANE_PTDUE (BitVec.ofNat 32 (nextPtDue s2))

/-- The proof test of the next lane in turn starts where it is due (R224). -/
def carryProof (s : State) : State :=
  match laneOf (s.regF R.LANE_PTSTAT 0 2) with
  | none => s
  | some l => if proofDue s then startProof s l else s

/-- Everything that takes effect at a boundary: automatic causes come before requests, and the level changes once (R45). `old` is the group before the t0 faults; a lane that has left it abandons a rejoin (R223). -/
def carryBoundary (v : Option Verdict) (old : BitVec 3) (tested : List KilnFail) (s : State) : State :=
  let lost := memberSet s != old
  let s1 := carryDirect s
  let s2 := if memberSet s1 = old then s1 else abandonRejoin s1
  let s3 := carryRejoin tested s2
  let s4 := carryReleases v (carryProof s3)
  carryLoam (boundaryLevel lost (memberSet s3 != memberSet s2) s4)

/-! ### The snapshot -/

/-- The register values that a snapshot carries (R60). -/
def settingsNow (s : State) (tcyc : Nat) : Settings :=
  { wsteps := s.regF R.RGE_BUDGET 0 17, wavelife := s.regF R.RGE_LIFE 0 12, searchmax := s.regF R.RGE_LIFE 16 16, offset := s.regF R.DBG_WYLCFG 0 4,
    window := s.regF R.CYC_OLCCFG 0 5, reqmax := s.regF R.CYC_REQMAX 0 11, tcyc := tcyc, rjlimit := s.regF R.LANE_RJCFG 0 12,
    cplimit := s.sby.cpLimit, dbg := dbgOn s }

/-- A snapshot carries a MODE_REQUEST that names FULL or REDUCED. -/
def asksToRun (ds : List (BitVec 16 × Req)) : Bool := ds.any fun d => d.1 == opMode && 2 ≤ reqArg d.2 20 1

/-- T_cyc as the snapshot carries it (R145): the held value with a request that would leave STOPPED, otherwise the value latest written in STOPPED, which at another level is the one in force unless the cycle that left STOPPED brought it. -/
def carriedTcyc (s : State) (ds : List (BitVec 16 × Req)) : Nat :=
  if s.level = .stopped ∧ asksToRun ds = true then s.regF R.CYC_PERIOD 0 9 else s.cyc.tcycW

/-- The verdict word for the cycle that ends (R212): the initial one before cycle 0, none where its vote has not concluded, or where the channel that carries the Sieve status has stopped (R14). -/
def verdictOf (s : State) : Option Verdict :=
  if s.cyc.started = true ∧ chanOpen s .agreed = false then none
  else if !s.cyc.started then some { members := memberSet s, agree := 0, excluded := 0, check := none, voted := 0, before := 0, cycle := 0 }
  else if s.sieve.concluded then
    some { members := memberSet s, agree := s.sieve.agree, excluded := s.sieve.excluded,
           check := if 2 ≤ setSize s.sieve.voted then s.sieve.check else none, voted := s.sieve.voted, before := s.sieve.members, cycle := s.cyc.cycle }
  else none

/-- The input entries of objects that a field-bound element of the image names on their network and channel: R16 gives a snapshot room for no others (log 69). -/
def boundEntries {α : Type} (s : State) (net : BitVec 4) (chan : α → Nat) (obj : α → BitVec 20) (l : List α) : List α :=
  let es := ((s.loam.map (·.elems)).getD []).filter fun e => e.field && e.net == net
  l.filter fun a => es.any fun e => e.obj == obj a && (net == 2 || e.chan.toNat == chan a)

/-- The room that a snapshot leaves for copy blocks, in words, beside nine for each descriptor, two for each input entry and the 64 of the rest (R16). -/
def copyRoom (s : State) (reqmax descs entries : Nat) : Nat :=
  2 * (((s.loam.map (·.elems)).getD []).filter (·.field)).length + 9 * reqmax - 9 * descs - 2 * entries

/-- The copy blocks that have room, in the order of their arrival: each takes its entries and three words for its header and codes (DESIGN CHOICE, log 68). -/
def fitting : Nat → List CopyBlock → List CopyBlock
  | _, [] => []
  | room, b :: bs => if blockCount b.body + 3 ≤ room then b :: fitting (room - (blockCount b.body + 3)) bs else []

/-- A block closes a delta. -/
def isClose (b : CopyBlock) : Bool := match b.body with | .close _ _ => true | _ => false

/-- The copy blocks that the snapshot delivers: those that have room; where not all have, it ends with the last delta that is whole, if it holds one, so that PAIRSUM is compared after it (R354). The others wait for the next snapshot. -/
def delivered (room : Nat) (bs : List CopyBlock) : List CopyBlock :=
  let f := fitting room bs
  if f.length = bs.length ∨ f.any isClose = false then f else (f.reverse.dropWhile fun b => !isClose b).reverse

/-- The descriptors that a snapshot takes: those of the host, up to REQMAX, and after them the requests from PORT_MAINT that have room (R159, R412). -/
def takenDescs (s : State) : List (BitVec 16 × Req) :=
  let n := (s.lanes.get (judgeFrom s)).set.reqmax
  (s.hif.staging.take n) ++ s.hif.maint.take (n - s.hif.staging.length)

/-- The snapshot of the cycle that begins, with the descriptors that have room (R16, R19, R20, R147, R159, R212). -/
def makeSnap (s : State) (v : Option Verdict) (align : Bool) : Snap :=
  let ds := takenDescs s
  let before : Option VioIn → Option VioIn := fun o => o.filter fun f => f.arrival < s.cyc.timeBase
  let star := boundEntries s 1 (fun f => f.port.toNat) (·.obj) (s.fsn.ports.flatMap (·.rx))
  let ring := boundEntries s 2 (fun _ => 0) (·.obj) s.frn.rx
  let can := boundEntries s 3 (fun f => f.ctrl.toNat) (·.obj) (s.can.flatMap (·.vrx))
  let room := copyRoom s (s.lanes.get (judgeFrom s)).set.reqmax ds.length (star.length + ring.length + can.length)
  { cycle := s.cyc.cycle, tb := s.cyc.timeBase, verdict := v, descs := ds,
    etlF := star, etlR := ring, can := can,
    vio := (before s.vio.last).orElse fun _ => before s.vio.prior,
    newTick := s.cyc.tickSeen < s.cyc.tick && s.cyc.tick < s.cyc.timeBase, holdLost := s.cyc.holdLost,
    set := settingsNow s (carriedTcyc s ds), recOldest := if tickNow s then s.cyc.tickOld else s.shale.oldest,
    recNewest := if tickNow s then s.cyc.tickNew else newest s, upd := progressOf s, copies := delivered room s.sby.inbox, align := align,
    brks := [s.reg R.DBG_BRK0, s.reg R.DBG_BRK1], halt := s.dbg.haltPend, shown := s.group.due }

/-- The snapshot leaves the IOI: its descriptors are outstanding, its tick is carried, its copy blocks are delivered. -/
def sendSnap (s : State) (sn : Snap) : State :=
  { s with
    snap := some sn
    hif := { s.hif with
      staging := s.hif.staging.drop (sn.descs.filter fun d => !d.2.maint).length
      maint := s.hif.maint.drop (sn.descs.filter fun d => d.2.maint).length
      outstanding := s.hif.outstanding ++ sn.descs }
    sby := { s.sby with inbox := s.sby.inbox.drop sn.copies.length, plan := 0, blocks := ⟨[], [], []⟩ }
    cyc := { s.cyc with tickSeen := if sn.newTick then s.cyc.tick else s.cyc.tickSeen, tcycNext := s.cyc.tcycW, tcycLate := false, consensusDone := false, committed := false, near := false, housed := false }
    group := { s.group with upd := sn.upd, judged := [], shown := s.group.due, due := [] }
    dbg := { s.dbg with haltPend := false } }

/-- A lane at the start of a cycle, with the outputs that it committed on in the cycle before (R377); the completions of the waves that the boundary has withdrawn wait among its words (R47). -/
def LaneSt.newCycle (tcyc : Nat) (x : LaneSt) : LaneSt :=
  { x with
    set := { x.set with tcyc := tcyc }
    snap := none, digests := ⟨none, none, none⟩, decided := false, place := .entry, passHalt := false
    logicPrev := x.logicDone, logicDone := false, closed := false
    timers := [], overran := [], outOn := if x.digest.isSome then x.outOn else 0, digest := none, checkOut := none, demand := false, rpt := Report.empty }

/-- The Sieve awaits the words of a new cycle. -/
def SieveSt.newCycle (x : SieveSt) (members : BitVec 3) : SieveSt :=
  { x with members := members, digests := ⟨none, none, none⟩, concluded := false, words := ⟨[], [], []⟩,
           checks := ⟨none, none, none⟩, demands := 0, voted := 0 }

/-! ### T0 -/

/-- A t0 earlier than the lane's window, or a lane clock beyond 2 % over the cycle, is a t0 fault (R148, R450). -/
def t0Faulty (s : State) (n want iv : Nat) (ppm : Int) : Bool :=
  let tol := if n ≤ 2 then 1000 + 25 * s.cyc.tcyc else 1000
  iv + tol < want || 20000 < ppm.natAbs

/-- A lane's watchdog and checkers are at work: it runs, or it is a returning lane that has left lane reset (R221, R223). -/
def watched (s : State) (l : Lane) : Bool :=
  let x := s.lanes.get l
  x.running || (x.st == .copy && !x.inReset && (s.group.rejoin.map (·.lane)) == some l)

/-- The t0 faults of the lanes whose watchdogs are at work, each a privileged overrun of the cycle that begins (R148, R155); the level changes with the boundary, in one change (R45). -/
def t0Faults (s : State) (n want ivA ivB ivC : Nat) (ppmA ppmB ppmC : Int) : State :=
  let bad (l : Lane) : Bool := match l with
    | .a => t0Faulty s n want ivA ppmA
    | .b => t0Faulty s n want ivB ppmB
    | .c => t0Faulty s n want ivC ppmC
  allLanes.foldl (fun t l => if watched t l && bad l then faultOut (privMark t l 3 n) l 3 else t) s

/-- The partner's latest report is of the same t0 as the module's own latest (R350): the two lie within the 2 µs of R355. -/
def sameT0 (s : State) : Bool := (s.sby.partner.map fun p => decide (p.t0Diff ≤ 2)).getD false

/-- The number of the cycle that begins: 0, one more than the last, or in STOPPED the number that follows a partner's higher one (R21, R350). -/
def nextCycle (s : State) : Nat × Bool :=
  if !s.cyc.started then (0, false)
  else
    let own := s.cyc.cycle + 1
    let his := (s.sby.partner.map fun p => p.cycle.toNat + 1).getD 0
    if s.sby.pairenNow && s.sby.link && s.level == .stopped && sameT0 s && own < his then (his, true) else (own, false)

/-- The counts of the new t0; the lanes excluded are those of the cycle that begins (R212). -/
def stampT0 (s : State) (t n tcyc : Nat) : State :=
  let s1 := s.at t
  { s1 with
    sieve := { s1.sieve with excluded := 0 }
    cyc := { s1.cyc with lastT0 := t, cycle := n, started := true, tcyc := tcyc, halted := 0 } }

/-- The role committed at the latest commit comes into force with the cycle that begins (R345): the ports of a module that becomes the standby stop, and its copying ends (R272); those of one that becomes active open with the round after (R272, R319, R358). -/
def enterRole (s : State) : State :=
  if s.sby.acting = s.sby.role then s
  else
    let s1 := { s with sby := { s.sby with acting := s.sby.role, copy := 0, openAt := some s.cyc.timeBase } }
    if s.sby.role = .standby then starStops s1 else s1

/-- The new cycle begins with its snapshot; a latched Sieve completes what is outstanding (R247), and a group of fewer than two members agrees on nothing (R210). -/
def openCycle (s : State) (v : Option Verdict) (align : Bool) : State :=
  let s1 := sendSnap s (makeSnap s (v.map fun w => { w with members := memberSet s }) align)
  let s2 := s1.updLanes fun _ x => x.newCycle s1.cyc.tcyc
  let s3 := voteTry { s2 with sieve := s2.sieve.newCycle (memberSet s2) }
  if s3.sieve.latch then sieveCompletes s3 else s3

/-- A t0: the boundary, and the snapshot of the cycle that begins. At the first t0 after a reset every lane starts from the words of R93 (R164, R178). -/
def raiseT0 (s : State) (ivA ivB ivC : Nat) (ma mb mc : LaneT0) : State :=
  let t := nextT0 s
  let (n, align) := nextCycle s
  let first := !s.cyc.started
  let v := verdictOf s
  let unvoted := s.cyc.started && !s.sieve.concluded
  let s1 := (enterRole (stampT0 s t n (nextTcyc s))).updLanes fun _ x => { x with words := [] }
  let s2 := if unvoted then withdrawQueues s1 else s1
  let s3 := if first then freshLanes s2 else t0Faults s2 n (t - s.cyc.lastT0 - s.cyc.halted) ivA ivB ivC ma.ppm mb.ppm mc.ppm
  State.inOrder s (phaseEntries (openCycle (carryBoundary v (memberSet s2) (ma.failed ++ mb.failed ++ mc.failed) s3) v align) 0)

/-- T0 (R146): the next t0, where one falls; a firmware activation resets the module in its place (R416). -/
def execT0 (ivA ivB ivC : Nat) (ma mb mc : LaneT0) (s : State) : Host.Outcome State Fault Refusal :=
  if t0Due s = false then .next s
  else if s.upd.activate then .next (moduleReset s 3 s.sby.strap s.power.addr)
  else .next (raiseT0 s ivA ivB ivC ma mb mc)

/-- T0_WINDOW_END (R148): the cycle that should have begun, one after the present, has overrun CONSENSUS in the lane. -/
def execT0WindowEnd (l : Lane) (s : State) : Host.Outcome State Fault Refusal :=
  if s.cyc.started && watched s l && !(s.lanes.get l).dbgHold then .next (privFault s l 0 (s.cyc.cycle + 1)) else .next s

/-! ### SNAPSHOT and CONSENSUS -/

/-- The members that a lane's snapshot names (R212). -/
def namedMembers (x : LaneSt) : BitVec 3 := ((x.snap.bind (·.verdict)).map (·.members)).getD 0

/-- The lane's snapshot names it a member, or it is silent; otherwise it stops at CONSENSUS with CAUSE 0x6 (R212). -/
def isNamed (s : State) (l : Lane) : Bool :=
  let x := s.lanes.get l
  ((x.snap.bind (·.verdict)).isSome) && (inSet (namedMembers x) l || x.st == .silent)

/-- The named members other than the lane. -/
def peersOf (x : LaneSt) (l : Lane) : List Lane := (lanesOf (namedMembers x)).filter (· != l)

/-- A peer's digest equals the lane's own. -/
def peerEqual (x : LaneSt) (l k : Lane) : Bool := (x.digests.get k).isSome && x.digests.get k == x.digests.get l

/-- The lane is in the minority: no peer equals it, and two peers agree (R22). -/
def inMinority (x : LaneSt) (l : Lane) : Bool :=
  inSet (namedMembers x) l && !(peersOf x l).any (peerEqual x l) &&
    (match peersOf x l with
     | [p, q] => (x.digests.get p).isSome && x.digests.get p == x.digests.get q
     | _ => false)

/-- The lane holds its own digest and one from every peer. -/
def holdsAll (x : LaneSt) (l : Lane) : Bool := (x.digests.get l).isSome && (peersOf x l).all fun k => (x.digests.get k).isSome

/-- The lane acts on the comparison (R22): a lane in the minority, or one that the verdict does not name, stops and raises its rail; any other goes on. -/
def consensus (s : State) (l : Lane) : State :=
  let x := s.lanes.get l
  if !x.running || x.decided then s
  else if !isNamed s l || inMinority x l then voteTry (stopLane s l)
  else s.updLane l fun x => { x with decided := true }

/-- SNAPSHOT (R147): the lane takes the snapshot with its inputs, its debug settings and HALT (R199), and computes its digest; from a snapshot that carries DBG_CTRL.EN on it presents no drive (R60, R198). -/
def takeSnapshot (s : State) (l : Lane) (sn : Snap) : State :=
  s.updLane l fun x =>
    let y := takeInputs (memberNo s) s.loam sn x
    { y with snap := some sn, digests := y.digests.set l (some (snapDigest sn)), set := { y.set with dbg := sn.set.dbg },
             drive := if sn.set.dbg then 0 else y.drive, brks := sn.brks, armed := sn.set.dbg && (y.armed || sn.halt) }

/-- A lane that holds what it compares goes on at once: a silent lane, and one that has every digest of its peers (R22). -/
def goCompare (s : State) (l : Lane) : State :=
  if (s.lanes.get l).st = .silent ∨ holdsAll (s.lanes.get l) l then consensus s l else s

/-- SNAPSHOT: CONSENSUS begins with the whole snapshot (R150), at a halt point (R199). -/
def execSnapshot (l : Lane) (s : State) : Host.Outcome State Fault Refusal :=
  match s.snap with
  | none => .next s
  | some sn =>
    if (s.lanes.get l).running && (s.lanes.get l).snap.isNone && !(s.lanes.get l).dbgHold && snapOpen s l then
      let r := phaseEntry (takeSnapshot s l sn) l 1
      if r.2 then .next (goCompare r.1 l) else .next r.1
    else .next s

/-- SNAPSHOT_DIGEST (R22): a peer's digest arrives over the inter-lane channel; a stopped lane's is ignored, and a halted lane compares once it goes on (R200). -/
def execSnapshotDigest (receiver sender : Lane) (d : DWord) (s : State) : Host.Outcome State Fault Refusal :=
  let x := s.lanes.get receiver
  if receiver = sender ∨ x.running = false ∨ x.decided = true ∨ chanOpen s (.inter sender receiver) = false then .next s
  else
    let s1 := s.updLane receiver fun x => { x with digests := x.digests.set sender (some d) }
    if holdsAll (s1.lanes.get receiver) receiver && !x.dbgHold then .next (consensus s1 receiver) else .next s1

/-- The lanes that leave MEMBER at the CONSENSUS deadline, with their causes: an incomplete snapshot is a privileged overrun (R151, R155), a lane the verdict does not name has cause 0x6 (R212), a minority 0x1 (R22). -/
def consensusCause (s : State) (l : Lane) : Option Nat :=
  let x := s.lanes.get l
  if x.st ≠ .member ∨ s.snap.isNone then none
  else if x.running then (if x.snap.isNone then some 3 else none)
  else if x.decided then none
  else if isNamed s l then some 1 else some 6

/-- One lane's outcome of CONSENSUS. -/
def consensusOut (s : State) (l : Lane) : State :=
  match consensusCause s l with
  | none => s
  | some c => laneOut (if c = 3 then privMark s l 0 s.cyc.cycle else s) l c

/-- Two of the remaining members hold equal digests. -/
def consensusHeld (s : State) : Bool :=
  (lanesOf (memberSet s)).any fun l => (peersOf (s.lanes.get l) l).any fun k => inSet (memberSet s) k && peerEqual (s.lanes.get l) l k

/-- The causes of BEDROCK that CONSENSUS finds: no two lanes agree (R22), a time base lost beyond holdover (R149), a Sieve self-check failure (R215). -/
def bedrockCauses (s : State) : List Nat :=
  let sn := s.snap
  (if setSize (memberSet s) < 2 ∨ consensusHeld s = false then [5] else []) ++
  (if (sn.map (·.holdLost)).getD false then [7] else []) ++
  (if checkBad sn then [8] else [])
where
  checkBad : Option Snap → Bool
    | none => false
    | some sn => 1 ≤ sn.cycle && (match sn.verdict with | none => false | some v => selfCheckBad v)

/-- The members enter the latch demand of a Sieve self-check failure, to be presented at the commit (R215). -/
def demandLatch (s : State) : State :=
  if (bedrockCauses s).contains 8 then s.updLanes fun _ x => if x.st = .member ∧ x.running then { x with demand := true } else x else s

/-- A running lane outside the group that holds no snapshot by the deadline has overrun CONSENSUS (R155). -/
def lateOut (s : State) : State :=
  (allLanes.filter fun l => (s.lanes.get l).running && (s.lanes.get l).snap.isNone && (s.lanes.get l).st != .member).foldl (fun t l => faultOut (privMark t l 0 s.cyc.cycle) l 3) s

/-- Every lane that holds a snapshot compares the digests it has. -/
def consensusAll (s : State) : State := allLanes.foldl (fun t l => if (t.lanes.get l).snap.isSome then consensus t l else t) s

/-- What the comparisons lead to: the lanes in the minority leave, and a demand sets the latch. -/
def consensusEnd (s : State) : State := demandLatch (allLanes.foldl consensusOut { s with cyc := { s.cyc with consensusDone := true } })

/-- The level that CONSENSUS leads to, in one change (R45, R226): BEDROCK for the causes it finds, otherwise by the members that are left; a change of membership at other levels abandons a rejoin (R223). -/
def consensusLevel (before : BitVec 3) (causes : List Nat) (s : State) : State :=
  match s.level.serves, causes with
  | true, c :: _ => changeLevel s .bedrock c
  | _, _ => if memberSet s = before then s else groupLevel s 2

/-- CONSENSUS_DEADLINE: missing digests count as differing, and the module records the outcome, in one change of level (R22, R45, R151). -/
def execConsensusDeadline (s : State) : Host.Outcome State Fault Refusal :=
  if s.cyc.started = false ∨ s.cyc.consensusDone = true ∨ anyHold s = true then .next s
  else
    let s1 := consensusEnd (consensusAll (lateOut s))
    .next (consensusLevel (memberSet s) (bedrockCauses s1) (voteTry s1))

end Sys2Proof.Machine
end

