-- ==== Sys2Proof/Machine/Can.lean ====
section
/-! DEFINITION. The CAN FD controllers: enabling (R323, R324), bus-off (R325), three-buffer mode (R326, R327), message memory mode (R328, R329), requests and cancels (R330, R331), identical identifiers (R332), the vital path (R333 to R335), and time-triggered operation (R338 to R340). Controller k is CAN(k + 1). -/

namespace Sys2Proof.Machine

/-! ### Controllers -/

/-- A controller. -/
def canAt (s : State) (k : Nat) : CanSt := s.can.getD k CanSt.reset

/-- The state with a controller changed. -/
def updCan (s : State) (k : Nat) (f : CanSt → CanSt) : State := { s with can := setAt s.can k f }

/-- A bit of CTRL: 0 EN, 1 MODE, 2 TXORD, 3 FDEN, 4 MON, 5 AUTOREC, 6 TT, 7 VEN. -/
def canBit (s : State) (k n : Nat) : Bool := s.regBit (R.CAN_CTRL k) n

/-- An event of a controller (R342). -/
def canEvent (s : State) (k bit : Nat) : State := s.event (R.CAN_EVT k) (R.CAN_EVTEN k) bit (52 + k)

/-- A configuration write is refused. -/
def canLost (s : State) (k : Nat) : State := s.orReg (R.CAN_STAT k) 0x100000

/-- The controller takes part in the bus: enabled, not in bus-off, and its transmit error counter within the limit of 255 beyond which the standard sends it there. -/
def canRuns (s : State) (k : Nat) : Bool := canBit s k 0 && (canAt s k).st != 2 && decide ((canAt s k).tec < 256)

/-- Time-triggered operation, which requires message memory mode (R341). -/
def canTT (s : State) (k : Nat) : Bool := canBit s k 6 && canBit s k 1

/-- The vital path takes part: VEN is 1 and the module acts as an active one (R334, R358). -/
def canVital (s : State) (k : Nat) : Bool := canBit s k 7 && !isStandby s

/-- The time quanta of a nominal bit times its prescaler (R323). -/
def nominalDiv (s : State) (k : Nat) : Nat := (1 + s.regF (R.CAN_NBT k) 6 8 + s.regF (R.CAN_NBT k) 14 7) * s.regF (R.CAN_NBT k) 0 6

/-- The time quanta of a data bit times its prescaler (R323). -/
def dataDiv (s : State) (k : Nat) : Nat := (1 + s.regF (R.CAN_DBT k) 6 5 + s.regF (R.CAN_DBT k) 11 4) * s.regF (R.CAN_DBT k) 0 6

/-- The timing checks of R323 for a value of CTRL: 125 to 1,000 kbit/s nominal, the nominal rate to 8,000 kbit/s in the data phase, from 80 MHz. -/
def canTimingOk (s : State) (k : Nat) (v : Word) : Bool :=
  let n := nominalDiv s k
  let d := dataDiv s k
  let nj := s.regF (R.CAN_NBT k) 21 7
  let dj := s.regF (R.CAN_DBT k) 15 4
  decide (80 ≤ n) && decide (n ≤ 640) && decide (10 ≤ d) && decide (d ≤ n) &&
    decide (nj ≤ s.regF (R.CAN_NBT k) 6 8) && decide (nj ≤ s.regF (R.CAN_NBT k) 14 7) &&
    decide (dj ≤ s.regF (R.CAN_DBT k) 6 5) && decide (dj ≤ s.regF (R.CAN_DBT k) 11 4) &&
    (decide (40 ≤ d) || s.regBit (R.CAN_DBT k) 19) && (!v.getLsbD 7 || v.getLsbD 3)

/-! ### Objects and requests (R328 to R331) -/

/-- A message object. -/
def objAt (s : State) (k o : Nat) : ObjSt := (assoc o (canAt s k).objs).getD ObjSt.reset

/-- The state with a message object changed. -/
def updObj (s : State) (k o : Nat) (f : ObjSt → ObjSt) : State := updCan s k fun x => { x with objs := assocPutUp o (f (objAt s k o)) x.objs }

/-- The selected object. -/
def objSel (s : State) (k : Nat) : Nat := s.regF (R.CAN_OBJSEL k) 0 7

/-- An object is a send object: DIR and OEN are 1. -/
def isSend (o : ObjSt) : Bool := o.id.getLsbD 30 && o.id.getLsbD 31

/-- The requests of the two modes: a transmit buffer or an object. -/
inductive ReqOf | buf (b : Nat) | obj (o : Nat)
deriving DecidableEq, Repr

/-- The request state of a buffer or object. -/
def txAt (s : State) (k : Nat) : ReqOf → TxSt
  | .buf b => (canAt s k).txb.getD b TxSt.reset
  | .obj o => (objAt s k o).tx

/-- The state with a request state changed. -/
def updTx (s : State) (k : Nat) (r : ReqOf) (f : TxSt → TxSt) : State :=
  match r with
  | .buf b => updCan s k fun x => { x with txb := setAt x.txb b f }
  | .obj o => updObj s k o fun x => { x with tx := f x.tx }

/-- A request begins: RES reads BUSY (R330). -/
def beginTx (s : State) (k : Nat) (r : ReqOf) : State :=
  if (txAt s k r).pending then s else updTx s k r fun _ => { pending := true, cancel := false, res := 7, rvalid := true }

/-- A request ends with RES, and TX is set (R330). -/
def endTx (s : State) (k : Nat) (r : ReqOf) (res : Byte) : State := canEvent (updTx s k r fun _ => { pending := false, cancel := false, res := res, rvalid := true }) k 1

/-- The request whose frame a controller is sending. -/
def curReq (x : CanSt) : Option ReqOf :=
  match x.cur with
  | some (.buf b) => some (.buf b)
  | some (.obj o) => some (.obj o)
  | _ => none

/-- A cancel (R331): a request whose frame has not started ends; otherwise the cancel is held. -/
def cancelTx (s : State) (k : Nat) (r : ReqOf) (inArb : Bool) : State :=
  if (txAt s k r).pending = false then s
  else if inArb || curReq (canAt s k) == some r then
    let s1 := updTx s k r fun t => { t with cancel := true }
    if (canAt s k).cur.isSome then s1
    else updCan s1 k fun x => { x with cur := some (match r with | .buf b => .buf b | .obj o => .obj o) }
  else endTx s k r 6

/-- Every pending request. -/
def pendingReqs (s : State) (k : Nat) : List ReqOf :=
  (([0, 1, 2].map ReqOf.buf) ++ ((canAt s k).objs.map fun o => ReqOf.obj o.1)).filter fun r => (txAt s k r).pending

/-! ### Frames to send (R326, R328, R333, R334) -/

/-- The data bytes of a data length code. -/
def dlcLen (dlc : Nat) (fdf : Bool) : Nat :=
  if dlc ≤ 8 then dlc
  else if !fdf then 8
  else match dlc with
    | 9 => 12 | 10 => 16 | 11 => 20 | 12 => 24 | 13 => 32 | 14 => 48 | _ => 64

/-- An identifier's place in arbitration: an 11-bit one compares as its 29-bit extension (R326). -/
def idKey (idReg : Word) : Nat := if idReg.getLsbD 29 then fld idReg.toNat 0 29 else fld idReg.toNat 0 11 * 2 ^ 18

/-- The register of a data word of a transmit buffer. -/
def txbData (k b w : Nat) : Nat :=
  match b with
  | 0 => R.TXB0_DATA k w
  | 1 => R.TXB1_DATA k w
  | _ => R.TXB2_DATA k w

/-- A buffer may be offered: pending, and no CAN FD frame while FDEN is 0. -/
def bufReady (s : State) (k b : Nat) : Bool := (txAt s k (.buf b)).pending && (canBit s k 3 || !s.regBit (R.TXB_CTRL k b) 4)

/-- The first of the lowest keys. -/
def lowest (l : List (Nat × Nat)) : Option Nat :=
  (l.foldl (fun best x => match best with | none => some x | some b => if x.1 < b.1 then some x else some b) none).map (·.2)

/-- The buffer offered next. -/
def offeredBuf (s : State) (k : Nat) : Option Nat :=
  lowest (([0, 1, 2].filter (bufReady s k)).map fun b => (if canBit s k 2 then b else idKey (s.reg (R.TXB_ID k b)), b))

/-- A send object may be offered: pending, not locked in the window, and in time-triggered operation inside its window. -/
def objReady (s : State) (k o : Nat) : Bool :=
  let x := objAt s k o
  let c := canAt s k
  isSend x && x.tx.pending && !(c.lock && objSel s k == o) && (canBit s k 3 || !x.fdf) &&
    (if canTT s k then
      (match c.window with
       | .exclusive p => p == o
       | .arbitrating => c.ttSync && (!x.tt.getLsbD 25 || (x.due && !x.tt.getLsbD 26))
       | .none => false)
     else true)

/-- The object offered next (R328). -/
def offeredObj (s : State) (k : Nat) : Option Nat := lowest ((((canAt s k).objs.map (·.1)).filter (objReady s k)).map fun o => (idKey (objAt s k o).id, o))

/-- A vital frame is due: the mark frame, or entries within REP + 1 passes. -/
def vitalDue (s : State) (k : Nat) : Bool :=
  let x := canAt s k
  canVital s k && (x.markDue.isSome || (!x.vqueue.isEmpty && decide (x.vpass ≤ s.regF (R.CAN_VCTL k) 0 2)))

/-- Vital frames are offered outside time-triggered operation, or inside an arbitrating window (R339). -/
def vitalOpen (s : State) (k : Nat) : Bool := !canTT s k || ((canAt s k).window == .arbitrating && (canAt s k).ttSync)

/-- What the controller offers at its next start of frame: the reference message at the start of a basic cycle (R338), and a vital frame before any mailbox frame (R334). -/
def offered (s : State) (k : Nat) : Option CanTx :=
  if !canRuns s k || canBit s k 4 then none
  else if canTT s k && (canAt s k).refDue then some .reference
  else if vitalDue s k && vitalOpen s k then some .vital
  else if canBit s k 1 then (offeredObj s k).map .obj
  else (offeredBuf s k).map .buf

/-- The bytes of little-endian data words. -/
def wordBytes (ws : List Word) : Bytes := ws.flatMap fun w => leBytes 4 w.toNat

/-- The frame of an identifier register with data: a CAN FD frame or not, and with a switch of the bit rate or not, which only a CAN FD frame has. -/
def sendFrame (s : State) (k : Nat) (idReg : Word) (fdf brs : Bool) (b : Bytes) : State :=
  s.emit (.canFrame (BitVec.ofNat 2 k) (idReg.setWidth 29) (idReg.getLsbD 29) fdf (fdf && brs) b)

/-- The mark frame (R333). -/
def markBytes (s : State) (cycle : Nat) : Bytes := beBytes 6 cycle ++ beBytes 2 s.cyc.tcyc

/-- The entries of the next command frame, four at most. -/
def vitalEntries (x : CanSt) : List Msg := (x.vqueue.drop x.vpos).take 4

/-- The vital frame that a controller offers: the mark frame while it is due, and then a command frame. -/
def vitalNow (x : CanSt) : VitalTx :=
  match x.markDue with
  | some n => { mark := true, cycle := n, entries := [], first := true }
  | none => { mark := false, cycle := x.vcycle, entries := vitalEntries x, first := x.vpass == 0 }

/-- A command frame (R333), padded to the smallest CAN FD length. -/
def commandBytes (v : VitalTx) : Bytes :=
  let es := v.entries
  let b := beBytes 6 v.cycle ++ [BitVec.ofNat 8 es.length, 0] ++
    es.flatMap fun m => beBytes 3 m.obj.toNat ++ beBytes 2 m.record.toNat ++ beBytes 4 m.code1.toNat ++ beBytes 4 m.code2.toNat
  padTo (if es.length ≤ 1 then 24 else if es.length ≤ 3 then 48 else 64) b

/-- A vital frame is of the queue as it stands now: neither replaced nor withdrawn since the frame began. -/
def vitalFresh (x : CanSt) (v : VitalTx) : Bool :=
  if v.mark then x.markDue == some v.cycle else x.markDue.isNone && v.cycle == x.vcycle && !x.vqueue.isEmpty

/-- The queue moves on past a vital frame of its own. -/
def vitalNext (x : CanSt) (v : VitalTx) : CanSt :=
  if vitalFresh x v = false then x
  else if v.mark then { x with markDue := none }
  else
    let next := x.vpos + v.entries.length
    if x.vqueue.length ≤ next then { x with vpos := 0, vpass := x.vpass + 1 } else { x with vpos := next }

/-- A vital frame has been sent: the mark, or entries of the queue that stood as the frame began (R334). -/
def vitalSent (s : State) (k : Nat) (v : VitalTx) : State :=
  let id := s.reg (if v.mark then R.CAN_VMARK k else R.CAN_VCMD k)
  updCan (sendFrame s k id true (s.regBit (R.CAN_VCTL k) 2) (if v.mark then markBytes s v.cycle else commandBytes v)) k fun x => vitalNext x v

/-- A vital frame fails: it is offered again, unless its queue has gone since it began; its entries of a first pass have then never been sent (R334). -/
def vitalFailed (s : State) (k : Nat) (v : VitalTx) : State :=
  if v.mark || vitalFresh (canAt s k) v || !v.first || v.entries.isEmpty then s
  else canEvent (s.bump (R.CAN_VLATECNT k) v.entries.length) k 7

/-- The vital frame that ends: the one in progress, or the one offered. -/
def vitalEnding (x : CanSt) : VitalTx := x.vcur.getD (vitalNow x)

/-! ### Error counters (ISO 11898-1; log 32) -/

/-- The state that the counters give, with EPASS on entry to error passive. -/
def canErrState (s : State) (k : Nat) : State :=
  let x := canAt s k
  if x.st = 2 then s
  else
    let passive := decide (128 ≤ x.tec) || decide (128 ≤ x.rec0)
    let s1 := updCan s k fun x => { x with st := if passive then 1 else 0 }
    if passive && x.st == 0 then canEvent s1 k 3 else s1

/-- A frame of the controller's own failed. The counter may pass 255, which sends the controller into bus-off. -/
def txFailed (s : State) (k : Nat) : State :=
  canErrState (updCan (s.bump (R.CAN_ERRCNT k) 1) k fun x => { x with tec := x.tec + 8 }) k

/-- A frame of the controller's own was not acknowledged: an error-passive transmitter does not count it (ISO 11898-1). -/
def txUnacked (s : State) (k : Nat) : State := if (canAt s k).st = 1 then s.bump (R.CAN_ERRCNT k) 1 else txFailed s k

/-- A frame of another node ends in an error frame that the controller sees (R322, R341). -/
def rxFailed (s : State) (k eights : Nat) : State :=
  canErrState (updCan (s.bump (R.CAN_ERRCNT k) 1) k fun x => { x with rec0 := min 255 (x.rec0 + 1 + 8 * eights) }) k

/-- A duplicate event is counted; the eighth within 1,000,000 macroticks sets DUPLICATE_ID (R332). -/
def dupEvent (s : State) (k : Nat) : State :=
  let t := s.cyc.timeBase
  let l := t :: (canAt s k).dup.filter fun u => t ≤ u + 1000000
  let s1 := s.bump (R.CAN_DUPCNT k) 1
  if 8 ≤ l.length then canEvent (updCan s1 k fun x => { x with dup := [] }) k 5 else updCan s1 k fun x => { x with dup := l }

/-! ### CTRL and the requests -/

/-- Clearing EN (R324): the frame in progress, the FIFO, the pending requests and the error counters end. -/
def canDisable (s : State) (k : Nat) : State :=
  let s1 := (pendingReqs s k).foldl (fun t r => endTx t k r 6) s
  updCan (s1.setF (R.CAN_CTRL k) 0 1 0) k fun x => { x with
    tec := 0, rec0 := 0, st := 0, recovering := false, fifo := [], cur := none, won := false, vcur := none, refDue := false, ttSync := false, ttMaster := false, window := .none }

/-- A write of CTRL: while EN is 1 only EN can change; a write that sets EN needs the checks of R323. -/
def canCtrlWrite (s : State) (k : Nat) (v : Word) : State :=
  let old := s.reg (R.CAN_CTRL k)
  let new := v &&& 0xFF
  if old.getLsbD 0 then
    let s1 := if new ||| 1 = old &&& 0xFF then s else canLost s k
    if new.getLsbD 0 then s1 else canDisable s1 k
  else if new.getLsbD 0 then (if canTimingOk s k new then s.setReg (R.CAN_CTRL k) new else canLost s k)
  else s.setReg (R.CAN_CTRL k) new

/-- A write of another configuration register of the controller, refused while EN is 1 (R324). -/
def canCfgWrite (s : State) (k off : Nat) (v : Word) : State := if canBit s k 0 then canLost s k else s.setReg off v

/-- A write of TXREQ, in three-buffer mode (R330). -/
def txReqWrite (s : State) (k : Nat) (v : Word) : State :=
  if canBit s k 1 then s else ([0, 1, 2].filter fun b => v.getLsbD b).foldl (fun t b => beginTx t k (.buf b)) s

/-- A write of TXCAN: the buffers whose frame is in arbitration hold their cancel (R331). -/
def txCanWrite (s : State) (k : Nat) (v : Word) (inArb : BitVec 3) : State :=
  if canBit s k 1 then s else ([0, 1, 2].filter fun b => v.getLsbD b).foldl (fun t b => cancelTx t k (.buf b) (inArb.getLsbD b)) s

/-- A write of OBJREQ with REQ, in message memory mode (R330): the object becomes pending, whatever its direction; only a send object is ever offered (R328). -/
def objReqWrite (s : State) (k : Nat) (v : Word) : State :=
  let o := fld v.toNat 0 7
  if canBit s k 1 && v.getLsbD 7 then beginTx s k (.obj o) else s

/-- A write of OBJREQ with CAN (R331). -/
def objCanWrite (s : State) (k : Nat) (v : Word) (inArb : Bool) : State :=
  if canBit s k 1 && v.getLsbD 8 then cancelTx s k (.obj (fld v.toNat 0 7)) inArb else s

/-- A write of CMD.RECOVER (R325). -/
def canRecover (s : State) (k : Nat) : State := if (canAt s k).st = 2 then updCan s k fun x => { x with recovering := true } else s

/-! ### The end of arbitration and of a frame (R330 to R332) -/

/-- What the controller is sending, or the frame it offers, which starts now. -/
def sending (s : State) (k : Nat) : Option CanTx := match (canAt s k).cur with | some c => some c | none => offered s k

/-- No frame is being sent. -/
def txIdle (s : State) (k : Nat) : State := updCan s k fun x => { x with cur := none, won := false, vcur := none }

/-- The request that a sent frame belongs to. -/
def reqOfTx : CanTx → Option ReqOf
  | .buf b => some (.buf b)
  | .obj o => some (.obj o)
  | .vital => none
  | .reference => none

/-- ARBITRATION: the frame is committed, or the attempt is lost, which ends a request with a held cancel. -/
def execArbitration (n : BitVec 2) (won : Bool) (s : State) : Host.Outcome State Fault Refusal :=
  let k := n.toNat
  match sending s k with
  | none => .next s
  | some c =>
    if won then .next (updCan s k fun x => { x with cur := some c, won := true, vcur := if c = .vital then some (vitalEnding x) else none })
    else match reqOfTx c with
      | some r => .next (if (txAt s k r).cancel then endTx (txIdle s k) k r 6 else txIdle s k)
      | none => .next (txIdle s k)

/-- The frame of a request, as it leaves. -/
def reqFrame (s : State) (k : Nat) : ReqOf → State
  | .buf b =>
    let c := s.regN (R.TXB_CTRL k b)
    sendFrame s k (s.reg (R.TXB_ID k b)) (bitOf c 4) (bitOf c 5) ((wordBytes ((List.range 16).map fun w => s.reg (txbData k b w))).take (dlcLen (fld c 0 4) (bitOf c 4)))
  | .obj o =>
    let x := objAt s k o
    sendFrame s k x.id x.fdf x.brs ((wordBytes x.data).take (dlcLen x.dlc.toNat x.fdf))

/-- A time-triggered object has had its attempt: its exclusive window is over (R339). -/
def windowUsed (s : State) (k : Nat) : CanTx → State
  | .obj o => if (canAt s k).window = .exclusive o then updCan (updObj s k o fun x => { x with due := false }) k fun x => { x with window := .none } else s
  | _ => s

/-- A time-triggered object whose frame has been sent waits for its next trigger. -/
def triggerSpent (s : State) (k : Nat) : CanTx → State
  | .obj o => if (objAt s k o).due then updObj s k o fun x => { x with due := false } else s
  | _ => s

/-- The reference message of the basic cycle has been sent (R338). -/
def referenceSent (s : State) (k : Nat) : State :=
  let id := s.regF (R.CAN_TTREF k) 0 11 + s.regF (R.CAN_TTCFG k) 0 3
  (updCan s k fun x => { x with refDue := false, ttSync := true }).emit
    (.canFrame (BitVec.ofNat 2 k) (BitVec.ofNat 29 id) false false false [BitVec.ofNat 8 (canAt s k).ttCount])

/-- A frame completes without error. -/
def frameDone (s : State) (k : Nat) (c : CanTx) : State :=
  let s1 := canErrState (updCan ((triggerSpent (windowUsed (txIdle s k) k c) k c).bump (R.CAN_TXCNT k) 1) k fun x => { x with tec := x.tec - 1 }) k
  match reqOfTx c with
  | some r => endTx (reqFrame s1 k r) k r (if (txAt s k r).cancel then 0x0A else 0)
  | none => match c with
    | .vital => vitalSent s1 k (vitalEnding (canAt s k))
    | _ => referenceSent s1 k

/-- A frame fails: it is sent again, unless its request holds a cancel. -/
def frameFailed (s : State) (k : Nat) (c : CanTx) (dup acked : Bool) : State :=
  let s0 := windowUsed (txIdle s k) k c
  let s1 := if acked then txFailed s0 k else txUnacked s0 k
  let s2 := if dup then dupEvent s1 k else s1
  match reqOfTx c with
  | some r => if (txAt s k r).cancel then endTx s2 k r 6 else s2
  | none => if c = .vital then vitalFailed s2 k (vitalEnding (canAt s k)) else s2

/-- CAN_FRAME_END. -/
def execCanFrameEnd (n : BitVec 2) (e : CanEnd) (s : State) : Host.Outcome State Fault Refusal :=
  let k := n.toNat
  match sending s k with
  | none => .next s
  | some c => match e with
    | .done => .next (frameDone s k c)
    | .failed => .next (frameFailed s k c false true)
    | .duplicate => .next (frameFailed s k c true true)
    | .unacked => .next (frameFailed s k c false false)

/-- BUS_OFF (R325): the transmit error counter has passed 255 (ISO 11898-1, log 32). -/
def execBusOff (n : BitVec 2) (s : State) : Host.Outcome State Fault Refusal :=
  let k := n.toNat
  if canBit s k 0 && (canAt s k).st != 2 && decide (256 ≤ (canAt s k).tec) then .next (canEvent (updCan (txIdle s k) k fun x => { x with st := 2, recovering := canBit s k 5 }) k 4) else .next s

/-- BUS_OFF_RECOVERY_END (R325): error active again, the counters at 0. -/
def execBusOffRecoveryEnd (n : BitVec 2) (s : State) : Host.Outcome State Fault Refusal :=
  let k := n.toNat
  if (canAt s k).st = 2 ∧ (canAt s k).recovering = true then .next (updCan s k fun x => { x with st := 0, tec := 0, rec0 := 0, recovering := false })
  else .next s

/-! ### Reception (R327 to R329, R335) -/

/-- A frame matches an identifier and a mask. -/
def idMatches (f : CanFrame) (idReg mask : Word) : Bool := f.ide == idReg.getLsbD 29 && (f.id.setWidth 32 ^^^ idReg) &&& (mask &&& 0x1FFFFFFF) == 0

/-- The frame is a vital input frame (R335). -/
def isVital (s : State) (k : Nat) (f : CanFrame) : Bool := canBit s k 7 && idMatches f (s.reg (R.CAN_VIN k)) (s.reg (R.CAN_VINMASK k))

/-- The entry of an input frame. -/
def canEntry (k : Nat) (b : Bytes) (i : Nat) : CanIn :=
  let o := 8 + 13 * i
  { ctrl := BitVec.ofNat 2 k, obj := BitVec.ofNat 20 (beAt b o 3), pad := BitVec.ofNat 4 (beAt b o 3 / 2 ^ 20), record := BitVec.ofNat 16 (beAt b (o + 3) 2),
    code1 := BitVec.ofNat 32 (beAt b (o + 5) 4), code2 := BitVec.ofNat 32 (beAt b (o + 9) 4), cycle := BitVec.ofNat 48 (beAt b 0 6) }

/-- The vital path takes a frame: its entries, the latest for each OBJ, or a discard. -/
def takeVital (s : State) (k : Nat) (f : CanFrame) : State :=
  if isStandby s then s
  else
    let c := beAt f.data 6 1
    if f.fdf && decide (1 ≤ c) && decide (c ≤ 4) && decide (8 + 13 * c ≤ dlcLen f.dlc.toNat f.fdf) then
      let es := (List.range c).map (canEntry k f.data)
      updCan s k fun x => { x with vrx := es.foldl (fun l e => l.filter (fun g => g.obj != e.obj) ++ [e]) x.vrx }
    else s.bump (R.CAN_VRXERRCNT k) 1

/-- The frame with its data filled to 64 bytes; the bytes after its own are free values (log 33). -/
def fillData (s : State) (f : CanFrame) : State × CanFrame :=
  let b := f.data.take (dlcLen f.dlc.toNat f.fdf)
  let more := (List.range 8).flatMap fun i => leBytes 8 (Config.freeBits (s.free + i)).toNat
  ({ s with free := s.free + 8 }, { f with data := (b ++ more).take 64 })

/-- Three-buffer mode: a frame that an enabled filter matches enters the FIFO (R327). -/
def toFifo (s : State) (k ts : Nat) (f : CanFrame) : State :=
  if (List.range 8).any fun i => s.regBit (R.FLT_ID k i) 31 && idMatches f (s.reg (R.FLT_ID k i)) (s.reg (R.FLT_MASK k i)) then
    if 32 ≤ (canAt s k).fifo.length then canEvent s k 2
    else
      let p := fillData s f
      canEvent (updCan p.1 k fun x => { x with fifo := x.fifo ++ [{ frame := p.2, ts := BitVec.ofNat 32 ts }] }) k 0
  else s

/-- A frame's data and data length code enter an object; bytes after the frame's own keep their values. -/
def storeFrame (x : ObjSt) (f : CanFrame) : ObjSt :=
  let old := wordBytes x.data
  let b := f.data.take (dlcLen f.dlc.toNat f.fdf)
  let all := b ++ old.drop b.length
  { x with dlc := f.dlc, data := (List.range 16).map fun w => BitVec.ofNat 32 (leAt all (4 * w) 4), new := true }

/-- The lowest-numbered receive object that a frame matches (R328). -/
def matchObj (s : State) (k : Nat) (f : CanFrame) : Option Nat :=
  ((canAt s k).objs.find? fun o => o.2.id.getLsbD 31 && !o.2.id.getLsbD 30 && idMatches f o.2.id o.2.mask).map (·.1)

/-- Message memory mode: a frame enters its object, or the object's shadow while it is locked (R328, R329). RX sets as the frame is stored, in the shadow too (DEDUCED, log 50). -/
def toObject (s : State) (k : Nat) (f : CanFrame) : State :=
  match matchObj s k f with
  | none => s
  | some o =>
    if (canAt s k).lock && objSel s k == o then
      if (objAt s k o).shadow.isSome then canEvent (canEvent (updObj s k o fun x => { x with shadow := some f, ovr := true }) k 2) k 0
      else canEvent (updObj s k o fun x => { x with shadow := some f }) k 0
    else canEvent (updObj s k o fun x => storeFrame x f) k 0

/-- The frame is a reference message of the time-triggered bus (R338): its identifier less PRIO is REFID. -/
def isReference (s : State) (k : Nat) (f : CanFrame) : Bool :=
  canTT s k && !f.ide && !f.fdf && f.id.toNat / 8 == s.regF (R.CAN_TTREF k) 0 11 / 8

/-- A reference message: a follower takes the basic cycle count and its time; a master yields to a lower PRIO (R338). -/
def takeReference (s : State) (k ts : Nat) (f : CanFrame) : State :=
  let prio := f.id.toNat % 8
  if (canAt s k).ttMaster && decide (s.regF (R.CAN_TTCFG k) 0 3 ≤ prio) then s
  else updCan s k fun x => { x with ttMaster := false, refDue := false, ttSync := true, ttCount := beAt f.data 0 1 % 64, ttRef := ts }

/-- REC falls by 1 with a good frame; from above 127 it falls to a free value of 119 to 127 (ISO 11898-1; log 32). -/
def recLowered (s : State) (k : Nat) : State :=
  if 127 < (canAt s k).rec0 then updCan s.drawn k fun x => { x with rec0 := 119 + s.freeNow.toNat % 9 }
  else updCan s k fun x => { x with rec0 := x.rec0 - 1 }

/-- CAN_FRAME_RECEIVED: a frame arrives, or ends in an error frame and is discarded. The vital path takes its frames alone (R335); a reference message is also stored where an object matches it (R328, R338). -/
def execCanFrameReceived (n : BitVec 2) (ts : Nat) (rx : CanRx) (s : State) : Host.Outcome State Fault Refusal :=
  let k := n.toNat
  if canRuns s k = false then .next s
  else match rx with
  | .error e => .next (rxFailed s k e)
  | .frame f =>
    let s1 := canErrState (recLowered (s.bump (R.CAN_RXCNT k) 1) k) k
    if f.rtr then .next s1
    else if isVital s k f then .next (takeVital s1 k f)
    else
      let s2 := if isReference s k f then takeReference s1 k ts f else s1
      .next (if canBit s k 1 then toObject s2 k f else toFifo s2 k ts f)

/-! ### Reads with effects (R327, R329) -/

/-- RXF_DATA15: the read returns the oldest frame's last word and removes the frame. -/
def execRxfData15 (n : BitVec 2) (s : State) : Host.Outcome State Fault Refusal :=
  let k := n.toNat
  match (canAt s k).fifo with
  | [] => .next { s with lastRead := 0 }
  | x :: t => .next { updCan s k fun c => { c with fifo := t } with lastRead := BitVec.ofNat 32 (leAt x.frame.data 60 4) }

/-- The words of the object window. -/
def objWord (x : ObjSt) (w : Nat) : Word :=
  match w with
  | 0 => x.id
  | 1 => x.mask
  | 2 => BitVec.ofNat 32 (x.dlc.toNat + b2n x.fdf * 16 + b2n x.brs * 32 + b2n x.new * 64 + b2n x.ovr * 128 + x.tx.res.toNat * 256 + b2n x.tx.rvalid * 65536)
  | 3 => x.tt
  | w => x.data.getD (w - 4) 0

/-- The lock ends: a frame in the shadow moves into the object; otherwise the releasing read clears NEW and OVR (R329). -/
def releaseObj (s : State) (k : Nat) (byRead : Bool) : State :=
  let o := objSel s k
  let s1 := updCan s k fun x => { x with lock := false }
  match (objAt s k o).shadow with
  | some f => updObj s1 k o fun x => { storeFrame x f with shadow := none }
  | none => if byRead then updObj s1 k o fun x => { x with new := false, ovr := false } else s1

/-- OBJ_DATA15: the read of the window's last word releases the object. -/
def execObjData15 (n : BitVec 2) (s : State) : Host.Outcome State Fault Refusal :=
  let k := n.toNat
  .next (releaseObj { s with lastRead := objWord (objAt s k (objSel s k)) 19 } k true)

/-- OBJ_WINDOW_READ: the first read of any word locks the object; that of the last word releases it. -/
def execObjWindowRead (n : BitVec 2) (w : BitVec 5) (s : State) : Host.Outcome State Fault Refusal :=
  let k := n.toNat
  let s1 := { s with lastRead := objWord (objAt s k (objSel s k)) w.toNat }
  if w.toNat = 19 then .next (releaseObj s1 k true)
  else if w.toNat < 19 then .next (updCan s1 k fun x => { x with lock := true })
  else .next s

/-- A write of OBJSEL: the lock ends, and the object named comes into the window. -/
def objSelWrite (s : State) (k : Nat) (v : Word) : State :=
  (if (canAt s k).lock then releaseObj s k false else s).setReg (R.CAN_OBJSEL k) (v &&& 0x7F)

/-- A write of a word of the object window, refused for a pending send object (R329). -/
def objWindowWrite (s : State) (k w : Nat) (v : Word) : State :=
  let o := objSel s k
  let x := objAt s k o
  if isSend x && x.tx.pending then canLost s k
  else updObj s k o fun x => match w with
    | 0 => { x with id := v }
    | 1 => { x with mask := v }
    | 2 => { x with dlc := v.setWidth 4, fdf := v.getLsbD 4, brs := v.getLsbD 5 }
    | 3 => { x with tt := v }
    | w => { x with data := x.data.set (w - 4) v }

/-! ### Time-triggered operation (R338 to R340) -/

/-- BASIC_CYCLE: the master offers the reference message of the next basic cycle; a follower's begins with the message it receives. -/
def execBasicCycle (n : BitVec 2) (s : State) : Host.Outcome State Fault Refusal :=
  let k := n.toNat
  let x := canAt s k
  if canRuns s k && canTT s k && x.ttMaster && !canBit s k 4 then
    let c := (x.ttCount + 1) % (s.regF (R.CAN_TTCYC k) 16 6 + 1)
    .next (updCan s k fun x => { x with ttCount := c, refDue := true, ttRef := s.cyc.timeBase })
  else .next s

/-- A basic cycle count matches an object's (R339). -/
def cycleMatches (x : ObjSt) (c : Nat) : Bool :=
  let m := 2 ^ fld x.tt.toNat 22 3
  c % m == fld x.tt.toNat 16 6 % m

/-- TT_TRIGGER: the trigger of a time-triggered send object ends the window before; the object gets its exclusive window, or opens an arbitrating one. -/
def execTtTrigger (n : BitVec 2) (obj : BitVec 7) (s : State) : Host.Outcome State Fault Refusal :=
  let k := n.toNat
  let x := objAt s k obj.toNat
  if canRuns s k && canTT s k && (canAt s k).ttSync && isSend x && x.tt.getLsbD 25 && cycleMatches x (canAt s k).ttCount then
    let s1 := updCan s k fun c => { c with objs := c.objs.map fun o => (o.1, { o.2 with due := false }) }
    let s2 := updObj s1 k obj.toNat fun x => { x with due := true }
    .next (updCan s2 k fun c => { c with window := if x.tt.getLsbD 26 then .exclusive obj.toNat else .arbitrating })
  else .next s

/-- TT_MASTER_TIMEOUT: a candidate becomes master. -/
def execTtMasterTimeout (n : BitVec 2) (s : State) : Host.Outcome State Fault Refusal :=
  let k := n.toNat
  if canRuns s k && canTT s k && s.regBit (R.CAN_TTCFG k) 3 then .next (updCan s k fun x => { x with ttMaster := true }) else .next s

/-- TTERR: no reference message for 4 × CYCLEN. -/
def execTtErr (n : BitVec 2) (s : State) : Host.Outcome State Fault Refusal :=
  let k := n.toNat
  if canRuns s k && canTT s k then .next (canEvent (updCan s k fun x => { x with ttSync := false, window := .none }) k 6) else .next s

end Sys2Proof.Machine
end

