-- ==== Sys2Proof/Machine/Checks.lean ====
section
/-! DEFINITION. The check units (R381 to R391): the algorithms, scans with their checks, stops and failures, and the background scan of the image banks. The bytes that a scan reads are operands of its commands where they lie outside what the state holds: those of host memory and of IOI SRAM, whose contents no chapter lays out. -/

namespace Sys2Proof.Machine

/-- An event of unit u (R391). -/
def chkEvent (s : State) (u bit : Nat) : State := s.event (R.CHKU_EVT u) (R.CHKU_EVTEN u) bit (58 + u)

/-- BUSY of a unit. -/
def chkBusy (s : State) (u : Nat) : Bool := s.regBit (R.CHKU_STAT u) 0

/-- OWNER: the unit is held by the background scan (R389). -/
def chkOwned (s : State) (u : Nat) : Bool := s.regBit (R.CHKU_STAT u) 4

/-- ALG, SRC and CMPEN of a unit. -/
def chkAlg (s : State) (u : Nat) : Nat := s.regF (R.CHKU_CFG u) 0 3
def chkSrc (s : State) (u : Nat) : Nat := s.regF (R.CHKU_CFG u) 4 3
def chkCmpEn (s : State) (u : Nat) : Bool := s.regBit (R.CHKU_CFG u) 7

/-- The algorithm's width in bits (R381). -/
def algWidth (alg : Nat) : Nat := if alg = 2 then 64 else 32

/-- The algorithm's initial value. -/
def algInit (alg : Nat) : DWord := if alg = 2 ∨ alg = 3 then 0 else 0xFFFFFFFF

/-- The algorithm's final XOR. -/
def algXor (alg : Nat) : DWord := if alg = 2 ∨ alg = 3 then 0 else 0xFFFFFFFF

/-- The CRC shift register after more bytes, in the algorithm's own bit order (R382). -/
def algRun (alg : Nat) (run : DWord) (b : Bytes) : DWord :=
  let low : Word := run.setWidth 32
  if alg = 0 then (b.foldl (crcByteR (0x82F63B78 : Word)) low).setWidth 64
  else if alg = 1 then (b.foldl (crcByteR (0xEDB88320 : Word)) low).setWidth 64
  else if alg = 2 then b.foldl (crcByte (0x42F0E1EBA9EA3693 : DWord)) run
  else if alg = 3 then (b.foldl (crcByte (0x814141AB : Word)) low).setWidth 64
  else (b.foldl (crcByteR (0xC8DF352F : Word)) low).setWidth 64

/-- The value that a wide register shows over an algorithm's width (R382). -/
def overWidth (alg : Nat) (v : DWord) : DWord := if alg = 2 then v else (v.setWidth 32).setWidth 64

/-- The size of a scan source, in bytes (R383). -/
def srcSize (src : Nat) : Nat :=
  if src = 0 then 6 * 2 ^ 20 else if src = 1 ∨ src = 2 then 512 * 2 ^ 20 else if src = 3 then 64 * 2 ^ 20 else 2 ^ 64

/-! ### Scans (R384 to R386) -/

/-- Bytes have been read: ADDR rises, LEN falls and RUN covers them; those of host memory by reads of it (R383). -/
def chkAdvance (s0 : State) (u : Nat) (b : Bytes) : State :=
  let s := if chkSrc s0 u = 4 then s0.readHost (s0.wide (R.CHKU_ADDR_LO u)).toNat b.length else s0
  let a := s.wide (R.CHKU_ADDR_LO u) + BitVec.ofNat 64 b.length
  let s1 := (s.setWide (R.CHKU_ADDR_LO u) a).setReg (R.CHKU_LEN u) (s.reg (R.CHKU_LEN u) - BitVec.ofNat 32 b.length)
  s1.setWide (R.CHKU_RUN_LO u) (algRun (chkAlg s u) (s.wide (R.CHKU_RUN_LO u)) b)

/-- A unit is free again; CHK4 then passes to the background scan where BGEN is 1 (R389). -/
def chkFree (s : State) (u : Nat) : State :=
  let s1 := s.setF (R.CHKU_STAT u) 0 1 0
  if u = 3 ∧ s.regBit R.CHK_CTRL 0 = true then s1.setF (R.CHKU_STAT u) 4 1 1 else s1

/-- LEN has reached 0: the result, the compare, DONE (R384). -/
def chkFinish (s : State) (u : Nat) : State :=
  let alg := chkAlg s u
  let res := overWidth alg (s.wide (R.CHKU_RUN_LO u) ^^^ algXor alg)
  let s1 := s.setWide (R.CHKU_RES_LO u) res
  let s2 := if chkCmpEn s u then chkEvent s1 u (if res = overWidth alg (s.wide (R.CHKU_EXP_LO u)) then 1 else 2) else s1
  chkFree (chkEvent s2 u 0) u

/-- A scan ends with ERR and its cause. -/
def chkError (s : State) (u cause : Nat) : State := chkFree (chkEvent (s.setF (R.CHKU_STAT u) 1 3 cause) u 3) u

/-- The bytes that a scan reads next: those of an image bank or of Shale flash as the state holds them (R383), others as the command carries them. -/
def chkBytes (s : State) (u n : Nat) (read : Bytes) : Bytes :=
  let a := (s.wide (R.CHKU_ADDR_LO u)).toNat
  match chkSrc s u with
  | 1 => bytesGet erasedByte s.stored.mem0 a n
  | 2 => bytesGet erasedByte s.stored.mem1 a n
  | 3 => bytesGet flashByte s.shale.flash a n
  | _ => read.take n

/-- GO: RUN is loaded where INIT is 1, the checks are made, and a scan of no bytes completes at once (R384). -/
def chkStart (s : State) (u : Nat) (init busMaster : Bool) : State :=
  let s1 := if init then s.setWide (R.CHKU_RUN_LO u) (algInit (chkAlg s u)) else s
  if srcSize (chkSrc s u) < (s.wide (R.CHKU_ADDR_LO u)).toNat + s.regN (R.CHKU_LEN u) then chkError s1 u 1
  else if chkSrc s u = 4 ∧ busMaster = false then chkError s1 u 3
  else if s.reg (R.CHKU_LEN u) = 0 then chkFinish s1 u
  else s1.setF (R.CHKU_STAT u) 0 1 1

/-- A write to a unit that is held by the background scan is refused (R389). -/
def chkRefuse (s : State) (u : Nat) : State := s.orReg (R.CHKU_STAT u) 0x20

/-- STOP on a running scan, after more bytes: the scan ends at the byte boundary, or completes where the last byte has been read (R385). A scan of host memory has read none of them in D3hot (R386). -/
def chkStopNow (s : State) (u : Nat) (more : Bytes) : State :=
  let len := s.regN (R.CHKU_LEN u)
  let read := if chkSrc s u = 4 ∧ s.hif.d3hot = true then [] else more
  if len ≤ read.length then chkFinish (chkAdvance s u (chkBytes s u len read)) u
  else chkFree (chkEvent (chkAdvance s u (chkBytes s u read.length read)) u 4) u

/-- A write of CTRL: any is refused on a unit that the background scan holds, GO on a running one; STOP on an idle one has no effect, in the write that starts a scan too (R384, R385, R387, R389). -/
def chkCtrlWrite (s : State) (u : Nat) (v : Word) (busMaster : Bool) (read : Bytes) : State :=
  if chkOwned s u then chkRefuse s u
  else if chkBusy s u then
    let s1 := if v.getLsbD 0 then chkRefuse s u else s
    if v.getLsbD 2 then chkStopNow s1 u read else s1
  else if v.getLsbD 0 then chkStart s u (v.getLsbD 1) busMaster
  else s

/-- A host scan runs on the unit, and can read: one of host memory waits in D3hot (R386). -/
def chkRuns (s : State) (u : Nat) : Bool := chkBusy s u && !chkOwned s u && !(chkSrc s u == 4 && s.hif.d3hot)

/-- SCAN_COMPLETE (R384): the last of the LEN bytes has been read. -/
def execScanComplete (u : BitVec 2) (read : Bytes) (s : State) : Host.Outcome State Fault Refusal :=
  let k := u.toNat
  let n := s.regN (R.CHKU_LEN k)
  let b := chkBytes s k n read
  if chkRuns s k && b.length == n then .next (chkFinish (chkAdvance s k b) k) else .next s

/-- The bytes of a read of host memory that fails: up to the end of the request that it begins (R229). -/
def failedRead (s : State) (u : Nat) : State :=
  if chkSrc s u = 4 then
    match spans (readMax s) (s.wide (R.CHKU_ADDR_LO u)).toNat (s.regN (R.CHKU_LEN u)) with
    | [] => s
    | e :: _ => s.emit (.pcieRead e.1 e.2)
  else s

/-- SCAN_READ_FAILURE (R386): the read after the bytes given has failed. -/
def execScanReadFailure (u : BitVec 2) (read : Bytes) (s : State) : Host.Outcome State Fault Refusal :=
  let k := u.toNat
  if chkRuns s k && decide (read.length < s.regN (R.CHKU_LEN k)) then
    .next (chkError (failedRead (chkAdvance s k (chkBytes s k read.length read)) k) k 2)
  else .next s

/-- A reset of the function ends every scan of host memory as a read failure does, after the bytes that each unit had read by then; in D3hot it had read none (R386). -/
def endHostScans (scanned : List Bytes) (s : State) : State :=
  [0, 1, 2, 3].foldl (fun t u =>
    if chkBusy t u && !chkOwned t u && chkSrc t u == 4 then
      chkError (chkAdvance t u (if s.hif.d3hot then [] else (scanned.getD u []).take (t.regN (R.CHKU_LEN u)))) u 2
    else t) s

/-! ### Configuration writes (R382, R387, R389) -/

/-- Whether a write to a unit's CFG, LEN, ADDR, RUN or EXP takes effect. -/
def chkOpen (s : State) (u : Nat) : Bool := !chkBusy s u && !chkOwned s u

/-- A write of one of them; the high words of RUN and EXP take none for a 32-bit algorithm. -/
def chkCfgWrite (s : State) (u off : Nat) (v : Word) : State :=
  if !chkOpen s u then chkRefuse s u
  else if (off = R.CHKU_RUN_HI u ∨ off = R.CHKU_EXP_HI u) ∧ chkAlg s u ≠ 2 then s
  else s.setReg off v

/-! ### The background scan (R389) -/

/-- A pass is running. -/
def bgRunning (s : State) : Bool := s.regBit R.CHK_BGSTAT 0

/-- RUN of the pass, and BUSY of CHK4 with it. -/
def setBg (s : State) (on : Bool) : State := (s.setF R.CHK_BGSTAT 0 1 (b2n on)).setF (R.CHKU_STAT 3) 0 1 (b2n on)

/-- The stored images that a pass scans, in its order (DESIGN CHOICE, log 80: R389 names none): each region that holds one, by bank and kind, with the number of its stored bytes. -/
def bgRegions (s : State) : List (Bool × Bool × Nat) :=
  ([(false, false), (false, true), (true, false), (true, true)].map fun r => (r.1, r.2, storedLen s r.1 r.2)).filter fun r => r.2.2 != 0

/-- CHK4 shows a pass that has read p bytes of a stored image: ADDR and LEN name the bytes left, and RUN covers those read (R382, R385). -/
def bgShow (s : State) (r : Bool × Bool × Nat) (p : Nat) : State :=
  let s1 := (s.setWide (R.CHKU_ADDR_LO 3) (BitVec.ofNat 64 (regionBase r.2.1 + p))).setReg (R.CHKU_LEN 3) (BitVec.ofNat 32 (r.2.2 - p))
  s1.setWide (R.CHKU_RUN_LO 3) (algRun 0 (algInit 0) (regionBytes s r.1 r.2.1 p))

/-- How far a stopped pass has come is a free value: some byte of some image that it scans (log 80). -/
def bgStopped (s : State) : State :=
  let rs := bgRegions s
  match rs[s.freeNow.toNat % rs.length]? with
  | none => s
  | some r => bgShow s.drawn.drawn r ((Config.freeBits (s.free + 1)).toNat % (r.2.2 + 1))

/-- A write of BGEN: CHK4 passes to the management plane once no host scan runs on it, or is taken back, which stops a pass under R385. -/
def bgWrite (s : State) (en : Bool) : State :=
  let s1 := s.setF R.CHK_CTRL 0 1 (b2n en)
  if en = s.regBit R.CHK_CTRL 0 then s
  else if en then
    let s2 := { s1 with chk := { ticks := 0 } }
    if chkBusy s 3 then s2 else s2.setF (R.CHKU_STAT 3) 4 1 1
  else
    let s2 := if bgRunning s then chkEvent (setBg (bgStopped s1) false) 3 4 else s1
    s2.setF (R.CHKU_STAT 3) 4 1 0

/-- A management tick in the background scan: every SCANPER of them a pass begins. -/
def bgTick (s : State) : State :=
  if !s.regBit R.CHK_CTRL 0 then s
  else
    let n := s.chk.ticks + 1
    if s.regF R.CHK_BGCFG 0 16 ≤ n ∧ chkOwned s 3 = true ∧ bgRunning s = false then setBg { s with chk := { ticks := 0 } } true
    else { s with chk := { ticks := n } }

/-- A mismatch of a bank: FAIL, CHK4's MISMATCH event, and a record. -/
def bgMismatch (s : State) (bank : Nat) : State :=
  (chkEvent (s.orReg R.CHK_BGSTAT (BitVec.ofNat 32 (2 ^ (bank + 1)))) 3 2).note 3 (openSev 3) 0x00

/-- A bank's flash reads some bytes otherwise than they were written. -/
def bankLosses (s : State) (b : Bool) (lost : List (Nat × Byte)) : State :=
  setBankMem s b fun m => (lost.filter fun c => decide (c.1 < 2 ^ 29)).foldl (fun m c => cellPut erasedByte c.1 c.2 m) m

/-- A stored image of a bank does not have the CRC-32C that was recorded as it was written (R389, R409). -/
def bankBad (s : State) (b : Bool) : Bool :=
  let bad (loam : Bool) (want : Word) : Bool := storedLen s b loam != 0 && crc32c (regionBytes s b loam (storedLen s b loam)) != want
  bad false (bankOf s b).fcrc || bad true (bankOf s b).lcrc

/-- BACKGROUND_SCAN (R389): the running pass ends. The operands are the bytes of each bank that its flash has lost since it last changed; the CRC over each stored image is held against the recorded one. -/
def execBackgroundScan (lost0 lost1 : List (Nat × Byte)) (s : State) : Host.Outcome State Fault Refusal :=
  let s0 := bankLosses (bankLosses s false lost0) true lost1
  if !bgRunning s then .next s0
  else
    let s1 := if bankBad s0 false then bgMismatch s0 0 else s0
    let s2 := if bankBad s0 true then bgMismatch s1 1 else s1
    let s3 := match (bgRegions s2).getLast? with | none => s2 | some r => bgShow s2 r r.2.2
    .next (setBg (s3.bumpSat R.CHK_BGSTAT 16 16) false)

/-- The CHK registers whose value depends on the algorithm: high words read 0 for a 32-bit one (R382). -/
def liveCHK (s : State) (off v : Nat) : Nat :=
  if [0, 1, 2, 3].any fun u => chkAlg s u != 2 && (off == R.CHKU_RUN_HI u || off == R.CHKU_EXP_HI u || off == R.CHKU_RES_HI u) then 0 else v

end Sys2Proof.Machine
end

