-- ==== Sys2Proof/Machine/Pair.lean ====
section
/-! DEFINITION. The standby pairing that the lanes and their commits decide: eligibility (R355), the copy sweep of a standby (R351, R352, R354), the copy that an active sends (R353, R354), and the role committed at each commit (R345 to R347, R357 to R360). -/

namespace Sys2Proof.Machine

/-! ### Events and eligibility -/

/-- An event of the pairing (R365). -/
def sbyEvent (s : State) (bit : Nat) : State := s.event R.SBY_EVT R.SBY_EVTEN bit 56

/-- The pairing state changed. -/
def State.updSby (s : State) (f : SbySt → SbySt) : State := { s with sby := f s.sby }

/-- Eligibility ends with a cause, and a new full copy is needed (R355). -/
def loseElig (s : State) (cause : Nat) : State :=
  let s1 := s.updSby fun x => { x with fullIn := false, fullDone := false }
  if s.sby.elig then
    sbyEvent ((s1.updSby fun x => { x with elig := false, lost := BitVec.ofNat 4 cause }).bump R.SBY_LOSTCNT 1) 2
  else s1

/-- The PAIRFMT of the running firmware (R348, R423). -/
def pairFmt (s : State) : Byte := match s.upd.booted with | some b => (bankOf s b).pairfmt | none => 0

/-- The partner reports the same Loam image and firmware format (R355). -/
def sameImage (s : State) : Bool :=
  match s.sby.partner, s.loam with
  | some p, some m => p.imageId == m.imageId && p.imageVer == m.imageVer && p.hcrc == m.hcrc && p.pairfmt == pairFmt s
  | _, _ => false

/-- The partner reports the same T_cyc, and its t0 lies within 2 µs (R355). -/
def sameCycle (s : State) : Bool :=
  match s.sby.partner with
  | some p => p.tcyc.toNat == s.cyc.tcyc && p.t0Diff ≤ 2
  | none => false

/-- The first failing condition of eligibility among those that the module's own state shows (R355). -/
def eligCause (s : State) : Option Nat :=
  if !s.sby.link then some 1
  else if !sameImage s then some 4
  else if !sameCycle s then some 5
  else if !s.level.serves then some 7
  else none

/-- Eligibility follows its conditions: it ends at the first failure, and returns after a full copy (R355). -/
def checkElig (s : State) : State :=
  if s.sby.role ≠ .standby then s
  else match eligCause s with
    | some c => if s.sby.elig then loseElig s c else s
    | none => if s.sby.fullDone && !s.sby.elig then sbyEvent (s.updSby fun x => { x with elig := true }) 1 else s

/-! ### The copy sweep of a standby (R351, R352) -/

/-- The element words that a snapshot delivers; a later one replaces an earlier. -/
def copiedWords (bs : List CopyBlock) : List (Nat × Info) :=
  bs.foldl (fun a b =>
    if !blockOk b then a
    else match b.body with
      | .delta ws => ws.foldl (fun a w => assocPutUp w.1.toNat w.2 a) a
      | .fullRun i ws => ws.zipIdx.foldl (fun a w => assocPutUp (i.toNat + w.2) w.1 a) a
      | _ => a) []

/-- A block begins a new full copy. -/
def startsCopy (b : CopyBlock) : Bool := match b.body with | .fullRun i _ => i == 0 | _ => false

/-- A lane takes the region words of a block, in its own cycle numbering: the regions are those that the block names once every word in which the lane's differ from them has come (R351, R352; log 68). A full copy starts afresh. -/
def takeRegions (d : Int) (x : LaneSt) (b : CopyBlock) : LaneSt :=
  if !blockOk b then x
  else match b.body with
    | .regions ws r =>
      let got := x.copyReg ++ ws
      if (changedRegion (shiftRegions (-d) x.reg) r).all fun a => got.contains a then { x with reg := copiedHere (shiftRegions d r), copyReg := [] }
      else { x with copyReg := got }
    | _ => if startsCopy b then { x with copyReg := [] } else x

/-- The primary step of the copy sweep on an element: the word delivered for it, or its stored word (R351, R352), whose result waits in a delay register. -/
def copyPrimary (c : Ctx) (m : Loam) (ws : List (Nat × Info)) (unit : Nat) (x : LaneSt) (i : ElemIx) : LaneSt :=
  if x.cx.isSome then x
  else if !loadOk c m x i then x.faulted 1 unit i
  else
    let v := (assoc i ws).getD (infoOf c x i)
    x.issue unit ⟨i, v, checkField c.lane v x.eCur⟩

/-- Its shadow step, on the transformed word; an agreed result is written with epoch E_CUR (R182, R184, R186, R191). -/
def copyShadow (c : Ctx) (m : Loam) (ws : List (Nat × Info)) (unit : Nat) (x : LaneSt) (i : ElemIx) : LaneSt :=
  if x.cx.isSome then x
  else if !loadOkShadow c m x i then x.faulted 1 unit i
  else
    let v := shadowInv c.lane (shadowFwd c.lane ((assoc i ws).getD (infoOf c x i)))
    x.compare unit v (checkShadow c.lane v x.eCur) fun y r => { y.putCoded c.lane r.elem r.x r.c with stepped := insertUp r.elem y.stepped }

/-- A slot of the copy sweep's interleave. -/
def copySlot (c : Ctx) (m : Loam) (ws : List (Nat × Info)) (x : LaneSt) (p : Option (ElemIx × Nat) × Option (ElemIx × Nat)) : LaneSt :=
  let y := match p.1 with | some q => copyPrimary c m ws q.2 x q.1 | none => x
  match p.2 with | some q => copyShadow c m ws q.2 y q.1 | none => y

/-- A stratum of the copy sweep, in the order of R99 and the interleave of R188. -/
def copyStratum (c : Ctx) (m : Loam) (ws : List (Nat × Info)) (x : LaneSt) (st : Nat) : LaneSt :=
  let us := evaluators x
  let ps := (((List.range m.elems.length).filter fun i => (m.elem i).stratum == st).zipIdx).map fun p => (p.1, us.getD (p.2 % us.length) 0)
  (interleave (us.length * x.set.offset) ps).foldl (copySlot c m ws) x

/-- What the close blocks of a snapshot name: cycle, PAIRSUM and handover. -/
def closeBlocks (bs : List CopyBlock) : List (Nat × DWord × Bool) :=
  bs.filterMap fun b => match blockOk b, b.body with | true, .close p h => some (b.cycle, p, h) | _, _ => none

/-- After a lane has applied a snapshot's copy blocks: a block that failed its codes or a PAIRSUM that differs ends eligibility (R352, R354); otherwise the delta is held, and the first one after a full pass completes the full copy (R354, R355). -/
def copyApplied (s0 : State) (l : Lane) (m : Loam) (bs : List CopyBlock) : State :=
  let s := if bs.any startsCopy then s0.updSby fun x => { x with fullIn := true } else s0
  if bs.any (fun b => !blockOk b) then loseElig s 3
  else match (closeBlocks bs).getLast? with
    | none => s
    | some (n, p, h) =>
      if pairSum l m s.sby.coffset (s.lanes.get l) ≠ p then loseElig s 3
      else if s.sby.held = some n then s
      else checkElig (s.updSby fun x => { x with held := some n, fullDone := x.fullDone || x.fullIn, offered := h })

/-! ### The copy that an active sends (R353, R354) -/

/-- The lane whose words the copy blocks carry: the lowest-lettered member that runs. -/
def copyLane (s : State) : Option Lane := allLanes.find? fun l => (s.lanes.get l).st == .member && (s.lanes.get l).running

/-- A list in runs of n entries. -/
def runsOf {α : Type} (n : Nat) : Nat → List α → List (List α)
  | 0, _ => []
  | k + 1, l => if l.isEmpty then [] else l.take n :: runsOf n k (l.drop n)

/-- The blocks of a list of bodies, numbered from 0, each with both codes (R24, R352). -/
def blocksOf (cycle : Nat) (bs : List CopyBody) : List CopyBlock := bs.zipIdx.map fun b => makeBlock cycle (BitVec.ofNat 32 b.2) b.1

/-- The bodies that bring region words, with 32 of them in a block of 64 entries (R352). -/
def regionBlocks (r : Regions) (ws : List (Nat × DWord)) : List CopyBody := (runsOf 32 ws.length ws).map fun es => .regions es r

/-- The blocks of a full pass of a lane: runs of element words, then the regions (R353). -/
def fullBlocks (s : State) (m : Loam) (l : Lane) : List CopyBlock :=
  let ws := elemWords s l m
  blocksOf s.cyc.cycle ((runsOf 126 ws.length ws).zipIdx.map (fun c => .fullRun (BitVec.ofNat 23 (126 * c.2)) c.1) ++ regionBlocks (s.lanes.get l).reg (allRegion (s.lanes.get l).reg))

/-- The element words that differ from those sent before. -/
def changedWords (base ws : List Info) : List (BitVec 23 × Info) :=
  ws.zipIdx.filterMap fun w => if base[w.2]? = some w.1 then none else some (BitVec.ofNat 23 w.2, w.1)

/-- The blocks of a delta of a lane: changed element words, changed region words, and the close block (R354). -/
def deltaBlocks (s : State) (m : Loam) (handover : Bool) (l : Lane) : List CopyBlock :=
  let x := s.lanes.get l
  let ws := changedWords s.sby.base (elemWords s l m)
  blocksOf s.cyc.cycle ((runsOf 64 ws.length ws).map .delta ++ regionBlocks x.reg (changedRegion (s.sby.baseReg.getD Regions.empty) x.reg) ++
    [.close (pairSum l m 0 x) handover])

/-- What a lane presents to the Sieve for the copy of this cycle, at its own words. -/
def laneBlocks (s : State) (m : Loam) (l : Lane) : List CopyBlock := if s.sby.plan = 1 then fullBlocks s m l else deltaBlocks s m s.sby.planHand l

/-- A lane that has committed presents its copy blocks. -/
def presentBlocks (s : State) (l : Lane) : State :=
  match s.loam with
  | some m => if s.sby.plan = 0 then s else s.updSby fun x => { x with blocks := x.blocks.set l (laneBlocks s m l) }
  | none => s

/-- The partner can take a full copy (R353), and one is needed: it is not eligible, or a delta copy has overrun (R154, R354). -/
def copyWanted (s : State) : Bool :=
  s.sby.link && (s.sby.partner.map fun p => p.role == 2 && (!p.elig || s.sby.deltaLost) && decide (2 ≤ p.level.toNat)).getD false && sameImage s && sameCycle s && s.level.serves &&
    s.group.rejoin.isNone && s.group.proof.isNone

/-- A full copy begins (R353); its counts follow R222. -/
def beginCopy (s : State) : State :=
  (s.updSby fun x => { x with copy := 1, copyStart := s.cyc.cycle, base := [], baseReg := none, deltaLost := false }).setReg R.SBY_COPYWORDS 0

/-- What an active copies after its commit (R353, R354): nothing, the full pass in the first EXCHANGE two cycles after the copy began, or a delta. A pair whose partner is still not eligible three cycles after a copy starts afresh. -/
def pairExchange (s : State) (handover : Bool) : State :=
  let n := s.cyc.cycle
  let stop (t : State) : State := t.updSby fun x => { x with copy := 0 }
  let copies (p : BitVec 2) : State := s.updSby fun x => { x with plan := p, planHand := handover, blocks := ⟨[], [], []⟩ }
  if s.loam.isNone ∨ s.level.serves = false ∨ s.sieve.latch = true ∨ s.sby.link = false then stop s
  else if s.sby.copy = 0 then (if copyWanted s then beginCopy s else s)
  else if s.sby.copy = 1 then
    if s.group.rejoin.isSome ∨ s.group.proof.isSome then stop s
    else if n < s.sby.copyStart + 2 then s
    else copies (if s.sby.baseReg.isNone then 1 else 2)
  else if copyWanted s ∧ s.sby.copyStart + 3 ≤ n then beginCopy s
  else copies 2

/-! ### The role (R345 to R347, R357, R358, R360) -/

/-- A role is committed for the next cycle (R345); a change is counted and reported, and a module that becomes STANDBY is not eligible, with cause 0x0 (R355). A first role of STANDBY is no change (log 46). -/
def commitRole (s : State) (r : Role) : State :=
  if s.sby.role = r then s
  else
    let s1 := s.updSby fun x => { x with
      role := r, elig := if r = .standby then false else x.elig, lost := if r = .standby then 0 else x.lost
      fullIn := false, fullDone := false, held := none, offered := false }
    if s.sby.role = .alone ∧ r = .standby then s1 else sbyEvent (s1.bump R.SBY_SWCNT 1) 0

/-- MSHIP_IN reads static (R344). -/
def mshipStatic (s : State) : Bool := s.sby.min == 1

/-- The standby link has carried no valid frame for at least 1 s (R346). -/
def linkSilent (s : State) : Bool := s.sby.lastFrame + 1000000 ≤ s.cyc.timeBase

/-- The first role after STOPPED (R346). -/
def firstRole (s : State) : Role := if mshipStatic s && (s.sby.strap || linkSilent s) then .active else .standby

/-- A takeover: the module commits ACTIVE, and the next cycle is its takeover cycle (R357, R358). -/
def takeOver (s : State) : State := (commitRole s .active).updSby fun x => { x with takeover := some (s.cyc.cycle + 1) }

/-- A standby that cannot take an offered handover says so (R358, R360). -/
def refuseHandover (s : State) : State :=
  let s1 := loseElig ((s.emit .pairRefuse).updSby fun x => { x with refused := true, offered := false }) 8
  sbyEvent s1 5

/-- The module has applied the delta of the latest VOTE cycle that it has received, or a later one (R357). -/
def voteHeld (s : State) : Bool :=
  match s.sby.vote, s.sby.held with
  | none, _ => true
  | some v, some h => decide (v ≤ h)
  | some _, none => false

/-- The commit of a STANDBY module: a takeover where it is eligible, MSHIP_IN is static, and it holds the delta of the latest VOTE cycle. -/
def standbyCommit (s : State) : State :=
  let ready := s.sby.elig && mshipStatic s
  if ready && voteHeld s then takeOver s
  else if s.sby.offered then refuseHandover s
  else if ready then loseElig s 6
  else s

/-- The completion of STANDBY_SWITCH at the commit that ends the handover (R360). -/
def answerSwitch (s : State) (status : Nat) : State :=
  match s.sby.switchReq with
  | none => s
  | some q => (s.complete (mkCmpl opSwitch q status s.cyc.cycle (roleByte s))).updSby fun x => { x with switchReq := none }

/-- The end of a handover, at the commit of n + 2: DONE where the partner took over, otherwise the module takes its role back. -/
def endHandover (s : State) : State :=
  let s1 := s.updSby fun x => { x with handover := none }
  if mshipStatic s then answerSwitch (takeOver s1) stTimeout else answerSwitch s1 stDone

/-- The commit of an ACTIVE module (R347). -/
def activeCommit (s : State) : State := if !s.sby.strap && !mshipStatic s then sbyEvent (commitRole s .standby) 4 else s

/-- The commit of a module with no handover in progress: its first role in the first service cycle, and from then on its duty in the role that it has, an ACTIVE module's at every level (R346, R347, R357). -/
def dutyCommit (s : State) : State :=
  if s.level.serves && !s.sby.firstDone then (commitRole s (firstRole s)).updSby fun x => { x with firstDone := true }
  else match s.sby.role with
    | .standby => standbyCommit s
    | .active => activeCommit s
    | .alone => s

/-- The role committed at a commit, for the next cycle (R345): a handover's at the commits of n and n + 2 (R360), and otherwise the module's duty. In STOPPED the next first role is still to come (R346). -/
def roleCommit (s : State) : State :=
  if !s.sby.pairenNow then s
  else
    let s0 := if s.level = .stopped then s.updSby fun x => { x with firstDone := false } else s
    match s0.sby.handover with
    | some n => if n + 2 ≤ s.cyc.cycle then endHandover s0 else if n = s.cyc.cycle then commitRole s0 .standby else s0
    | none => dutyCommit s0

end Sys2Proof.Machine
end

