-- ==== Sys2Proof/Machine/Logic.lean ====
section
/-! DEFINITION. LOGIC and assembly (R98, R99, R108, R152, R161, R164, R171, R178, R351, R358): the order in which a lane applies changes, executes the requests of its snapshot, propagates, runs the wave stage and the sweep, and builds its words; with the halt points of R199 inside LOGIC. -/

namespace Sys2Proof.Machine

/-! ### What LOGIC of a cycle consists of (R161, R351, R358) -/

/-- The kinds of a cycle's LOGIC: held (STOPPED, a takeover cycle, or no image), the copy sweep of a standby, or the steps of R152. -/
inductive LogicKind | held | copy | full
deriving DecidableEq, Repr

/-- The kind of a lane's LOGIC in the present cycle. -/
def logicKind (s : State) : LogicKind :=
  if s.level = .stopped ∨ s.loam.isNone ∨ s.sby.takeover = some s.cyc.cycle then .held
  else if isStandby s then .copy
  else .full

/-- The image in force, an empty one where there is none. -/
def imageOf (s : State) : Loam :=
  s.loam.getD { imageId := 0, imageVer := 0, hcrc := 0, certId := [], canary := 0, strata := 0, propmax := 0, elems := [], routes := [], path := [],
                rules := [], keymap := [], signed := [] }

/-! ### Requests -/

/-- A request of the module, judged once for a snapshot: a lane that comes to it later completes it with the same answer. -/
def judgeOnce (s : State) (l : Lane) (d : BitVec 16 × Req) : State × Option (Nat × Bytes) :=
  match assoc d.2.seq s.group.judged with
  | some a => (s, a)
  | none =>
    let r := moduleRequest s l d.1 d.2 ((assoc d.2.seq s.hif.bufs).getD [])
    ({ r.1 with
      group := { r.1.group with judged := r.1.group.judged ++ [(d.2.seq, r.2)] }
      hif := { r.1.hif with bufs := r.1.hif.bufs.filter fun b => b.1 != d.2.seq } }, r.2)

/-- A descriptor of the snapshot in its turn: carried out on the lane's words, or judged for the module and completed. -/
def takeDesc (l : Lane) (s : State) (d : BitVec 16 × Req) : State :=
  if isLaneOp d.1 then s.updLane l fun x => if x.cx.isSome then x else laneRequest (ctxOf s l) d.1 d.2 x
  else
    let r := judgeOnce s l d
    match r.2 with
    | none => r.1
    | some a => r.1.updLane l fun x => x.answer (ctxOf s l) d.1 d.2 a.1 a.2

/-- The descriptors of the lane's snapshot that satisfy a condition, in snapshot order. -/
def takeDescs (s : State) (l : Lane) (p : BitVec 16 → Bool) : State :=
  ((((s.lanes.get l).snap.map (·.descs)).getD []).filter fun d => p d.1).foldl (takeDesc l) s

/-- The online-change opcodes, executed first (R152, step 2). -/
def isParamOp (op : BitVec 16) : Bool := op == opPropose || op == opConfirm

/-- The route-engine opcodes, executed in the wave stage (R152, step 4). -/
def isRouteOp (op : BitVec 16) : Bool := isLaneOp op && !isParamOp op && op != opRead

/-- The completions that the present snapshot shows as due (R413). -/
def takeShown (s : State) (l : Lane) : State :=
  s.group.shown.foldl (fun t e => t.updLane l fun x => x.answer (ctxOf s l) e.1 e.2.1 e.2.2.1 e.2.2.2) s

/-! ### The start of LOGIC -/

/-- The epochs advance, and the stepped map is cleared (R178). -/
def LaneSt.startLogic (n : Nat) (x : LaneSt) : LaneSt := { x with eOld := x.eCur, eCur := n, stepped := [], logicDone := true }

/-- In BEDROCK every wave is withdrawn, its ROUTE_SET completed with SERVICE_LEVEL, and the words are cleared (R47). -/
def bedrockStart (c : Ctx) (m : Loam) (x : LaneSt) : LaneSt :=
  let ws := x.reg.waves
  ws.foldl (fun y w => if w.copied then y else answerElem c opRouteSet w.req stLevel none y) (bedrockClear c m x)

/-- Everything before propagation in one lane: marks of R98, the clearing of BEDROCK, the confirmed change, the end of a proposal's window. -/
def logicBegin (c : Ctx) (m : Loam) (x : LaneSt) : LaneSt :=
  let y := (x.startLogic c.cycle).mark (changedInputs m x ++ keyElems m)
  let z := if c.level = .bedrock then bedrockStart c m y else y
  expireProposal c (applyConfirmed c m z)

/-- The stepping elements of a stratum under a breakpoint: KIND 1 stops before it, KIND 2 after the stratum before (R202). -/
def stratumHit (m : Loam) (set : List ElemIx) (st : Nat) (w : Word) : Bool :=
  let e := fld w.toNat 0 23
  let inSt (k : Nat) : Bool := set.contains e && e < m.elems.length && (m.elem e).stratum == k
  (fld w.toNat 26 3 == 1 && inSt st) || (fld w.toNat 26 3 == 2 && 0 < st && inSt (st - 1))

/-- Where propagation goes from a ripple's end: the next ripple while elements are dirty and ripples are left, otherwise the requests (R99). -/
def nextRipple (m : Loam) (k : Nat) (x : LaneSt) : LaneSt :=
  if x.reg.dirty.isEmpty || m.propmax ≤ k then { x with place := .requests }
  else { x with place := .ripple (k + 1) 0 x.reg.dirty, reg := { x.reg with dirty := [] } }

/-- The entry of LOGIC, by its kind. -/
def enterLogic (s : State) (l : Lane) : State :=
  let m := imageOf s
  match logicKind s with
  | .held => (takeShown (takeDescs s l fun _ => true) l).updLane l fun x => { x with place := .output }
  | .copy =>
    let s1 := s.updLane l fun x => { x.startLogic s.cyc.cycle with place := .sweep 0 }
    takeShown (takeDescs s1 l fun op => op != opRead) l
  | .full =>
    let s1 := takeDescs (s.updLane l (logicBegin (ctxOf s l) m)) l isParamOp
    s1.updLane l (nextRipple m 0)

/-! ### The places of LOGIC -/

/-- The stratum that a halt point shows: the one about to begin, or at the barrier after the last stratum that one (R202). -/
def shownStratum (m : Loam) (st : Nat) : Nat := min st (m.strata - 1)

/-- A stratum of a ripple, or its end (R99). -/
def atRipple (s : State) (l : Lane) (k st : Nat) (set : List ElemIx) : State :=
  let m := imageOf s
  let r := haltPoint s l 2 1 (shownStratum m st) k (stratumHit m set st)
  if !r.2 then r.1
  else r.1.updLane l fun x =>
    if st < m.strata then { runStratum (ctxOf s l) m false set x st with place := .ripple k (st + 1) set } else nextRipple m k x

/-- The requests: those judged for the module, then in FULL and REDUCED the wave stage's own and the route-map items, up to its first pass (R108, R152). -/
def atRequests (s : State) (l : Lane) : State :=
  let m := imageOf s
  let c := ctxOf s l
  let s1 := takeShown (takeDescs s l fun op => !isLaneOp op) l
  let s2 := takeDescs s1 l isRouteOp
  s2.updLane l fun x =>
    if c.level.serves then
      let y := if x.cx.isSome then x else routeItems c m x
      { (if y.rpt.steps < y.set.wsteps && y.cx.isNone then startPasses c m y else y) with place := .pass 0 }
    else { x with place := .sweep 0 }

/-- The signature terms of the wave table and trail words that the stage has written (R193). -/
def stageTerms (x : LaneSt) : LaneSt :=
  x.addTerms ((Config.stageWords { x.reg with waves := bareWaves x.reg } x.rpt.steps).foldl (fun k p => k + sigTerm (2 ^ 23 + p.1) p.2.toNat) 0)

/-- A wave pass, or the end of the stage (R108, R110). -/
def atPass (s : State) (l : Lane) (k : Nat) : State :=
  let m := imageOf s
  let r := haltPoint s l 2 2 0 k fun _ => false
  if !r.2 then r.1
  else r.1.updLane l fun x =>
    if x.set.wsteps ≤ x.rpt.steps || !x.reg.waves.any live then { stageTerms (endStage x) with place := .sweep 0 }
    else { onePass (ctxOf s l) m x with place := .pass (k + 1) }

/-- A stratum of the sweep, or its end with the reads of ELEMENT_READ (R99, R249, R351). -/
def atSweep (s : State) (l : Lane) (st : Nat) : State :=
  let m := imageOf s
  let bs := ((s.lanes.get l).snap.map (·.copies)).getD []
  let r := haltPoint s l 2 3 (shownStratum m st) 0 (stratumHit m (List.range m.elems.length) st)
  if !r.2 then r.1
  else if st < m.strata then
    r.1.updLane l fun x =>
      let y := if logicKind s = .copy then copyStratum (ctxOf s l) m (copiedWords bs) x st
        else runStratum (ctxOf s l) m true (List.range m.elems.length) x st
      { y with place := .sweep (st + 1) }
  else
    let s1 := if logicKind s = .copy then
        copyApplied (r.1.updLane l fun x => bs.foldl (takeRegions s.sby.coffset) x) l m bs
      else r.1
    (takeDescs s1 l fun op => op == opRead).updLane l fun x => { x with place := .output }

/-! ### Assembly (R24, R41, R152, R161, R351, R358) -/

/-- The messages of a lane in a cycle: none from a standby or in a takeover cycle, none without an image, and only with two members in BEDROCK and STOPPED (R41, R161). -/
def cycleMsgs (s : State) (l : Lane) : List Msg :=
  let c := ctxOf s l
  match s.loam with
  | none => []
  | some m =>
    if isStandby s ∨ s.sby.takeover = some s.cyc.cycle ∨ (!s.level.serves && setSize (memberSet s) < 2) then []
    else fieldMsgs c m (!s.level.serves || laneDbg s l) (s.lanes.get l)

/-- Assembly: both passes build the record of every field-bound element, and their records are compared; the messages join the completions, leave their signature terms, and give the outputs commanded on (R190, R193, R377). -/
def assemble (s : State) (l : Lane) : State :=
  let c := ctxOf s l
  let m := imageOf s
  let safe := !s.level.serves || laneDbg s l
  let ms := cycleMsgs s l
  let x := if ms.isEmpty then s.lanes.get l
    else assembleElems c m safe (s.lanes.get l)
  let ws := ms.map OutWord.msg ++ x.words
  s.updLane l fun _ => { x.addTerms (messageTerms ws) with words := ws, place := .done, outNext := if s.level.serves then outputsOn ms else 0 }

/-- The OUTPUT phase begins with assembly. -/
def atOutput (s : State) (l : Lane) : State :=
  let r := phaseEntry s l 3
  if r.2 then assemble r.1 l else r.1

/-- The entry of the LOGIC phase. -/
def atEntry (s : State) (l : Lane) : State :=
  let r := phaseEntry s l 2
  if r.2 then enterLogic r.1 l else r.1

/-- LOGIC from one place to the next. -/
def logicStep (s : State) (l : Lane) : State :=
  match (s.lanes.get l).place with
  | .entry => atEntry s l
  | .ripple k st set => atRipple s l k st set
  | .requests => atRequests s l
  | .pass k => atPass s l k
  | .sweep st => atSweep s l st
  | .output => atOutput s l
  | .done => s

/-- LOGIC goes on until its words are built, the lane halts, or a code fault stops it (R192, R199). -/
def logicRun (l : Lane) : Nat → State → State
  | 0, s => s
  | n + 1, s =>
    if (s.lanes.get l).place = .done ∨ (s.lanes.get l).running = false ∨ (s.lanes.get l).dbgHold = true then s
    else logicRun l n (settleFault (logicStep s l) l)

/-- More places than any LOGIC visits: its ripples, passes and sweep. -/
def logicBound (s : State) (l : Lane) : Nat :=
  let m := imageOf s
  (m.propmax + 2) * (m.strata + 2) + (s.lanes.get l).set.wsteps + 8

/-- CONSENSUS leads to a change of level that has not been made yet: a cause of BEDROCK that the snapshot carries (R149, R215), or a member that has stopped in it (R22, R212). -/
def consensusOpen (s : State) : Bool :=
  !s.cyc.consensusDone && ((bedrockCauses s).any (fun c => c != 5) || allLanes.any fun l => (consensusCause s l).isSome && !(s.lanes.get l).running)

/-- LOGIC (R152) of a lane that has ended CONSENSUS; a disturbance that its checks find stops it (R192). It waits for the end of a CONSENSUS that changes the level, so that it runs at the level that the cycle has (R45, R149). -/
def execLogic (l : Lane) (x : Option Disturb) (s : State) : Host.Outcome State Fault Refusal :=
  let y := s.lanes.get l
  if y.running = false ∨ y.decided = false ∨ y.snap.isNone ∨ y.place = .done ∨ y.dbgHold = true ∨ consensusOpen s = true then .next s
  else match x with
    | some d => .next (codeFault s l d)
    | none => .next (logicRun l (logicBound s l) s)

/-! ### What comes about inside LOGIC, as events of their own -/

/-- LOGIC of R152 is at work in the cycle: the module serves, has an image, and is neither standby nor in a takeover cycle (R161). -/
def logicLive (s : State) : Bool := logicKind s == .full && s.cyc.started

/-- In every running lane, fields of an element's word are written by a function of its type, PARAM0 in force and stored word, where it gives any; LOGIC must be at work. -/
def onWords (s : State) (i : ElemIx) (f : Ctx → Loam → LaneSt → List (Nat × Nat × Nat)) : State :=
  match s.loam with
  | none => s
  | some m => if i < m.elems.length ∧ logicLive s = true then
      settleFaults (s.onRunning fun l x =>
        let fs := f (ctxOf s l) m x
        if fs.isEmpty then x else ctlSet (ctxOf s l) m x i fs)
    else s

/-- A step of this cycle's LOGIC has changed the element's counters, which change at most once in a cycle (R89). -/
def countedNow (x : LaneSt) (i : ElemIx) : Bool := x.logicDone && x.stepped.contains i

/-- What TIMER_EXPIRED writes: a running timer whose stored REMAIN is no more than the d of R92 in this cycle becomes expired, unless a step of the cycle has counted it down. -/
def timerFields (i : ElemIx) (c : Ctx) (m : Loam) (x : LaneSt) : List (Nat × Nat × Nat) :=
  let w := infoOf c x i
  let d := if bitOf (paramOf m x i) 17 then b2n c.newTick else x.set.tcyc
  if (m.elem i).ty = tyTmr ∧ ifld w 17 2 = 1 ∧ ifld w 0 17 ≤ d ∧ x.timers.contains i = false ∧ countedNow x i = false then [(0, 17, 0), (17, 2, 2)] else []

/-- TIMER_EXPIRED: a running timer's REMAIN reaches 0, and TSTATE becomes expired (R89, R92). -/
def execTimerExpired (i : BitVec 23) (s : State) : Host.Outcome State Fault Refusal := .next (onWords s i.toNat (timerFields i.toNat))

/-- What MOVEMAX writes: a point or crossing with a rule program whose detection differs from its command, and whose MOVET reaches MOVEMAX with a time unit of this cycle that no step has counted, is FAULTED (R82, R89, R90). -/
def moveFields (i : ElemIx) (c : Ctx) (m : Loam) (x : LaneSt) : List (Nat × Nat × Nat) :=
  let w := infoOf c x i
  let e := m.elem i
  let p := paramOf m x i
  if countedNow x i then []
  else if e.ty = tyPnt ∧ e.ruleLen ≠ 0 ∧ ifld w 9 2 ≠ ifld w 7 2 ∧ c.cycle % 2 ^ fld p 7 3 = 0 ∧ fld p 0 7 ≤ ifld w 0 7 + 1 then [(0, 7, fld p 0 7), (22, 2, 0)]
  else if e.ty = tyXng ∧ e.ruleLen ≠ 0 ∧ takesInput c.mem e = true ∧ (ifld w 9 2 ≠ ifld w 7 2 ∨ ifld w 6 1 ≠ ifld w 5 1) ∧
      c.cycle % 2 ^ fld p 5 3 = 0 ∧ fld p 0 5 ≤ ifld w 0 5 + 1 then [(0, 5, fld p 0 5), (22, 2, 0)]
  else []

/-- MOVEMAX: MOVET of a point or crossing reaches its maximum, and the element becomes FAULTED (R82, R89). -/
def execMoveMax (i : BitVec 23) (s : State) : Host.Outcome State Fault Refusal := .next (onWords s i.toNat (moveFields i.toNat))

/-- What MISM_LIMIT writes: a signal with a rule program that takes its input, whose LIT differs from ASPECT for the third cycle, which no step has counted, has ASPECT 0 and is FAULTED (R82, R91). -/
def mismFields (i : ElemIx) (c : Ctx) (m : Loam) (x : LaneSt) : List (Nat × Nat × Nat) :=
  let w := infoOf c x i
  let e := m.elem i
  if countedNow x i = false ∧ e.ty = tySig ∧ e.ruleLen ≠ 0 ∧ takesInput c.mem e = true ∧ ifld w 3 4 ≠ ifld w 7 4 ∧ 3 ≤ ifld w 0 2 + 1 then [(0, 2, 3), (7, 4, 0), (22, 2, 0)] else []

/-- MISM_LIMIT: MISM of a field-bound signal reaches 3, ASPECT is set to 0 and the signal becomes FAULTED (R82, R91). -/
def execMismLimit (i : BitVec 23) (s : State) : Host.Outcome State Fault Refusal := .next (onWords s i.toNat (mismFields i.toNat))

/-- A lane's LOGIC can go on: it runs and is not halted. -/
def LaneSt.working (x : LaneSt) : Bool := x.running && !x.dbgHold

/-- PROPMAX: propagation of a lane ends for the cycle at the barrier after the last stratum of ripple PROPMAX; elements still dirty wait for the next (R99). -/
def execPropMax (l : Lane) (s : State) : Host.Outcome State Fault Refusal :=
  let m := imageOf s
  .next (s.updLane l fun x => match x.place with
    | .ripple k st _ => if x.working && decide (m.propmax ≤ k) && decide (m.strata ≤ st) then { x with place := .requests, passHalt := false } else x
    | _ => x)

/-- WSTEPS: the budget of a lane's wave stage is reached; passes stop, and where a wave has a step left EXH is set and source 84 is raised (R110). -/
def execWSteps (l : Lane) (s : State) : Host.Outcome State Fault Refusal :=
  .next (s.updLane l fun x => match x.place with
    | .pass _ => if x.working && decide (x.set.wsteps ≤ x.rpt.steps) then { stageTerms (endStage x) with place := .sweep 0, passHalt := false } else x
    | _ => x)

/-- A wave with a number, in every running lane, where a condition holds. -/
def onWave (s : State) (n : Nat) (f : Ctx → Loam → LaneSt → Wave → LaneSt) : State :=
  match s.loam with
  | none => s
  | some m => settleFaults (s.onRunning fun l x => match waveOf x n with | none => x | some w => f (ctxOf s l) m x w)

/-- SEARCHMAX: a free search attempt whose next forward step would be one more than SEARCHMAX fails with FAIL 0x6 in its place (R118). -/
def execSearchMax (w : BitVec 8) (s : State) : Host.Outcome State Fault Refusal :=
  .next (onWave s w.toNat fun c m x v =>
    if v.st = .searching ∧ (rowOf m x v.rte).kind = 1 ∧ stepsNext c m x v = true ∧ x.set.searchmax < (forward v true).fwd then retreat c m x v (.ending 6) else x)

/-- WAVELIFE: a wave that has not entered LOCKING by its life's end retreats and ends with FAIL 0x6 (R124). -/
def execWaveLife (w : BitVec 8) (s : State) : Host.Outcome State Fault Refusal :=
  .next (onWave s w.toNat expireWave)

/-- CONFIRM_WINDOW: a proposal still open after its window becomes the expired-proposal record (R169). -/
def execConfirmWindow (s : State) : Host.Outcome State Fault Refusal :=
  .next (s.onRunning fun l x => expireProposal (ctxOf s l) x)

end Sys2Proof.Machine
end

