-- ==== Sys2Proof/Machine/Commit.lean ====
section
/-! DEFINITION. The end of a cycle: signature close with the canary (R194, R195), the commit with its digest, check word, role and drive (R204 to R208, R213, R215, R345, R354), HOUSEKEEPING, the overruns (R153 to R155), the scrub engines (R34, R43, R181, R207), the handshake channels (R13, R14) and the lane report (R141, R144, R160). -/

namespace Sys2Proof.Machine

/-! ### Signature close (R194, R195) -/

/-- The index of the canary word: CANARY of the image, or the spare index 0 (R195). -/
def canaryIx (s : State) : Nat := (s.loam.map (·.canary)).getD 0

/-- The canary step of an evaluator in cycle n (R195): the canary word in both passes, with bit n mod 48 of the shadow's compared bits inverted, and the verdict of the comparator. -/
def canaryVerdict (s : State) (l : Lane) (n : Nat) : Option Bool :=
  let x := s.lanes.get l
  let w := infoOf (ctxOf s l) x (canaryIx s)
  let ws := shadowInv l (shadowFwd l w)
  railVerdict (rails48 (codedWord w (checkField l w x.eCur)) (codedWord ws (checkShadow l ws x.eCur) ^^^ 2 ^ (n % 48)))

/-- The first code fault of the canary steps: a load that fails in either pass, or a step that does not give disagree (R181, R195). -/
def canaryFault (s : State) (l : Lane) : Option Disturb :=
  let x := s.lanes.get l
  let i := canaryIx s
  let c := ctxOf s l
  (evaluators x).findSome? fun u =>
    if !(loadOk c (imageOf s) x i && loadOkShadow c (imageOf s) x i) then some ⟨1, BitVec.ofNat 7 u, BitVec.ofNat 23 i⟩
    else if canaryVerdict s l s.cyc.cycle ≠ some false then some ⟨4, BitVec.ofNat 7 u, BitVec.ofNat 23 i⟩
    else none

/-- The code fault that signature close finds in a lane, in the order of R194: a delay register that is not empty, a unit whose agreed steps differ from those issued, a canary step that does not give its verdict. -/
def closeFault (s : State) (l : Lane) : Option Disturb :=
  let x := s.lanes.get l
  if !x.drained then some ⟨5, 65, 0⟩
  else if x.units.any (fun u => u.2.issued != u.2.agreed) then some ⟨5, 65, 0⟩
  else canaryFault s l

/-- The canary term: with 64 added where every canary step gave disagree (R195). -/
def canaryTerm (canary b : Nat) (ok : Bool) : DWord := sigTerm canary ((if ok then 64 else 0) + b)

/-- Σ_n and the canary of a cycle; the accumulators are cleared (R193 to R195). -/
def LaneSt.closeCycle (n canary : Nat) (ok : Bool) (x : LaneSt) : LaneSt :=
  let b := n % 48
  { x with sigma := x.sigma.rotateLeft 1 + x.accSum + canaryTerm canary b ok, units := [], canaryBit := b, canaryOk := ok, closed := true }

/-- SIGNATURE_CLOSE (R194): its checks, then Σ_n; a disturbance that they find is a code fault. -/
def execSignatureClose (l : Lane) (x : Option Disturb) (s : State) : Host.Outcome State Fault Refusal :=
  let y := s.lanes.get l
  if y.running = false ∨ y.place ≠ .done ∨ y.closed = true ∨ y.dbgHold = true then .next s
  else match x with
    | some d => .next (codeFault s l d)
    | none => match closeFault s l with
      | some d => .next (codeFault s l d)
      | none => .next (s.updLane l fun x => x.closeCycle s.cyc.cycle (canaryIx s) (canaryFault s l).isNone)

/-! ### The commit (R204 to R206, R213, R215) -/

/-- The number of messages among a lane's words. -/
def msgCount (ws : List OutWord) : Nat := (ws.filter fun w => match w with | .msg _ => true | .cmpl _ => false).length

/-- The digest record (R206). -/
def digestRecord (s : State) (l : Lane) : Bytes :=
  let x := s.lanes.get l
  let n := msgCount x.words
  leBytes 8 (s.cyc.cycle % 2 ^ 48) ++ leBytes 8 ((x.digests.get l).getD 0).toNat ++ leBytes 8 x.sigma.toNat ++ leBytes 8 (regionSum x.reg).toNat ++
    leBytes 4 n ++ leBytes 4 (x.words.length - n) ++ leBytes 1 s.level.code ++ leBytes 1 (namedMembers x).toNat ++ List.replicate 22 0

/-- The cycle digest (R206). -/
def cycleDigest (s : State) (l : Lane) : DWord := crc64 (digestRecord s l)

/-- The drive lines of a lane's commit (R198, R213, R351): none outside FULL and REDUCED and none while the lane's snapshot has debug enabled; SAFE_N, MSHIP_OUT of a module that has committed ACTIVE, and the outputs commanded on, none of them for a module that has committed STANDBY (R351, R361). -/
def driveLines (s : State) (l : Lane) (on : BitVec 16) : BitVec 18 :=
  if s.level.serves && !laneDbg s l then
    (if commitsStandby s then 0 else on.setWidth 18) ||| (if s.sby.role = .active then 0x10000 else 0) ||| 0x20000
  else 0

/-- A lane is ready to commit: it runs, its signature is closed, and it has not committed in this cycle. -/
def LaneSt.commits (x : LaneSt) : Bool := x.running && x.closed && x.digest.isNone

/-- A lane at its commit: its digest, its check word unless it presents the latch demand, and its drive, which silent lanes present too. -/
def commitLane (s : State) (l : Lane) (x : LaneSt) : LaneSt :=
  if x.commits then
    { x with digest := some (cycleDigest s l), checkOut := if x.demand then none else some (checkWordOf l s.cyc.cycle), outOn := if s.level.serves then x.outNext else 0,
             drive := driveLines s l x.outNext, presented := x.words }
  else x

/-- Some lane is ready to commit. -/
def commitDue (s : State) : Bool := allLanes.any fun l => (s.lanes.get l).commits

/-- The delta copy is skipped in this cycle after an overrun (R154). -/
def skipsDelta (s : State) : Bool := match copyLane s with | some l => (s.lanes.get l).skip.contains .xchg | none => false

/-- The skipped executions of a unit, counted and spent (R154). -/
def spendSkip (us : List OrdUnit) (s : State) (l : Lane) : State :=
  let x := s.lanes.get l
  if !x.running then s
  else (s.updLane l fun x => { x with skip := x.skip.filter fun u => !us.contains u }).bump R.CYC_SKIPCNT (x.skip.filter fun u => us.contains u).length

/-- A delta copy that does not run, or overruns, leaves the standby without it: the copy ends, and a full copy follows (R154, R354). -/
def deltaStopped (s : State) : State := s.updSby fun x => { x with copy := 0, plan := 0, deltaLost := x.deltaLost || x.copy == 2 }

/-- EXCHANGE begins: the active of a pair copies to its standby (R161, R354). -/
def exchange (s : State) (active : Bool) : State :=
  if !active then s
  else if skipsDelta s then allLanes.foldl (spendSkip [.xchg]) (deltaStopped s)
  else allLanes.foldl (spendSkip [.xchg]) (pairExchange s (s.sby.handover == some s.cyc.cycle))

/-- RESULT bytes 12 and 13 of MODE_REQUEST at the commit: the level that the lanes set for the next cycle, and the level in force (R494). -/
def modeBytes (s : State) (status : Byte) : Bytes :=
  let after := match status == BitVec.ofNat 8 stDone, s.group.modeTo with
    | true, some .stopped => Level.stopped
    | true, some _ => supported s
    | _, _ => s.level
  padTo 16 (modeResult s after)

/-- The completions of MODE_REQUEST and STANDBY_SWITCH among a lane's words, with the level and the role as they stand at the commit (R360, R494). -/
def settleMode (s : State) (x : LaneSt) : LaneSt :=
  x.reword (x.words.map fun w => match w with
    | .cmpl c =>
      if c.opcode == opMode then .cmpl { c with result := modeBytes s c.status }
      else if c.opcode == opSwitch then .cmpl { c with result := padTo 16 (roleByte s) }
      else w
    | .msg _ => w)

/-- What the first commit of a cycle decides for the module: its role and eligibility (R345, R355). -/
def commitRoles (s : State) : State :=
  if s.cyc.committed then s else checkElig (roleCommit { s with cyc := { s.cyc with committed := true } })

/-- OUTPUT_COMMIT (R204): every lane that has closed its signature presents its commit, and in EXCHANGE its copy blocks; where the vote has concluded they are matched at once. -/
def execOutputCommit (s : State) : Host.Outcome State Fault Refusal :=
  if commitDue s = false ∨ anyHold s = true then .next s
  else
    let active := s.sby.acting == .active && s.level.serves && !s.cyc.committed
    let due := allLanes.filter fun l => (s.lanes.get l).commits && (s.lanes.get l).st == .member
    let s1 := commitRoles s
    let s2 := s1.updLanes fun _ x => if x.commits then settleMode s1 x else x
    .next (phaseEntries (releaseBlocks (due.foldl presentBlocks (exchange (s2.updLanes fun l x => commitLane s2 l x) active))) 4)

/-! ### HOUSEKEEPING and the overruns (R150, R153 to R155) -/

/-- The units of HOUSEKEEPING in their order; diagnostics streaming runs only in FULL. -/
def houseUnits (s : State) : List OrdUnit := [.recorder, .compl, .stat, .mgmt] ++ if s.level = .full then [.diag] else []

/-- HOUSEKEEPING may begin: every running lane has ended its commit and the EXCHANGE that follows it, and it has not run in this cycle (R150). -/
def houseDue (s : State) : Bool :=
  s.cyc.started && !s.cyc.housed && !anyHold s && s.cyc.committed && allLanes.all fun l => !(s.lanes.get l).running || (s.lanes.get l).digest.isSome

/-- HOUSEKEEPING: its units run in order, except those that an earlier overrun makes the lanes skip. -/
def execHousekeeping (s : State) : Host.Outcome State Fault Refusal :=
  if houseDue s = false then .next s
  else
    let s1 := phaseEntries s 5
    if anyHold s1 then .next s1
    else .next (allLanes.foldl (spendSkip (houseUnits s1)) { s1 with cyc := { s1.cyc with housed := true } })

/-- The bit of a unit in CYC_OVR. -/
def unitNo : OrdUnit → Nat
  | .xchg => 0
  | .recorder => 1
  | .compl => 2
  | .stat => 3
  | .mgmt => 4
  | .diag => 5

/-- The units after one in HOUSEKEEPING that do not run in this cycle (R154). -/
def deferred (s : State) (u : OrdUnit) : List OrdUnit := (houseUnits s).filter fun v => u ≠ .xchg ∧ unitNo u < unitNo v

/-- ORDINARY_OVERRUN (R154, R175): the bit and the counts, the source once in a cycle, the skip of the next execution; an overrun of the delta copy ends the copy. -/
def execOrdinaryOverrun (l : Lane) (u : OrdUnit) (s : State) : Host.Outcome State Fault Refusal :=
  if (s.lanes.get l).running = false then .next s
  else
    let seen := allLanes.any fun k => (s.lanes.get k).overran.contains u
    let s1 := (s.orReg R.CYC_OVR (BitVec.ofNat 32 (2 ^ unitNo u))).bump R.CYC_OVRCNT 1
    let s2 := s1.bump R.CYC_DEFERCNT (deferred s u).length
    let s3 := s2.updLane l fun x => { x with skip := x.skip ++ [u], overran := x.overran ++ [u] }
    let s4 := if u = .xchg then deltaStopped s3 else s3
    .next (if seen then s4 else evgRaise s4 (72 + unitNo u))

/-- CYC_PRIV.UNIT of a privileged unit (R174). -/
def privNo : PrivUnit → Nat
  | .consensus => 0
  | .sigClose => 1
  | .commit => 2
  | .t0Fault => 3

/-- PRIVILEGED_OVERRUN (R155). -/
def execPrivilegedOverrun (l : Lane) (u : PrivUnit) (s : State) : Host.Outcome State Fault Refusal :=
  if (s.lanes.get l).running && !(s.lanes.get l).dbgHold then .next (privFault s l (privNo u) s.cyc.cycle) else .next s

/-! ### Scrubbing (R34, R43, R181, R207) -/

/-- A fault that a scrub engine finds (R181). -/
def scrubFault (s : State) (l : Lane) (i : BitVec 23) : State := codeFault s l ⟨6, 66, i⟩

/-- A mismatch of the static CRC scan: a fault of the lane, or, where another lane has found one within the same scan period of 600 s, a Loam integrity failure, in which the lanes still agree (R34, R43, R48; log 21). The scrub check is recorded in both cases (R181). -/
def crcMismatch (s : State) (l : Lane) : State :=
  let fresh := s.group.scanBad = 0 ∨ s.group.scanAt + 600000000 < s.cyc.tick
  let bad := if fresh then laneBit l else s.group.scanBad ||| laneBit l
  let s1 := { s with group := { s.group with scanBad := bad, scanAt := if fresh then s.cyc.tick else s.group.scanAt } }
  if 2 ≤ setSize bad then (let s2 := codeMark s1 l ⟨6, 66, 0⟩; if s2.level.serves then changeLevel s2 .bedrock 6 else s2) else scrubFault s1 l 0

/-- SCRUB: what a lane's scrub engine has read and checked, in a running lane or a returning one (R223), whose words and regions are not checked before its copy is complete (R222). -/
def execScrub (l : Lane) (r : ScrubRead) (s : State) : Host.Outcome State Fault Refusal :=
  let x := s.lanes.get l
  if watched s l = false then .next s
  else match r with
    | .word i => if !x.running || loadOk (ctxOf s l) (imageOf s) x i.toNat then .next s else .next (scrubFault s l i)
    | .spareEcc i => .next (scrubFault s l i)
    | .crcScan ok => if ok then .next { s with group := { s.group with scanBad := s.group.scanBad &&& ~~~laneBit l } } else .next (crcMismatch s l)
    | .kSum k => if !x.running || k = regionSum x.reg then .next s else .next (scrubFault s l 0)

/-! ### Handshake channels (R13, R14) -/

/-- The I/O island is lost: no snapshot, network or host port works any more, and every lane stops as its window for t0 ends (R148, the table after R26). Nothing can be reported. -/
def ioiLoss (s : State) : State := { s with power := { s.power with ioiLost := true } }

/-- The backup domain is lost: a record is written, and GLB_BUSTAT shows it as a low VBAT (the table after R26; log 70). -/
def buLoss (s : State) : State := ({ s with bu := { s.bu with vbatLow := true } } : State).note 8 (openSev 8) 0x07

/-- What a channel fault of the receiving island leads to (R14, the table after R26): a lane is lost with CAUSE 0x5, a lane whose output channel fails sends and drives nothing further (R15), and the BU or the I/O island is lost. -/
def chanFault (s : State) : Chan → State
  | .snapshot l _ => laneFault s l 5
  | .inter _ r => laneFault s r 5
  | .laneOut l => laneFault s l 5
  | .report _ => ioiLoss s
  | .agreed => ioiLoss s
  | .toBu => buLoss s
  | .fromBu => ioiLoss s

/-- A failed attempt at a word; the third ends the use of the channel, until a module reset (DESIGN CHOICE: R14 names no later use; log 70). -/
def failAttempt (s : State) (ch : Chan) : State :=
  let x := chanOf s ch
  if x.stopped then s
  else if 2 ≤ x.attempts then chanFault (setChan s { x with stopped := true, attempts := 3 }) ch
  else setChan s { x with attempts := x.attempts + 1 }

/-- A new transfer raises the request: the request of the one before has been lowered, and then the acknowledge or reject rail (R13; that this happens no later than here is a DESIGN CHOICE, log 70). A transfer that was acknowledged has ended the attempts at its word; any other word is repeated (R14). -/
def ChanSt.request (x : ChanSt) : ChanSt := { x with req := true, ack := false, rej := false, attempts := if x.ack then 0 else x.attempts }

/-- A word whose CRC checks is acknowledged; it is delivered where its toggle differs from that of the word before, and a repeat is not delivered again (R14). The place of the toggle in the payload is not given, so it is an operand of its own (DESIGN CHOICE, log 70). -/
def deliver (x : ChanSt) (toggle : Bool) (payload : DWord) : ChanSt :=
  { x with ack := true, toggle := toggle, word := if toggle = x.toggle then x.word else some payload }

/-- HANDSHAKE_WORD: a word whose CRC checks raises the acknowledge rail; any other raises the reject rail and is discarded (R13, R14). -/
def execHandshakeWord (ch : Chan) (toggle : Bool) (payload : DWord) (crc : BitVec 16) (s : State) : Host.Outcome State Fault Refusal :=
  let x := (chanOf s ch).request
  if x.stopped then .next s
  else if crc16 (beBytes 8 payload.toNat) = crc then .next (setChan s (deliver x toggle payload))
  else .next (failAttempt (setChan s { x with rej := true }) ch)

/-- ACK_TIMEOUT: the sender has seen no acknowledge in 2 µs, so the attempt has failed, and lowers its request to repeat the word; one that a reject rail has ended has been counted already (R14). The Sieve, the sender of the agreed output, times no channel (R15). -/
def execAckTimeout (ch : Chan) (s : State) : Host.Outcome State Fault Refusal :=
  let x := chanOf s ch
  if ch = .agreed ∨ x.stopped = true then .next s
  else if x.rej then .next (setChan s { x with req := false, rej := false })
  else .next (failAttempt (setChan s { x with req := false, ack := false }) ch)

/-! ### The lane report (R141, R144, R160, R203) -/

/-- The counts of a report are added to the IOI's counters. -/
def addCounts (s : State) (r : Report) : State :=
  [(R.RGE_SETCNT, r.setCnt), (R.RGE_LOCKCNT, r.lockCnt), (R.RGE_UNSETCNT, r.unsetCnt), (R.RGE_RETCNT, r.retCnt), (R.RGE_EXHCNT, b2n r.exh),
   (R.RGE_ORPHCNT, r.orphCnt), (R.RGE_ERELCNT, r.erelCnt)].foldl (fun t p => t.bump p.1 p.2) s

/-- The latest stage: waves with their peak, and steps. -/
def stageRegs (s : State) (r : Report) : State :=
  if r.staged then
    let peak := max r.active (s.regF R.RGE_WAVES 16 9)
    (s.setReg R.RGE_WAVES (BitVec.ofNat 32 (r.active + peak * 65536))).setReg R.RGE_STEPS
      (BitVec.ofNat 32 (min r.steps (2 ^ 24 - 1) + b2n r.exh * 2 ^ 31))
  else s

/-- The latest wave that ended unset; where it names no failing element, LASTBLK holds a free value (log 22). -/
def lastFailRegs (s : State) (r : Report) : State :=
  match r.lastFail with
  | none => s
  | some (rte, fail, blk) =>
    let s1 := s.setReg R.RGE_LASTFAIL (BitVec.ofNat 32 (rte % 2 ^ 23 + fail.toNat * 2 ^ 23))
    match blk with
    | some i => s1.setReg R.RGE_LASTBLK (BitVec.ofNat 32 (i % 2 ^ 23))
    | none => s1.drawn.setReg R.RGE_LASTBLK (BitVec.ofNat 32 (s1.freeNow.toNat % 2 ^ 23))

/-- The macroticks of a service cycle, and the margin of source 78 (R160). -/
def workRegs (s : State) (work : Nat) : State :=
  if !s.level.serves then s
  else
    let s1 := (s.setReg R.CYC_WORK (BitVec.ofNat 32 work)).setReg R.CYC_WORKPEAK (BitVec.ofNat 32 (max work (s.regN R.CYC_WORKPEAK)))
    let pct := s.regF R.CYC_MARGIN 0 7
    if pct ≠ 0 ∧ (100 - pct) * (800 * s.cyc.tcyc - 200) < 100 * work then evgRaise (s1.orReg R.CYC_OVR 0x40) 78 else s1

/-- The evaluators of a lane as DBG_EVALS shows them; 0 while it is excluded. -/
def evalsShown (x : LaneSt) : Nat := if x.st == .member || x.st == .silent then (evaluators x).length else 0

/-- The copies of coded execution (R203) and of online change (R174). -/
def copyRegs (s : State) (x : LaneSt) : State :=
  let ok := allLanes.all fun l => !inSet s.sieve.agree l || (s.lanes.get l).canaryOk
  let ev := evalsShown s.lanes.a + evalsShown s.lanes.b * 256 + evalsShown s.lanes.c * 65536
  let s1 := (s.setWide R.DBG_SIG_LO x.sigma).setReg R.DBG_CANARY (BitVec.ofNat 32 (x.canaryBit + b2n ok * 256))
  (s1.setReg R.DBG_EVALS (BitVec.ofNat 32 ev)).setReg R.CYC_OLCSTAT
    (BitVec.ofNat 32 (x.reg.overrides.length + b2n x.reg.proposal.isSome * 8192))

/-- The report of the lowest-lettered agreeing lane: the copies, the counts, and the sources of the cycle. -/
def takeReport (s : State) (l : Lane) (work : Nat) : State :=
  let x := s.lanes.get l
  let s1 := copyRegs (workRegs (lastFailRegs (stageRegs (addCounts s x.rpt) x.rpt) x.rpt) work) x
  evgRaiseAll (s1.updLane l fun x => { x with rpt := Report.empty }) x.rpt.sources

/-- LANE_REPORT: a report of the lane that is heard for the copies, and of any lane for a privileged unit near its bound (R160). -/
def execLaneReport (l : Lane) (work : BitVec 20) (near : Bool) (s : State) : Host.Outcome State Fault Refusal :=
  if chanOpen s (.report l) = false then .next s else
  let s1 := if (lanesOf s.sieve.agree).head? = some l then takeReport s l work.toNat else s
  if near then
    let s2 := { s1.orReg R.CYC_OVR 0x80 with cyc := { s1.cyc with near := true } }
    .next (if s.cyc.near then s2 else evgRaise s2 79)
  else .next s1

end Sys2Proof.Machine
end

