-- ==== Sys2Proof/Machine/Power.lean ====
section
/-! DEFINITION. Power, reset, clocks and temperature (R435 to R456): the resets and their causes, the loss of lanes by supply, clock or temperature, the power-fail warning, and the backup domain. -/

namespace Sys2Proof.Machine

/-- The state of Kiln (KLN_STAT.STATE, R433): 1 waiting, 2 running. -/
def kilnState (s : State) : Nat := s.regF R.KLN_STAT 0 3

/-- An event of Kiln (R434). -/
def kilnEvent (s : State) (bit : Nat) : State := s.event R.KLN_EVT R.KLN_EVTEN bit 64

/-- A run in progress stops at once: STATE reads aborted, WHY names the cause, and no unit counts as tested (R426). -/
def kilnAbort (s : State) (why : Nat) : State :=
  if kilnState s = 2 then kilnEvent ((s.setF R.KLN_STAT 0 3 7).setF R.KLN_STAT 3 4 why) 2 else s

/-- A direct run of a lane is cut short with that lane (R426, R432). -/
def directAbort (s : State) (l : Lane) : State :=
  if s.kiln.direct = some l then { s with kiln := { s.kiln with direct := none }, group := { s.group with directLeave := none } } else s

/-- A direct run stops at once, as any run does (R426): STATE and WHY show it, and its lane, untested and with its memory lost, is OUT with CAUSE 0xB until LANE_REJOIN names it (DEDUCED, log 81); one that has not begun leaves its lane a member. -/
def directStop (s : State) (why : Nat) : State :=
  match s.kiln.direct with
  | none => s
  | some l =>
    let s1 := kilnEvent ((s.setF R.KLN_STAT 0 3 7).setF R.KLN_STAT 3 4 why) 2
    let s2 := directAbort s1 l
    if s.group.directLeave = some l then s2
    else setLaneState (s2.updLane l fun x => { x.stopped with sram := [], stepped := [], reg := Regions.empty, inReset := true }) l .out (some 0xB)

/-! ### Rails and VBAT (R435, R452, R455, R475) -/

/-- PWR_STAT.GOOD: the logic rails within their ranges. -/
def showRails (s : State) : State := s.setF R.PWR_STAT 0 9 (~~~railsOut s.power.rails).toNat

/-- The level of a rail, as its monitor has seen it. -/
def railSeen (s : State) (k : Nat) (mv : BitVec 16) : State :=
  showRails { s with power := { s.power with rails := setAt s.power.rails k fun _ => mv } }

/-- A refresh of what the BU reports: VBAT as it is measured, a free level, and VBAT_LOW and VBATOK with it (R72, R76, R455; log 62). -/
def buRefresh (s : State) : State :=
  let v : BitVec 16 := s.freeNow.setWidth 16
  { s.drawn with bu := { s.bu with vbatLow := decide (v.toNat < 2000) } }.setReg (R.PWR_VMON 9) (v.setWidth 32)

/-- A sample of a rail in mV: a rail within its range is seen anywhere within it, any other at its level (log 62). -/
def sampleRail (s : State) (k : Nat) : State :=
  let mv := s.power.rails.getD k 0
  let r := railRange k
  if railFits k mv then s.drawn.setReg (R.PWR_VMON k) (BitVec.ofNat 32 (r.1 + s.freeNow.toNat % (r.2 - r.1 + 1)))
  else s.setReg (R.PWR_VMON k) (mv.setWidth 32)

/-- The monitors sample every rail every 1 ms, in each round (R455; the instant is a DESIGN CHOICE, log 62). -/
def measureRails (s : State) : State := buRefresh (showRails ((List.range 9).foldl sampleRail s))

/-- The contents of the BU found at a power-up: lost contents restart the counts, disarm a trial, and leave the life-cycle state to storage (R452). -/
def buCheck (s : State) : State :=
  if s.bu.valid then s
  else
    { s with bu := { s.bu with us := 0, pwrcyc := 0, bootcnt := 0, tempPeak := 0, trial := none, lcs := s.stored.lcs, valid := true, vbatLost := true } }

/-- The first record where VBAT_LOST is set at a power-up (R393). -/
def lostRecord (s : State) : State := if s.bu.vbatLost then s.record 2 (openSev 2) 0x07 [] else s

/-- The cause of the reset that ends with a power-on reset, the lowest code where several arrive together (R440): a power-up, RESET_N asserted meanwhile, a rail loss without a power-up, or a thermal trip of the IOI. -/
def porCause (s : State) : Nat :=
  if s.power.below || !(s.power.resetN || s.power.railOut || s.power.ioiTrip) then 1
  else if s.power.resetN then 2
  else if s.power.railOut then 5
  else 6

/-- The module may leave power-on reset: VDD_IO, VDDQ and VDD33 are within range (R437), and the IOI die has cooled (R454). -/
def porMayEnd (s : State) : Bool := !s.power.ioiHot && [6, 7, 8].all fun k => railFits k (s.power.rails.getD k 0)

/-- The counts of a reset that ends (R440, R451): GLB_PWRCYC rises at a power-up, UPD_BOOTCNT at every reset, before any record is written (R420). -/
def countReset (s : State) (cause : Nat) : State :=
  { s with bu := { s.bu with bootcnt := s.bu.bootcnt + 1, pwrcyc := if cause = 1 then s.bu.pwrcyc + 1 else s.bu.pwrcyc, onVbat := false } }

/-- POWER_UP: the module leaves power-on reset where it may (R437), and the straps are sampled. -/
def execPowerUp (role : Bool) (addr : BitVec 6) (s : State) : Host.Outcome State Fault Refusal :=
  if porMayEnd s = false then .next s
  else
    let cause := porCause s
    let s1 := { s with power := { s.power with por := false, railOut := false, below := false, ioiTrip := false, resetN := false } }
    let s2 := buRefresh (countReset (buCheck (resetCore s1 role addr)) cause)
    let s3 := if cause = 1 then lostRecord s2 else s2
    .next (s3.setReg R.PWR_RSTCAUSE (BitVec.ofNat 32 cause))

/-- RESET_N: a module reset of cause 0x2 (R440, R442); a module in power-on reset stays there until R437 lets it leave. -/
def execResetN (role : Bool) (addr : BitVec 6) (s : State) : Host.Outcome State Fault Refusal :=
  .next (if s.power.por then { s with power := { s.power with resetN := true } } else moduleReset s 2 role addr)

/-- The module enters power-on reset: everything a module reset resets is reset, and no strap is sampled yet (R439, R444). -/
def enterPor (s : State) : State :=
  let s1 := resetCore s false 0
  { s1 with power := { s1.power with por := true } }

/-- The number of a rail of the I/O island in the order of R435. -/
def ioiRailNo : IoiRail → Nat
  | .vddIo => 6
  | .vddq => 7
  | .vdd33 => 8

/-- RAIL_OUT_OF_RANGE: power-on reset, in which no lane drives, so every energy output falls (R439); a Kiln run aborts (R426). A reading within the rail's range is its return (R475). -/
def execRailOutOfRange (r : IoiReading) (s : State) : Host.Outcome State Fault Refusal :=
  let seen (t : State) : State := railSeen t (ioiRailNo r.rail) r.mv
  if railFits (ioiRailNo r.rail) r.mv then .next (seen s)
  else
    let t := seen (enterPor (kilnAbort s 4))
    .next { t with power := { t.power with railOut := true } }

/-- LANE_RAIL_LOSS: the lane's monitor raises its rail and holds it in lane reset; a member, silent or returning lane becomes OUT with CAUSE 0x5 (R438). A reading within the rail's range is its return, and the lane stays as it is until LANE_REJOIN. -/
def execLaneRailLoss (l : Lane) (r : LaneReading) (s : State) : Host.Outcome State Fault Refusal :=
  let k := laneNo l + if r.mem then 3 else 0
  let s1 := railSeen s k r.mv
  if railFits k r.mv || s.power.por then .next s1
  else .next (directAbort (laneFault (kilnAbort (s1.updLane l fun x => { x.stopped with inReset := true }) 4) l 5) l)

/-- BU_THRESHOLD: the backup domain changes over between VDD33 and VBAT (R451); on a VBAT below 1.5 V its contents are lost (R452, R477), and one below 2.0 V reads low (R452). -/
def execBuThreshold (x : BuCross) (s : State) : Host.Outcome State Fault Refusal :=
  .next { s with
    bu := { s.bu with onVbat := x.below, vbatLow := decide (x.vbat.toNat < 2000), valid := s.bu.valid && !(x.below && decide (x.vbat.toNat < 1500)) }
    power := { s.power with below := s.power.below || x.below } }

/-- LANE_THERMAL_TRIP: the trip opens the lane's core supply, and the lane is lost with CAUSE 0x5 until its die has cooled (R454). -/
def execLaneThermalTrip (l : Lane) (s : State) : Host.Outcome State Fault Refusal :=
  let s1 := s.updLane l fun x => { x.stopped with inReset := true, hot := true }
  if s.power.por then .next s1 else .next (directAbort (laneFault (kilnAbort s1 4) l 5) l)

/-- IOI_THERMAL_TRIP: the module is held in reset until the die has cooled (R454). -/
def execIoiThermalTrip (s : State) : Host.Outcome State Fault Refusal :=
  let s1 := enterPor s
  .next { s1 with power := { s1.power with ioiTrip := true, ioiHot := true } }

/-- PFW_N_ASSERTED: source 70 is asserted, Shale writes POWER_FAIL and flushes, a Kiln run aborts, and an update session ends, whose record the flush still takes (R398, R426, R446). -/
def execPfwNAsserted (s : State) : Host.Outcome State Fault Refusal :=
  if s.power.pfw then .next s
  else
    let s1 := ({ s with power := { s.power with pfw := true, pfwAt := s.cyc.timeBase } }.setF R.PWR_STAT 10 1 1).bump R.PWR_PFWCNT 1
    let s2 := recFlush ((evgLine s1 70 true).record 3 2 0x00 [])
    .next (endSession (directStop (kilnAbort s2 5) 5))

/-- PFW_N_DEASSERTED: each effect of the warning ends: Shale accepts records again, and the programs of storage that were held are carried out (R398, R446). -/
def execPfwNDeasserted (s : State) : Host.Outcome State Fault Refusal :=
  let s1 := { s with power := { s.power with pfw := false }, shale := { s.shale with pfwStop := false, eraseHeld := false }, upd := { s.upd with held := [] } }
  .next (evgLine ((s.upd.held.foldl storeMark s1).setF R.PWR_STAT 10 1 0) 70 false)

/-- A signed 16-bit temperature in 0.25 °C. -/
def tempOf (v : BitVec 16) : Int := v.toInt

/-- The dies that have tripped, once they are below 140 °C (R454). -/
def cooledDies (s : State) (die : Lane → BitVec 16) (ioi : BitVec 16) : State :=
  { s.updLanes (fun l x => { x with hot := x.hot && decide (560 ≤ tempOf (die l)) }) with
    power := { s.power with ioiHot := s.power.ioiHot && decide (560 ≤ tempOf ioi) } }

/-- TEMPERATURE_SAMPLE: the five sensors are measured, the peak is kept in the BU, and source 71 follows the warning threshold with 5 °C of hysteresis (R453); below 140 °C a tripped die has cooled, also while the module is held in reset (R454). -/
def execTemperatureSample (s0 s1 s2 s3 s4 : BitVec 16) (s : State) : Host.Outcome State Fault Refusal :=
  let put (t : State) (k : Nat) (v : BitVec 16) : State := t.setReg (R.PWR_TEMP k) (BitVec.ofNat 32 (v.toNat + 2 ^ 16))
  let t0 := cooledDies s (fun l => match l with | .a => s0 | .b => s1 | .c => s2) s3
  if s.power.por then .next t0
  else
    let t1 := put (put (put (put (put t0 0 s0) 1 s1) 2 s2) 3 s3) 4 s4
    let t2 := if tempOf t1.bu.tempPeak < tempOf s4 then { t1 with bu := { t1.bu with tempPeak := s4 } } else t1
    let warn : Int := t2.regF R.PWR_TEMPCFG 0 8
    if warn * 4 < tempOf s4 then .next (evgLine (t2.setF R.PWR_STAT 12 1 1) 71 true)
    else if tempOf s4 < (warn - 5) * 4 then .next (evgLine (t2.setF R.PWR_STAT 12 1 0) 71 false)
    else .next t2

/-- LANE_CLOCK_STOP: the coarse check stops the lane as a t0 fault (R450); a Kiln run aborts (R426). -/
def execLaneClockStop (l : Lane) (s : State) : Host.Outcome State Fault Refusal :=
  .next (directAbort (privFault (kilnAbort s (laneNo l + 1)) l 3 s.cyc.cycle) l)

/-- VBAT_LOSS: while VDD33 is absent, the contents of the BU are lost (R452). -/
def execVbatLoss (s : State) : Host.Outcome State Fault Refusal :=
  if s.bu.onVbat then .next { s with bu := { s.bu with valid := false, vbatLow := true } } else .next { s with bu := { s.bu with vbatLow := true } }

/-- BU_CRYSTAL_STOP: BUOSC reads 0, OPTIME stops counting, and no Kiln clock measurement completes; each lane clock then counts as outside its window, so a run stops (R426, R450). -/
def execBuCrystalStop (s : State) : Host.Outcome State Fault Refusal :=
  .next (directStop (kilnAbort (({ s with bu := { s.bu with osc := false } }).setF R.PWR_STAT 11 1 0) 1) 1)

/-- The PWR registers whose value the state holds elsewhere (R455). -/
def livePWR (s : State) (off v : Nat) : Nat :=
  if off = R.PWR_STAT then putFld (putFld (putFld v 9 1 (b2n !s.bu.vbatLow)) 10 1 (b2n s.power.pfw)) 11 1 (b2n s.bu.osc)
  else if off = R.PWR_TEMPPEAK then putFld v 0 16 s.bu.tempPeak.toNat
  else v

end Sys2Proof.Machine
end

