-- ==== Sys2Proof/Machine/Kiln.lean ====
section
/-! DEFINITION. Kiln (R425 to R434): its starting conditions, the outcome of each failure, the log, direct runs on one lane, and the instructions of the test access port that need no other block (R431). -/

namespace Sys2Proof.Machine

/-- A lane clock within ±2 % of its nominal (R11, R425). -/
def clockOk (dev : Word) : Bool := -20000 ≤ dev.toInt && dev.toInt ≤ 20000

/-- The first failing condition of R425 as KLN_STAT.WHY codes it, 0 where all hold: a lane clock, a supply, PFW_N. With the BU crystal stopped every lane clock counts as outside its window (R450). -/
def kilnWhy (s : State) (m : KilnMeas) : Nat :=
  if !s.bu.osc || !clockOk m.devA then 1
  else if !clockOk m.devB then 2
  else if !clockOk m.devC then 3
  else if railsOut m.rails != 0 then 4
  else if s.power.pfw then 5
  else 0

/-- The clock deviations of a window are reported; without the BU crystal no measurement completes (R450). -/
def kilnClocks (s : State) (m : KilnMeas) : State :=
  if s.bu.osc then ((s.setReg R.KLN_CLKA m.devA).setReg R.KLN_CLKB m.devB).setReg R.KLN_CLKC m.devC else s

/-- A measurement window of 31.25 ms: the clock deviations and the rails out of range are reported, and the rails within range shown (R425, R433, R455). -/
def kilnMeasure (s : State) (m : KilnMeas) : State :=
  let s1 := (kilnClocks (s.buTime 31250) m).setF R.KLN_SUPPLY 0 9 (railsOut m.rails).toNat
  showRails { s1 with power := { s1.power with rails := (List.range 9).map fun k => m.rails.getD k 0 } }

/-- A run begins: STATE reads running and the log of the run before is dropped (R425, R430). -/
def kilnBegin (s : State) : State :=
  { (((s.setF R.KLN_STAT 0 3 2).setF R.KLN_STAT 3 4 0).setReg R.KLN_LOGCNT 0) with kiln := { s.kiln with log := [] } }

/-- KILN_START: a window in which the conditions of R425 may hold; where they do, the run starts. -/
def execKilnStart (m : KilnMeas) (s : State) : Host.Outcome State Fault Refusal :=
  if kilnState s = 1 then
    let s1 := kilnMeasure s m
    if kilnWhy s m = 0 then .next (kilnBegin s1) else .next s1
  else .next s

/-- KILN_WAIT_EXPIRY: the last window of the second; where its conditions do not hold, Kiln does not start and WHY names the first that fails (R425). -/
def execKilnWaitExpiry (m : KilnMeas) (s : State) : Host.Outcome State Fault Refusal :=
  if kilnState s = 1 then
    let s1 := kilnMeasure s m
    if kilnWhy s m = 0 then .next (kilnBegin s1)
    else .next (kilnEvent ((s1.setF R.KLN_STAT 0 3 6).setF R.KLN_STAT 3 4 (kilnWhy s m)) 2)
  else .next s

/-- The DRAM spare rows used in a lane (KLN_SPARE). -/
def spareRows (s : State) (l : Lane) : Nat := s.regF R.KLN_SPARE (8 * laneNo l) 7

/-- A lane is marked DEAD (R428): it stays stopped with its rail raised, and its source is raised (R217). -/
def laneDead (s : State) (l : Lane) (cause : Nat) : State := setLaneState (stopLane s l) l .dead (some cause)

/-- The failures that the compare-path cases find on a lane's own hardware, and those that the other tests report, in the order found (R196, R427). -/
def foundFailures (fs : List KilnFail) : List KilnFail :=
  (allLanes.filterMap fun l => if pathCases l then none else some ⟨BitVec.ofNat 3 (laneNo l), 64, 1, 0, 0⟩) ++ fs

/-- The outcome of one failure of a lane: the first row of R428 that applies, with its action code. -/
def laneFailure (s : State) (l : Lane) (f : KilnFail) (cause : Nat) : State × Nat :=
  let b := f.block.toNat
  let t := f.test.toNat
  if b = 68 ∧ (t = 4 ∨ t = 5) ∧ spareRows s l < 64 then (s.setF R.KLN_SPARE (8 * laneNo l) 7 (spareRows s l + 1), 1)
  else if b ≤ 63 ∧ (t = 1 ∨ t = 2) ∧ ((s.lanes.get l).evalOff = none ∨ (s.lanes.get l).evalOff = some (BitVec.ofNat 6 b)) then (disableEval s l b, 2)
  else (laneDead s l cause, 3)

/-- The outcome of one failure: a lane's own, or of the IOI or the Sieve, which refuse the start (R428). -/
def failOutcome (s : State) (f : KilnFail) (cause : Nat) : State × Nat :=
  match laneOf f.unit.toNat with
  | some l => laneFailure s l f cause
  | none => ({ s with power := { s.power with refused := true } }, 4)

/-- KLN_LOGINFO of a log entry (R433). -/
def logInfo (e : KilnLog) : Nat :=
  e.fail.unit.toNat + e.fail.block.toNat * 8 + e.fail.test.toNat * 1024 + e.fail.bit.toNat * 16384 + e.action.toNat * 2097152

/-- A failure enters the log, or is counted in LOST where the log is full; each entry is also written as a Shale record (R430). -/
def logFailure (s : State) (f : KilnFail) (action : Nat) : State :=
  let e : KilnLog := { fail := f, action := BitVec.ofNat 3 action }
  if s.kiln.log.length < 32 then
    let s1 := { s with kiln := { s.kiln with log := s.kiln.log ++ [e] } }
    let s2 := kilnEvent (s1.setF R.KLN_LOGCNT 0 6 (s.kiln.log.length + 1)) 1
    s2.record (openCode 6) 3 0x08 (leBytes 4 (logInfo e) ++ leBytes 4 f.addr.toNat)
  else s.bumpSat R.KLN_LOGCNT 16 16

/-- Every failure of a run in the order found (R428, R430). -/
def kilnFailures (s : State) (fs : List KilnFail) (cause : Nat) : State :=
  fs.foldl (fun t f => let r := failOutcome t f cause; logFailure r.1 f r.2) s

/-- A lane's own outcome in KLN_RESULT: 1 passed, 2 passed degraded, 3 DEAD (R433). -/
def laneResult (x : LaneSt) : Nat := if x.st = .dead then 3 else if x.evalOff.isSome then 2 else 1

/-- KLN_RESULT from the lanes' outcomes. -/
def kilnResult (s : State) (ioiOk sieveOk : Bool) : State :=
  s.setReg R.KLN_RESULT (BitVec.ofNat 32 (laneResult s.lanes.a + 4 * laneResult s.lanes.b + 16 * laneResult s.lanes.c + 64 * b2n ioiOk + 128 * b2n sieveOk))

/-- The lanes that Kiln has not marked DEAD become members: their rails are lowered at the end of the reset (R205, R429). A lane whose die has not cooled since its trip stays OUT in lane reset until LANE_REJOIN names it (R438, R454). -/
def admitPassed (s : State) : State :=
  s.updLanes fun _ x => if x.st = .dead then x else if x.hot then { x with st := .out, cause := 5 } else { x with st := .member, running := true, rail := false, inReset := false, units := [] }

/-- KILN_COMPLETE: the run ends; each failure takes its outcome, and the run reads passed, passed degraded or start refused (R428, R429). A refused start fetches no further descriptor, of a turn in progress too (R428); otherwise the Loam image is loaded and start-up goes on (R443). -/
def execKilnComplete (failed : List KilnFail) (ms : BitVec 16) (s : State) : Host.Outcome State Fault Refusal :=
  let fails := foundFailures failed
  if kilnState s = 2 then
    let ioiOk := !fails.any fun f => f.unit == 3
    let sieveOk := !fails.any fun f => f.unit == 4
    let s1 := (kilnFailures (s.buTime (1000 * ms.toNat)) fails 0xA).setReg R.KLN_RUNTIME (ms.setWidth 32)
    let s2 := kilnResult s1 ioiOk sieveOk
    if s2.power.refused then
      .next (kilnEvent (kilnEvent (({ s2 with hif := { s2.hif with turn := none } }.setF R.KLN_STAT 0 3 5).setF R.KLN_STAT 3 4 (if ioiOk then 7 else 6)) 0) 2)
    else
      let full := allLanes.all fun l => laneResult (s2.lanes.get l) == 1
      let s3 := admitPassed (s2.setF R.KLN_STAT 0 3 (if full then 3 else 4))
      let s4 := kilnEvent { s3 with power := { s3.power with kilnDone := setSize (memberSet s3) != 0 }, cyc := { s3.cyc with startFrom := s3.cyc.timeBase } } 0
      .next (bootLoam s4)
  else .next s

/-- Whether a direct run on a lane is accepted: the level STOPPED, the two lanes not named both MEMBER (R432), no direct run in progress, and the lane not DEAD, which it stays until a reset (R428). -/
def directOk (s : State) (l : Lane) : Bool :=
  s.level == .stopped && s.kiln.direct.isNone && (s.lanes.get l).st != .dead && (allLanes.all fun k => k == l || (s.lanes.get k).st == .member)

/-- Whether the KLN block's fields can be written: from PORT_MAINT in MANUFACTURE or DEVELOPMENT (R433). -/
def klnOpen (s : State) (src : Src) : Bool := src == .maint && (s.lcs == 0 || s.lcs == 2)

/-- A direct run is accepted or refused (R432): the named lane enters COPY with CAUSE 0xB, a member at the next cycle boundary. A rejoin of the lane is over with it (R223). -/
def directRequest (s : State) (lane : Nat) : State :=
  match laneOf lane with
  | none => kilnEvent s 3
  | some l =>
    if directOk s l then
      let s1 := (s.setReg R.KLN_LOGCNT 0)
      let s2 := { s1 with kiln := { s1.kiln with log := [], direct := some l } }
      if (s.lanes.get l).st = .member then { s2 with group := { s2.group with directLeave := some l } }
      else (setLaneState (if (s.group.rejoin.map (·.lane)) = some l then rejoinEnded s2 7 else s2) l .copy (some 0xB)).updLane l fun x => { x with cause := 0xB }
    else kilnEvent s 3

/-- What a write of KLN_CMD does while it is open (R432, R433). -/
def klnCmdWrite (s : State) (v : Word) : State := if v.getLsbD 0 then directRequest s (fld v.toNat 1 2) else s

/-- DIRECT_RUN_COMPLETE: the named lane becomes OUT where it passed and DEAD where it failed, with CAUSE 0xB, and its memory contents are lost (R428, R432). -/
def execDirectRunComplete (fails : List KilnFail) (ms : BitVec 16) (s : State) : Host.Outcome State Fault Refusal :=
  match s.kiln.direct with
  | none => .next s
  | some l =>
    let mine := (foundFailures fails).filter fun f => f.unit.toNat == laneNo l
    let s1 := { s with kiln := { s.kiln with direct := none }, group := { s.group with directLeave := none } }
    let s2 := s1.updLane l fun x => { x.stopped with sram := [], stepped := [], reg := Regions.empty, evalOff := none, inReset := true }
    let s3 := (kilnFailures (s2.setF R.KLN_EVDIS (8 * laneNo l) 7 0) mine 0xB).setReg R.KLN_RUNTIME (ms.setWidth 32)
    let dead := (s3.lanes.get l).st == .dead
    let s4 := s3.updLane l fun x => { x with st := (s2.lanes.get l).st }
    let s5 := setLaneState s4 l (if dead then .dead else .out) (some 0xB)
    let s6 := s5.setF R.KLN_RESULT (2 * laneNo l) 2 (laneResult (s5.lanes.get l))
    .next (kilnEvent s6 0)

/-! ### The test access port (R431) -/

/-- BYPASS: the 1-bit register captures 0 and holds the bit shifted in. -/
def tapBypass (s : State) (tdi : Bool) : State :=
  { s with jtag := { s.jtag with ir := 0xFF, dr := BitVec.ofNat 64 (b2n tdi) } }.emit (.tdo 0)

/-- BYPASS. -/
def execBypass (tdi : Bool) (s : State) : Host.Outcome State Fault Refusal := .next (tapBypass s tdi)

/-- IDCODE: the 32-bit identification register is shifted out, in every life-cycle state. -/
def execIdcode (s : State) : Host.Outcome State Fault Refusal :=
  .next ({ s with jtag := { s.jtag with ir := 0x01, dr := Config.idcode.setWidth 64 } }.emit (.tdo (Config.idcode.setWidth 64)))

/-- SAMPLE/PRELOAD: in MANUFACTURE the captured contacts are shifted out and the boundary cells are loaded; in any other state it acts as BYPASS. -/
def execSamplePreload (captured loaded : List Bool) (s : State) : Host.Outcome State Fault Refusal :=
  if s.lcs = 0 then .next ({ s with jtag := { s.jtag with ir := 0x02, cells := loaded } }.emit (.scan captured))
  else .next (tapBypass s (loaded.headD false))

/-- EXTEST: in MANUFACTURE the contacts are driven from the boundary cells and what they sense is shifted out; in any other state it acts as BYPASS. -/
def execExtest (sensed driven : List Bool) (s : State) : Host.Outcome State Fault Refusal :=
  if s.lcs = 0 then .next (({ s with jtag := { s.jtag with ir := 0x03, cells := driven } }.emit (.pins driven)).emit (.scan sensed))
  else .next (tapBypass s (driven.headD false))

/-- The KLN registers whose value the state holds elsewhere (R433). -/
def liveKLN (s : State) (off v : Nat) : Nat :=
  let sel := (s.kiln.log[s.regF R.KLN_LOGSEL 0 5]?)
  if off = R.KLN_LOGINFO then (sel.map logInfo).getD 0
  else if off = R.KLN_LOGADDR then (sel.map (·.fail.addr.toNat)).getD 0
  else v

end Sys2Proof.Machine
end

