-- ==== Sys2Proof/Machine/Debug.lean ====
section
/-! DEFINITION. Debug control (R198 to R202): enabling it, HALT, RESUME and STEP, and the element access instruction of the test access port (R201, R431). -/

namespace Sys2Proof.Machine

/-- Debug control is open: from PORT_MAINT in DEVELOPMENT (R198). -/
def dbgOpen (s : State) (src : Src) : Bool := src == .maint && s.lcs == 2

/-- The debugger's state changed. -/
def State.updDbg (s : State) (f : DbgSt → DbgSt) : State := { s with dbg := f s.dbg }

/-- A write of EN: the journal counts from the setting of EN and is emptied by its clearing (R201); no HALT that has not reached the lanes stays pending without EN (log 35). What has reached them ends with the snapshot that brings the new EN (R60). -/
def dbgEnWrite (s : State) (en : Bool) : State :=
  let s1 := s.setF R.DBG_CTRL 0 1 (b2n en)
  if en = dbgOn s then s1
  else s1.updDbg fun x => { x with journal := [], haltPend := false }

/-- DBG_CTRL_EN (R198). -/
def execDbgCtrlEn (src : Src) (en : Bool) (s : State) : Host.Outcome State Fault Refusal :=
  if dbgOpen s src then .next (dbgEnWrite s en) else .next s

/-- A HALT reaches the lanes with the next snapshot, and halted lanes at once (R199). -/
def dbgHalt (s : State) : State :=
  if !dbgOn s then s
  else if s.dbg.halted then s.onRunning fun _ x => { x with armed := true }
  else s.updDbg fun x => { x with haltPend := true }

/-- HALT (R199). -/
def execHalt (src : Src) (s : State) : Host.Outcome State Fault Refusal :=
  if dbgOpen s src then .next (dbgHalt s) else .next s

/-- A lane halted at the entry of CONSENSUS: it holds its snapshot and has not compared. -/
def atConsensus (x : LaneSt) : Bool := x.dbgHold && x.snap.isSome && !x.decided

/-- The halted lanes go on from their halt point: each lowers its rail, and the halted time is left out of the cycle (R200). -/
def dbgResume (s : State) : State :=
  if !s.dbg.halted then s
  else
    let s1 := s.updLanes fun _ x => { x with dbgHold := false }
    allLanes.foldl (fun t l => if atConsensus (s.lanes.get l) then goCompare t l else t) { s1 with
      cyc := { s1.cyc with halted := s1.cyc.halted + (s.cyc.timeBase - s.dbg.haltedAt) }
      dbg := { s1.dbg with halted := false }
      sieve := { s1.sieve with suspended := false } }

/-- RESUME (R200). -/
def execResume (src : Src) (s : State) : Host.Outcome State Fault Refusal :=
  if dbgOpen s src then .next (dbgResume s) else .next s

/-- STEP resumes halted lanes, and they halt again at the next halt point (R199). -/
def dbgStep (s : State) : State := dbgResume (dbgHalt s)

/-- STEP. -/
def execStepCmd (src : Src) (s : State) : Host.Outcome State Fault Refusal :=
  if dbgOpen s src then .next (dbgStep s) else .next s

/-! ### ELEMACC (R201) -/

/-- The most writes a journal holds. -/
def journalMax : Nat := 4096

/-- A write is accepted while the lanes are halted, lane A is in the group and the journal is not full; spare words are never rewritten (R180). -/
def elemOpen (s : State) (i : ElemIx) : Bool :=
  s.dbg.halted && (s.lanes.get .a).st == .member && decide (s.dbg.journal.length < journalMax) &&
    decide (i < (s.loam.map (·.elems.length)).getD 0)

/-- The information word that a read returns: lane A's, or 0 while lane A is not in the group. -/
def elemRead (s : State) (i : ElemIx) : Info := if (s.lanes.get .a).st = .member then sramInfo .a (s.lanes.get .a).sram i else 0

/-- An accepted write: journal, Shale record, and the word in every running lane with its own check field at the epoch the word carries. -/
def elemWrite (s : State) (i : ElemIx) (v : Info) : State :=
  let j : Journal := { cycle := s.cyc.cycle, point := s.reg R.DBG_HALTPT, elem := i, old := elemRead s i, new := v }
  let s1 := (s.updDbg fun x => { x with journal := x.journal ++ [j] }).note 2 (openSev 2) 0x0A
  s1.onRunning fun l x => x.put l i v (epochOf x i)

/-- The word shifted out at the test access port. -/
def tapOut (s : State) (ir : Byte) (w : BitVec 64) : State := { s with jtag := { s.jtag with ir := ir, dr := w } }.emit (.tdo w)

/-- ELEMACC (R201): a read shifts out the word; a write is carried out where it is accepted. In any state but DEVELOPMENT the instruction acts as BYPASS. -/
def execElemAcc (dr : BitVec 48) (s : State) : Host.Outcome State Fault Refusal :=
  let i := fld dr.toNat 0 23
  if s.lcs ≠ 2 then .next (tapBypass s (dr.getLsbD 47))
  else if dr.getLsbD 23 = false then .next (tapOut s 0x30 (BitVec.ofNat 64 (i + 2 ^ 24 * (elemRead s i).toNat)))
  else
    let s1 := { s with jtag := { s.jtag with ir := 0x30, dr := dr.setWidth 64 } }
    .next (if elemOpen s i then elemWrite s1 i (BitVec.ofNat 24 (fld dr.toNat 24 24)) else s1)

/-- The DBG registers whose value the state holds elsewhere (R202). -/
def liveDBG (s : State) (off v : Nat) : Nat :=
  if off = R.DBG_CTRL then putFld v 4 1 (b2n s.dbg.halted)
  else if off = R.DBG_JSTAT then s.dbg.journal.length + 2 ^ 13 * b2n (s.dbg.journal.length == journalMax)
  else v

end Sys2Proof.Machine
end

