-- ==== Sys2Proof/Machine/HostIf.lean ====
section
/-! DEFINITION. The host interface: doorbells and ring errors (R232 to R235, R253, R254), fetching (R239 to R242), completion entries and moderation (R243 to R246, R250), power states of the function (R251, R252), its resets (R230, R487), and the MSI-X table, pending bits and masks (R231, R266). -/

namespace Sys2Proof.Machine

/-! ### Rings (R233, R240) -/

/-- The entries of a submission ring. -/
def sqSize (s : State) (n : Nat) : Nat := 2 ^ s.regF (R.HIF_SQ_CFG n) 0 4

/-- The entries of a completion ring. -/
def cqSize (s : State) (n : Nat) : Nat := 2 ^ s.regF (R.HIF_CQ_CFG n) 0 4

/-- The submission ring is enabled. -/
def sqOn (s : State) (n : Nat) : Bool := s.regBit (R.HIF_SQ_CTRL n) 0

/-- The completion ring is enabled; a stopping ring still is (R254). -/
def cqOn (s : State) (n : Nat) : Bool := s.regBit (R.HIF_CQ_CTRL n) 0

/-- The completion ring that a submission ring is bound to. -/
def boundCq (s : State) (n : Nat) : Nat := s.regF (R.HIF_SQ_CFG n) 4 4

/-- The state of a submission ring. -/
def sqAt (s : State) (n : Nat) : SqSt := s.hif.sq.getD n SqSt.reset

/-- The state of a completion ring. -/
def cqAt (s : State) (n : Nat) : CqSt := s.hif.cq.getD n CqSt.reset

/-- The state with a submission ring changed. -/
def updSq (s : State) (n : Nat) (f : SqSt → SqSt) : State := { s with hif := { s.hif with sq := setAt s.hif.sq n f } }

/-- The state with a completion ring changed. -/
def updCq (s : State) (n : Nat) (f : CqSt → CqSt) : State := { s with hif := { s.hif with cq := setAt s.hif.cq n f } }

/-- Steps from one index to another around a ring. -/
def ringDist (size a b : Nat) : Nat := (b + size - a % size) % size

/-- The free credit of a completion ring (R240). -/
def freeCredit (s : State) (n : Nat) : Nat :=
  let c := cqAt s n
  cqSize s n - 1 - ringDist (cqSize s n) c.head c.tail - c.credit

/-- A ring error: recorded, counted, and raised (R253). -/
def ringError (s : State) (n side cause : Nat) : State :=
  evgRaise ((s.setReg R.HIF_RINGERR (BitVec.ofNat 32 (n + 16 * side + 256 * cause))).bump R.HIF_RINGERRCNT 1) (16 + n)

/-! ### Doorbells (R232, R235) -/

/-- A submission tail is acceptable: an index of the ring, and no less far from the head than the present tail. -/
def tailOk (s : State) (n t : Nat) : Bool :=
  let q := sqAt s n
  decide (t < sqSize s n) && decide (ringDist (sqSize s n) q.head q.tail ≤ ringDist (sqSize s n) q.head t)

/-- What a doorbell access of another offset, width or alignment does: a read returns 0, a write nothing (R232). -/
def otherAccess (s : State) (isRead : Bool) : State := if isRead then { s with lastRead := 0 } else s

/-- The turn in progress on a ring ends: the reads that it has issued are discarded, and nothing more of it is fetched (R239, R253). -/
def endTurn (s : State) (n : Nat) : State :=
  if (s.hif.turn.map fun t => t.ring.toNat) = some n then { s with hif := { s.hif with turn := none } } else s

/-- A write of a submission tail: the tail moves, or the write is a ring error, which stops the ring's fetching. -/
def tailWrite (s : State) (k t : Nat) : State :=
  if sqOn s k = false then ringError s k 0 5
  else if tailOk s k t then updSq s k fun q => { q with tail := t }
  else ringError (updSq (endTurn s k) k fun q => { q with err := true }) k 0 1

/-- SUBMISSION_TAIL: an access to the tail doorbell of ring n (R232, R235); a module stopped in RETIRED serves none (R420). -/
def execSubmissionTail (n : BitVec 4) (x : Bell) (s : State) : Host.Outcome State Fault Refusal :=
  if s.power.retired then .next s
  else match x with
  | .write v => .next (tailWrite s n.toNat v.toNat)
  | .read => .next { s with lastRead := BitVec.ofNat 32 (sqAt s n.toNat).tail }
  | .other r => .next (otherAccess s r)

/-- A completion head is acceptable: an index of the ring, no further from the present head than the tail. -/
def headOk (s : State) (n h : Nat) : Bool :=
  let c := cqAt s n
  decide (h < cqSize s n) && decide (ringDist (cqSize s n) c.head h ≤ ringDist (cqSize s n) c.head c.tail)

/-- A write of a completion head: the head moves, or the write is a ring error. -/
def headWrite (s : State) (k h : Nat) : State :=
  if cqOn s k = false then ringError s k 1 5
  else if headOk s k h then updCq s k fun c => { c with head := h }
  else ringError (updCq s k fun c => { c with err := true }) k 1 2

/-- COMPLETION_HEAD: an access to the head doorbell of ring n (R232, R235, R420). -/
def execCompletionHead (n : BitVec 4) (x : Bell) (s : State) : Host.Outcome State Fault Refusal :=
  if s.power.retired then .next s
  else match x with
  | .write v => .next (headWrite s n.toNat v.toNat)
  | .read => .next { s with lastRead := BitVec.ofNat 32 (cqAt s n.toNat).head }
  | .other r => .next (otherAccess s r)

/-! ### Enabling and disabling (R233, R234, R254) -/

/-- A write of EN of a submission ring. -/
def sqEnable (s : State) (n : Nat) (en : Bool) : State :=
  if en = sqOn s n then s
  else if en then
    if cqOn s (boundCq s n) then updSq (s.setF (R.HIF_SQ_CTRL n) 0 1 1) n fun q => { q with head := 0, tail := 0, err := false }
    else s.orReg (R.HIF_SQ_STAT n) 0x2000
  else
    endTurn (s.setF (R.HIF_SQ_CTRL n) 0 1 0) n

/-- An enabled submission ring is bound to the completion ring. -/
def cqInUse (s : State) (n : Nat) : Bool := (List.range 16).any fun k => sqOn s k && boundCq s k == n

/-- A write of EN of a completion ring. -/
def cqEnable (s : State) (n : Nat) (en : Bool) : State :=
  if en = cqOn s n then s
  else if en then
    updCq (s.setF (R.HIF_CQ_CTRL n) 0 1 1) n fun c => { c with head := 0, tail := 0, phase := true, unsig := 0, oldest := none, err := false }
  else if cqInUse s n then s.orReg (R.HIF_CQ_STAT n) 0x4000
  else updCq s n fun c => { c with stopping := true }

/-- The completion ring of a descriptor: the one bound when it was fetched. -/
def cqOf (s : State) (c : Cmpl) : Nat := ((assoc c.seq s.hif.bound).map (·.toNat)).getD (boundCq s c.sq.toNat)

/-- STOPPING_END: a stopping ring with no credit and no held entry is disabled (R254). -/
def execStoppingEnd (n : BitVec 4) (s : State) : Host.Outcome State Fault Refusal :=
  let k := n.toNat
  if (cqAt s k).stopping && (cqAt s k).credit == 0 && !s.hif.held.any (fun c => cqOf s c == k) then
    .next (updCq (s.setF (R.HIF_CQ_CTRL k) 0 1 0) k fun c => { c with stopping := false })
  else .next s

/-! ### Fetching (R239 to R242, R253) -/

/-- The descriptors that a turn on a ring would read. -/
def turnLength (s : State) (n : Nat) : Nat :=
  let q := sqAt s n
  min (min (s.regF (R.HIF_SQ_CFG n) 8 4 + 1) (ringDist (sqSize s n) q.head q.tail)) (min (freeCredit s (boundCq s n)) (4096 - s.hif.staging.length))

/-- A ring meets the conditions of a turn. -/
def fetchable (s : State) (n : Nat) : Bool := sqOn s n && !(sqAt s n).err && decide (0 < turnLength s n)

/-- The ring that the next turn serves. -/
def nextRing (s : State) : Option Nat := ((List.range 16).map fun i => (s.hif.lastRing.toNat + 1 + i) % 16).find? (fetchable s)

/-- The host address of an index of a submission ring. -/
def sqAddr (s : State) (n i : Nat) : Nat := (s.wide (R.HIF_SQ_BASE_LO n)).toNat / 64 * 64 + 64 * (i % sqSize s n)

/-- The IOI may issue memory requests (R14, R252, R444, R487). -/
def mayRequest (s : State) : Bool := s.hif.ready && !s.hif.d3hot && !s.power.por && !s.power.ioiLost

/-- A turn begins: its reads are issued in index order, and the link leaves L1 (R239, R251). -/
def beginTurn (s : State) (n : Nat) : State :=
  let k := turnLength s n
  let s1 := { s with hif := { s.hif with lastRing := BitVec.ofNat 4 n, turn := some { ring := BitVec.ofNat 4 n, left := k }, l1 := false } }
  (List.range k).foldl (fun t i => t.emit (.pcieRead (sqAddr s n ((sqAt s n).head + i)) 64)) s1

/-- FETCH_TURN; none begins where Kiln has refused the start (R428). -/
def execFetchTurn (s : State) : Host.Outcome State Fault Refusal :=
  if mayRequest s && !s.power.refused && s.regBit R.HIF_CTRL 0 && s.hif.turn.isNone then
    match nextRing s with
    | none => .next s
    | some n => .next (beginTurn s n)
  else .next s

/-- The descriptor in 64 bytes (R237) with the transport words of R242. -/
def parseDesc (n index : Nat) (seq : Word) (b : Bytes) : BitVec 16 × Req :=
  let d := padTo 64 b
  (BitVec.ofNat 16 (leAt d 0 2),
   { sq := BitVec.ofNat 4 n, index := BitVec.ofNat 12 index, seq := seq, tag := BitVec.ofNat 32 (leAt d 4 4), flags := BitVec.ofNat 16 (leAt d 2 2),
     bufaddr := BitVec.ofNat 64 (leAt d 8 8), length := BitVec.ofNat 32 (leAt d 16 4), args := d.drop 20, bufFailed := false, maint := false })

/-- The module reads a descriptor's buffer: UPDATE_WRITE is the one opcode that uses one which the module reads, and the buffer is one that the opcode allows (R237, R242, R248). -/
def readsBuffer (d : BitVec 16 × Req) : Bool := d.1 == opWrite && bufferOk opWrite d.2

/-- The largest payload of a memory write: as host software has set it, up to the 256 bytes supported (R229). -/
def payloadMax (s : State) : Nat := min (sizeOf s.hif.cfg.payload) 256

/-- The reads of a buffer (R242), each within the read request size (R229). The event of the descriptor read brings the data of all of them, so none is outstanding after it; a turn's own reads are at most 16 of the 32 that may be outstanding. -/
def readBuffer (s : State) (d : BitVec 16 × Req) : State :=
  s.readHost d.2.bufaddr.toNat d.2.length.toNat

/-- A descriptor read has returned: the head advances, CREDIT rises, and the descriptor is staged with the next fetch sequence number; its buffer is read at once where the module reads it, and kept (R242). -/
def fetched (s : State) (t : Turn) (b : Bytes) (buffer : Option Bytes) : State :=
  let n := t.ring.toNat
  let p := parseDesc n (sqAt s n).head s.hif.fetchSeq b
  let reads := readsBuffer p
  let d := (p.1, { p.2 with bufFailed := reads && buffer.isNone })
  let cq := boundCq s n
  let s1 := updCq (updSq s n fun q => { q with head := (q.head + 1) % sqSize s n, out := q.out + 1 }) cq fun c => { c with credit := c.credit + 1 }
  let s2 := { s1 with hif := { s1.hif with
    staging := s1.hif.staging ++ [d]
    fetchSeq := s1.hif.fetchSeq + 1
    bound := s1.hif.bound ++ [(s.hif.fetchSeq, BitVec.ofNat 4 cq)]
    bufs := if reads then s1.hif.bufs ++ [(s.hif.fetchSeq, padTo d.2.length.toNat (buffer.getD []))] else s1.hif.bufs
    turn := if t.left ≤ 1 then none else some { t with left := t.left - 1 } } }
  let s3 := (if reads then readBuffer s2 d else s2).bump R.HIF_FETCHCNT 1
  if d.2.bufFailed then ringError s3 n 0 4 else s3

/-- DESCRIPTOR_READ: the next read of the turn completes, unless the start has been refused (R428); a failed one is a ring error that ends the turn, and stops the ring's fetching. -/
def execDescriptorRead (r : DescRead) (s : State) : Host.Outcome State Fault Refusal :=
  match s.hif.turn.filter fun _ => !s.power.refused with
  | none => .next s
  | some t => match r with
    | .ok b f => .next (fetched s t b f)
    | .failed =>
      let s1 := updSq { s with hif := { s.hif with turn := none } } t.ring.toNat fun q => { q with err := true }
      .next (ringError s1 t.ring.toNat 0 3)

/-! ### Completion entries and moderation (R243 to R246, R250) -/

/-- The 32 bytes of a completion entry. -/
def cmplBytes (c : Cmpl) (sqhead : Nat) (phase : Bool) : Bytes :=
  leBytes 4 c.tag.toNat ++ leBytes 2 sqhead ++ [c.sq.setWidth 8, c.status] ++ leBytes 2 c.opcode.toNat ++ leBytes 2 c.cycle.toNat ++
    padTo 16 c.result ++ [0, 0, 0, BitVec.ofNat 8 (b2n phase)]

/-- A completion ring is signalled: U becomes 0 and its source is raised. -/
def signalRing (s : State) (n : Nat) : State := evgRaise (updCq s n fun c => { c with unsig := 0, oldest := none }) n

/-- The buffer data of an entry leave before it: the agreed words, or what the IOI has read for the descriptor (R246), in memory writes within the payload size (R229). -/
def writeData (s : State) (c : Cmpl) : State :=
  let b := if c.data.isEmpty then (assoc c.seq.toNat s.hif.reads).getD [] else c.data
  let s1 := { s with hif := { s.hif with reads := s.hif.reads.filter fun r => r.1 != c.seq.toNat, l1 := false } }
  (spans (payloadMax s) c.buf.toNat b.length).foldl (fun t e => t.emit (.pcieWrite e.1 ((b.drop (e.1 - c.buf.toNat)).take e.2))) s1

/-- One entry is written: the tail moves, the phase changes at its wrap, CREDIT and OUT fall, and the ring is signalled where R250 says. -/
def slotEntry (s : State) (c : Cmpl) : State :=
  let n := cqOf s c
  let q := cqAt s n
  let addr := (s.wide (R.HIF_CQ_BASE_LO n)).toNat / 32 * 32 + 32 * q.tail
  let s1 := (writeData s c).emit (.pcieWrite addr (cmplBytes c (sqAt s c.sq.toNat).head q.phase))
  let wraps := decide (q.tail + 1 = cqSize s n)
  let s2 := updCq s1 n fun x => { x with
    tail := if wraps then 0 else x.tail + 1
    phase := if wraps then !x.phase else x.phase
    credit := x.credit - 1
    unsig := x.unsig + 1
    oldest := some (x.oldest.getD s.cyc.timeBase) }
  let s3 := (updSq s2 c.sq.toNat fun x => { x with out := x.out - 1 }).bump R.HIF_CMPLCNT 1
  let s4 := { s3 with hif := { s3.hif with bound := s3.hif.bound.filter fun e => e.1 != c.seq } }
  if c.imm || decide (s4.regF (R.HIF_CQ_CFG n) 8 8 ≤ (cqAt s4 n).unsig) then signalRing s4 n else s4

/-- A held completion leaves into its ring; one whose descriptor was never fetched takes no slot and no credit of a ring (R240; log 9). -/
def writeEntry (s : State) (c : Cmpl) : State :=
  if (assoc c.seq s.hif.bound).isNone then s.emit (.maintCompletion c) else slotEntry s c

/-- Writes up to k held entries in their order. -/
def writeEntries : Nat → State → State
  | 0, s => s
  | k + 1, s => match s.hif.held with
    | [] => s
    | c :: t => writeEntries k (writeEntry { s with hif := { s.hif with held := t } } c)

/-- COMPLETION_WRITE: the IOI writes the next held entry. -/
def execCompletionWrite (s : State) : Host.Outcome State Fault Refusal :=
  if mayRequest s then .next (writeEntries 1 s) else .next s

/-- The link begins L1 exit, in D0 (R251, R252). -/
def leaveL1 (s : State) : State := { s with hif := { s.hif with l1 := s.hif.l1 && s.hif.d3hot } }

/-- MODTIME (R250, R251): the time bound of a ring with unsignalled entries has passed, which ends L1 at once. -/
def execModTime (n : BitVec 4) (s : State) : Host.Outcome State Fault Refusal :=
  if s.regF (R.HIF_CQ_CFG n.toNat) 16 16 ≠ 0 ∧ 0 < (cqAt s n.toNat).unsig then .next (signalRing (leaveL1 s) n.toNat) else .next s

/-! ### Power states (R251, R252) and the MSI-X masks (R266) -/

/-- A held message leaves: its vector's pending bit clears. -/
def sendVector (s : State) (v : Nat) : State :=
  msixEmit { s with evg := { s.evg with vecPend := s.evg.vecPend &&& ~~~((1 : BitVec 16) <<< v) } } (if s.evg.vecFast.getLsbD v then .fast else .normal) v

/-- A vector has a held message that nothing masks. -/
def vectorDue (s : State) (v : Nat) : Bool := s.evg.vecPend.getLsbD v && !s.evg.vecMask.getLsbD v && !s.evg.fnMask

/-- Every held message that nothing masks is sent. -/
def sendVectors (s : State) : State := ((List.range 16).filter (vectorDue s)).foldl sendVector s

/-- The function takes configuration requests: it is ready, and answers none with Configuration Request Retry Status (R487). -/
def configOpen (s : State) : Bool := s.hif.ready && !s.power.por && !s.power.ioiLost

/-- D3HOT: the function enters D3hot with PME_En as host software has left it, no PM_PME message has been sent since, and fetching stops, with the turn in progress (R252). -/
def execD3Hot (pmeEn : Bool) (s : State) : Host.Outcome State Fault Refusal :=
  if s.hif.d3hot || !configOpen s then .next s else .next { s with hif := { s.hif with d3hot := true, pmeSent := false, pmeEn := pmeEn, turn := none } }

/-- Every held entry is written, and the messages that it brings about wait in their pending bits (R252). -/
def writeHeld (s : State) : State :=
  let t := writeEntries s.hif.held.length { s with evg := { s.evg with fnMask := true } }
  { t with evg := { t.evg with fnMask := s.evg.fnMask } }

/-- D0_RETURN: held entries first, then pending messages, then fetching. -/
def execD0Return (s : State) : Host.Outcome State Fault Refusal :=
  if s.hif.d3hot then .next (sendVectors (writeHeld { s with hif := { s.hif with d3hot := false } })) else .next s

/-- L1_ENTRY: the link may enter L1 while the module has nothing to send (R251). -/
def execL1Entry (s : State) : Host.Outcome State Fault Refusal :=
  if s.hif.turn.isNone && (s.hif.held.isEmpty || s.hif.d3hot) && !(s.regBit R.HIF_CTRL 0 && mayRequest s && (nextRing s).isSome) then
    .next { s with hif := { s.hif with l1 := true } }
  else .next s

/-- The masks have changed: every held message that nothing masks any more is sent, or in D3hot would be (R252, R266). -/
def unmasked (s : State) : State :=
  if s.hif.d3hot then (if (List.range 16).any (vectorDue s) then pmeNow s else s) else sendVectors s

/-- One word of BAR4 (R231): an entry's address, data and mask in the layout of the PCI family, or the pending bit array (PRESUMED, log 61). -/
def msixWord (s : State) (off : Nat) : Word :=
  let v := off / 16
  let e := s.evg.table.getD v (0, 0)
  if off < 0x100 then
    (match off % 16 / 4 with
     | 0 => e.1.setWidth 32
     | 1 => e.1.extractLsb' 32 32
     | 2 => e.2
     | _ => if s.evg.vecMask.getLsbD v then 1 else 0)
  else if off = 0x1000 then s.evg.vecPend.setWidth 32
  else 0

/-- A write of one word of BAR4: an entry's address or data, or its mask; the pending bit array is read-only. -/
def msixWrite (s : State) (off : Nat) (v : Word) : State :=
  let k := off / 16
  let m : BitVec 16 := 1 <<< k
  let put (f : DWord × Word → DWord × Word) : State := { s with evg := { s.evg with table := setAt s.evg.table k f } }
  if 0x100 ≤ off then s
  else match off % 16 / 4 with
    | 0 => put fun e => (e.1.extractLsb' 32 32 ++ v, e.2)
    | 1 => put fun e => (v ++ e.1.setWidth 32, e.2)
    | 2 => put fun e => (e.1, v)
    | _ =>
      unmasked { s with evg := { s.evg with vecMask := if v.getLsbD 0 then s.evg.vecMask ||| m else s.evg.vecMask &&& ~~~m } }

/-- A word of the function's configuration space (R229): device and vendor, class code, subsystem; Interrupt Pin and every other word read 0 here (PRESUMED, log 61: the header layout of the PCI family). -/
def configWord (off : Nat) : Word :=
  match off with
  | 0x00 => (0x4B33 : BitVec 16) ++ Config.vendorId
  | 0x08 => 0x08800000
  | 0x2C => (0x4B33 : BitVec 16) ++ Config.vendorId
  | _ => 0

/-- An access to the configuration space. -/
def configAccess (s : State) (a : ConfigAccess) : State :=
  match a with
  | .sizes p r => { s with hif := { s.hif with cfg := { s.hif.cfg with payload := p, readRequest := r } } }
  | .timeout v o => { s with hif := { s.hif with cfg := { s.hif.cfg with timeout := v, timeoutOff := o } } }
  | .read off => { s with lastRead := configWord (off.toNat / 4 * 4) }

/-- MSIX_UNMASK (R231, R266): an access to the MSI-X table, the pending bit array, or the configuration space with its function mask, which a function that is not ready leaves to a retry (R487), and of which a module stopped in RETIRED serves the configuration space alone (R420); where a mask clears, a held message is sent. -/
def execMsixUnmask (x : MsixAccess) (s : State) : Host.Outcome State Fault Refusal :=
  match x with
  | .functionMask on => .next (if configOpen s then unmasked { s with evg := { s.evg with fnMask := on } } else s)
  | .config a => .next (if configOpen s then configAccess s a else s)
  | .write off v => .next (if s.power.retired then s else msixWrite s (off.toNat / 4 * 4) v)
  | .read off => .next (if s.power.retired then s else { s with lastRead := msixWord s (off.toNat / 4 * 4) })

/-! ### Resets of the function (R230, R268, R487) -/

/-- The registers of a block at their reset values. -/
def resetBlock (s : State) (b : Nat) : State :=
  { s with
    regs := s.regs.filter fun r => r.1 / 0x10000 != b
    rdShadow := s.rdShadow.filter fun r => r.1 != b
    wrShadow := s.wrShadow.filter fun r => r.1 != b }

/-- The Event Gate after a reset of R230: level sources take their pending bits from their lines (R268). -/
def evgReset (s : State) : State := { s with evg := { EvgSt.reset with line := s.evg.line, pend := s.evg.line } }

/-- FUNCTION_RESET: the function, the HIF and EVG registers and the MSI-X state are reset; held completions are discarded and counted, and so are those of the descriptors already fetched, when they come (R230); scans of host memory end, and what they raise is lost with the Event Gate's state (R268, R386). -/
def execFunctionReset (k : FnReset) (s : State) : Host.Outcome State Fault Refusal :=
  let n := s.hif.held.length
  let gone := ((s.hif.staging ++ s.hif.outstanding).filter fun d => !d.2.maint).map (·.2.seq)
  let s1 := evgReset (endHostScans k.scanned (resetBlock (resetBlock s 1) 2))
  .next ({ s1 with hif := { HifSt.reset with
    fetchSeq := s.hif.fetchSeq, bufs := s.hif.bufs, staging := s.hif.staging, maint := s.hif.maint, maintSeq := s.hif.maintSeq, outstanding := s.hif.outstanding, lost := s.hif.lost ++ gone } }.bump R.HIF_DISCCNT n)

/-- FUNCTION_READY (R487): no function is ready before the module's reset has ended (R444). -/
def execFunctionReady (s : State) : Host.Outcome State Fault Refusal :=
  .next (if s.power.por then s else { s with hif := { s.hif with ready := true } })

end Sys2Proof.Machine
end

