-- ==== Sys2Proof/Machine/EventGate.lean ====
section
/-! DEFINITION. The Event Gate towards host software: claim (R261, R262), completion (R263, R264), the pending bits that software sets and clears (R259), classes and priorities (R267), and the lines of the level sources. -/

namespace Sys2Proof.Machine

/-- The state with the stack of a class. -/
def evgSetStack (s : State) (c : EvClass) (l : List Nat) : State :=
  match c with
  | .normal => { s with evg := { s.evg with nstack := l } }
  | .fast => { s with evg := { s.evg with fstack := l } }

/-- The bit of a source. -/
def evgBit (k : Nat) : BitVec 128 := 1 <<< k

/-- The candidate of a class is claimed: its pending bit clears, it becomes active, and it enters the stack. -/
def evgTake (s : State) (c : EvClass) (k : Nat) : State :=
  let m := ~~~(evgBit k)
  evgSetStack { s with
    evg := { s.evg with pend := s.evg.pend &&& m, sticky := s.evg.sticky &&& m, active := s.evg.active ||| evgBit k }
    lastRead := BitVec.ofNat 32 (k + 256 * evgPrioOf s k + 2 ^ 31) } c (k :: evgStack s c)

/-- EVG_CLAIM: a read of CLAIM takes the candidate, or returns 0; the notify flag clears either way (R261, R265); a module stopped in RETIRED does not serve the read (R420). -/
def execEvgClaim (k : EvClass) (s : State) : Host.Outcome State Fault Refusal :=
  if s.power.retired then .next s
  else match evgCandidate s k with
  | some i => .next (evgPoll (evgSetFlag (evgTake s k i) k false))
  | none => .next (evgPoll (evgSetFlag { s with lastRead := 0 } k false))

/-- The code of a class in EVG_FAULTINFO. -/
def classNo : EvClass → Nat
  | .normal => 0
  | .fast => 1

/-- A source in service is completed: popped and no longer active; a level source takes its pending bit from its line unless SETPEND has set it (R263). -/
def evgPop (s : State) (c : EvClass) (k : Nat) (rest : List Nat) : State :=
  let e := { s.evg with active := s.evg.active &&& ~~~(evgBit k) }
  let e1 := if evgIsLevel k then
      { e with pend := if e.line.getLsbD k || e.sticky.getLsbD k then e.pend ||| evgBit k else e.pend &&& ~~~(evgBit k) }
    else e
  evgSetStack { s with evg := e1 } c rest

/-- A failed completion is recorded, counted, and raises source 69 (R264). -/
def evgFail (s : State) (c : EvClass) (w : Nat) : State :=
  let top := (evgStack s c).headD 0
  let info := w + 128 * classNo c + 256 * top + 32768 * b2n (evgStack s c).isEmpty
  evgRaise ((s.setReg R.EVG_FAULTINFO (BitVec.ofNat 32 info)).bump R.EVG_FAULTCNT 1) 69

/-- A write of COMPLETE. -/
def evgCompleteWrite (s : State) (c : EvClass) (v : Word) : State :=
  let w := v.toNat % 128
  match evgStack s c with
  | t :: rest => if t = w then evgPoll (evgSetFlag (evgPop s c t rest) c false) else evgFail s c w
  | [] => evgFail s c w

/-- The bits of a register that covers sources 32k to 32k + 31. -/
def evgWide (k : Nat) (v : Word) : BitVec 128 := (v.setWidth 128) <<< (32 * k)

/-- The level sources. -/
def evgLevels : BitVec 128 := evgBit 57 ||| evgBit 70 ||| evgBit 71

/-- A write of SETPEND: the bits set, and those of level sources stay set until a claim or CLRPEND (R259). -/
def evgSetPendWrite (s : State) (k : Nat) (v : Word) : State :=
  let m := evgWide k v
  evgPoll { s with evg := { s.evg with pend := s.evg.pend ||| m, sticky := s.evg.sticky ||| (m &&& evgLevels) } }

/-- A write of CLRPEND: the bits clear; that of a level source which is not active then follows its line again (R259). -/
def evgClrPendWrite (s : State) (k : Nat) (v : Word) : State :=
  let m := evgWide k v
  let again := m &&& evgLevels &&& ~~~s.evg.active &&& s.evg.line
  evgPoll { s with evg := { s.evg with pend := (s.evg.pend &&& ~~~m) ||| again, sticky := s.evg.sticky &&& ~~~m } }

/-- A write of FAST, for the bits of the mask: a source that is active keeps its class, and CFGLOST is set (R267). -/
def evgFastWrite (s : State) (k : Nat) (v mask : Word) : State :=
  let act : Word := (s.evg.active >>> (32 * k)).setWidth 32 &&& mask
  let m := mask &&& ~~~act
  let s1 := s.setReg (R.EVG_FAST k) ((s.reg (R.EVG_FAST k) &&& ~~~m) ||| (v &&& m))
  evgPoll (if act = 0 then s1 else s1.orReg R.EVG_STAT 1)

/-- The nibbles of a priority register whose source is active and that the mask touches. -/
def prioActive (s : State) (k : Nat) (mask : Word) : Word :=
  (List.range 8).foldl (fun w i =>
    if s.evg.active.getLsbD (8 * k + i) && fld mask.toNat (4 * i) 4 ≠ 0 then w ||| ((0xF : Word) <<< (4 * i)) else w) 0

/-- A write of PRIO, for the bits of the mask: a source that is active keeps its priority, and CFGLOST is set (R267). -/
def evgPrioWrite (s : State) (k : Nat) (v mask : Word) : State :=
  let act := prioActive s k mask
  let m := mask &&& ~~~act
  let s1 := s.setReg (R.EVG_PRIO k) ((s.reg (R.EVG_PRIO k) &&& ~~~m) ||| (v &&& m))
  evgPoll (if act = 0 then s1 else s1.orReg R.EVG_STAT 1)

/-- LEVEL_LINE (R259). -/
def execLevelLine (src : BitVec 7) (level : Bool) (s : State) : Host.Outcome State Fault Refusal := .next (evgLine s src.toNat level)

end Sys2Proof.Machine
end

