-- ==== Sys2Proof/Machine/Ring.lean ====
section
/-! DEFINITION. The federation ring: its frames and their forwarding (R301, R303 to R305), failed links and loopback (R306, R307), the time roles and steering (R308 to R313), cold start (R314), Scree members (R315), and peer entries (R316, R317). Times of frames are in units of 1/1,024 macrotick (R304). -/

namespace Sys2Proof.Machine

/-! ### Links -/

/-- The ring ports are enabled. -/
def ringOn (s : State) : Bool := s.regBit R.FRN_CTRL 0

/-- The module's own member number. -/
def ownMember (s : State) : Nat := s.regF R.FRN_CFG 0 5

/-- A link. -/
def linkAt (s : State) (l : Nat) : LinkSt := s.frn.links.getD l LinkSt.reset

/-- The state with a link changed. -/
def updLink (s : State) (l : Nat) (f : LinkSt → LinkSt) : State := { s with frn := { s.frn with links := setAt s.frn.links l f } }

/-- An event of a link. -/
def linkEvent (s : State) (l bit : Nat) : State := s.event (R.FRN_L_EVT l) (R.FRN_L_EVTEN l) bit (48 + l)

/-- An event of every link. -/
def linksEvent (s : State) (bit : Nat) : State := [0, 1, 2, 3].foldl (fun t l => linkEvent t l bit) s

/-- Link 1 receives ring 1 at the west port, link 2 receives ring 2 at the east port (R300). -/
def receives (l : Nat) : Bool := l == 1 || l == 2

/-- The sending link of the same port as a receiving link. -/
def partnerLink (l : Nat) : Nat := if l = 1 then 3 else 0

/-- A receiving link is declared failed. -/
def linkFailed (s : State) (l : Nat) : Bool := s.regBit (R.FRN_L_STAT l) 1

/-- The sending link of a ring is looped: ring 1 leaves by link 0, ring 2 by link 3. -/
def ringLooped (s : State) (ring : Nat) : Bool := s.regBit (R.FRN_L_STAT (if ring = 0 then 0 else 3)) 2

/-- The FCS of a frame as received differs from the computed one by these bits. -/
def fcsError (b : Bytes) : Word := crc32iso (b.take (b.length - 4)) ^^^ BitVec.ofNat 32 (beAt b (b.length - 4) 4)

/-- A frame leaves on a ring with the bits in which its FCS is wrong, or with LOOP set on the other where that ring's port is looped (R306); with both looped it goes nowhere. -/
def sendRingFcs (s : State) (ring : Nat) (b : Bytes) (err : Word) : State :=
  let put (r : Nat) (f : Bytes) : State := s.emit (.etlR (BitVec.ofNat 1 r) (f ++ beBytes 4 (crc32iso f ^^^ err).toNat))
  if ringLooped s ring = false then put ring b
  else if ringLooped s (1 - ring) = false then put (1 - ring) ((b.headD 0 ||| 4) :: b.drop 1)
  else s

/-- The same for a frame of the module's own, whose FCS is right. -/
def sendRing (s : State) (ring : Nat) (b : Bytes) : State := sendRingFcs s ring b 0

/-! ### Frames (R303 to R305) -/

/-- The time base in units of 1/1,024 macrotick. -/
def now1024 (s : State) : Nat := s.cyc.timeBase * 1024

/-- The count at which a slot of the present round begins: slots of 30 macroticks (R303). -/
def slotStart (s : State) (slot : Nat) : Nat := 1000 * s.fsn.round + 30 * slot

/-- A frame of the module's own that starts at a count, without its FCS. ECHO is the arrival at the port that receives the other ring, which is the port that the frame leaves by: so the two-way method of R309 has both times of one cable (DEDUCED, log 28). -/
def ringFrame (s : State) (start ring type : Nat) (body : Bytes) : Bytes :=
  let echo := (linkAt s (if ring = 0 then 2 else 1)).neigh
  [BitVec.ofNat 8 (16 * type + 8 * ring), BitVec.ofNat 8 (ownMember s), 0, 0] ++ beBytes 4 s.fsn.round ++ beBytes 8 (1024 * start) ++ beBytes 8 echo ++
    beBytes 4 0 ++ beBytes 2 body.length ++ [0, 0] ++ body

/-- One frame on each ring with the same body, at the start of a slot. -/
def originate (s : State) (slot type : Nat) (body : Bytes) : State :=
  let t := slotStart s slot
  let s1 := sendRing (sendRing s 0 (ringFrame s t 0 type body)) 1 (ringFrame s t 1 type body)
  { s1 with frn := { s1.frn with txTimes := (1024 * t :: s1.frn.txTimes).take 8 } }

/-- TYPE, SRC, HOPS, ROUND, TXTIME, ECHO, CORR and LEN of a frame. -/
structure RingHdr where
  type : Nat
  src : Nat
  hops : Nat
  round : Nat
  tx : Nat
  echo : Nat
  corr : Nat
  len : Nat
deriving DecidableEq, Repr

/-- The header of a frame. -/
def ringHdr (b : Bytes) : RingHdr :=
  { type := fld (beAt b 0 1) 4 4, src := fld (beAt b 1 1) 0 5, hops := beAt b 2 1, round := beAt b 4 4, tx := beAt b 8 8, echo := beAt b 16 8,
    corr := beAt b 24 4, len := beAt b 28 2 }

/-- The FCS is correct. -/
def ringFcsOk (b : Bytes) : Bool := decide (36 ≤ b.length) && beBytes 4 (crc32iso (b.take (b.length - 4))).toNat == b.drop (b.length - 4)

/-- The slot of the round in which a frame was originated, by its TXTIME: slots of 30 µs. -/
def txSlot (h : RingHdr) : Nat := h.tx % 1024000 / 30720

/-- A probe of the neighbour on a link's port: NULL, outside the slot of its originator (R305, R307). -/
def isProbe (h : RingHdr) : Bool := h.type == 4 && h.hops == 0 && txSlot h != h.src + 1

/-- The frame belongs to slot 0. -/
def slotZero (h : RingHdr) : Bool := h.type == 1 || h.type == 5

/-- Member m is kept as Scree, and granted. -/
def isScree (s : State) (m : Nat) : Bool := s.regBit R.FRN_SCREE m
def isGranted (s : State) (m : Nat) : Bool := s.regBit R.FRN_GRANTED m

/-- The type is defined and fits the slot; a probe has no slot (R305, R307). -/
def ringTypeFits (s : State) (h : RingHdr) : Bool :=
  match h.type with
  | 1 => txSlot h == 0
  | 5 => txSlot h == 0
  | 2 => txSlot h == h.src + 1
  | 3 => txSlot h == h.src + 1 && isScree s h.src && !isGranted s h.src
  | 4 => txSlot h == h.src + 1 || isProbe h
  | _ => false

/-- LEN is the body's length and fits the type. -/
def ringLenFits (b : Bytes) (h : RingHdr) : Bool :=
  b.length == h.len + 36 && (match h.type with
    | 1 => h.len == 12
    | 5 => h.len == 12
    | 2 => h.len % 13 == 0 && decide (h.len ≤ 2041)
    | 3 => h.len == 8
    | _ => h.len == 0)

/-- SRC is a member or a granted Scree member; REF, COLD and CLAIM need not be. -/
def srcOk (s : State) (h : RingHdr) : Bool :=
  h.type == 1 || h.type == 5 || h.type == 3 || s.regBit R.FRN_MEMBERS h.src || isGranted s h.src

/-- The key under which at most one frame is accepted: SRC, slot 0 or not, ROUND (R305; log 29). -/
def frameKey (h : RingHdr) : Nat := h.src + 32 * b2n (slotZero h) + 64 * h.round

/-! ### Time (R309, R310, R312, R314) -/

/-- SYNC of FRN_STAT: 0 off, 1 listening, 2 cold start, 3 back-off, 4 acquiring, 5 SYNCED, 6 holdover. -/
def syncState (s : State) : Nat := s.regF R.FRN_STAT 0 3

/-- A change of SYNC, with its event; a member that becomes SYNCED meets a condition of the IOI's start-up (R311). -/
def setSync (s : State) (v : Nat) : State :=
  if syncState s = v then s
  else
    let s1 := if v = 5 then { s with frn := { s.frn with everSynced := true }, cyc := { s.cyc with startFrom := s.cyc.timeBase } } else s
    linksEvent (s1.setF R.FRN_STAT 0 3 v) 4

/-- The module is the master. -/
def isMaster (s : State) : Bool := s.regF R.FRN_STAT 3 2 == 1

/-- The rank with which the module is or would be master: 4 as a cold-start source (R308, R314). -/
def ownRank (s : State) : Nat := if s.frn.coldSource then 4 else s.regF R.FRN_CFG 16 3

/-- The present master, with an event on a change. -/
def setMaster (s : State) (m rank : Nat) : State :=
  if s.regF R.FRN_STAT 8 5 = m ∧ s.regF R.FRN_STAT 13 3 = rank then s
  else linksEvent ((s.setF R.FRN_STAT 8 5 m).setF R.FRN_STAT 13 3 rank) 3

/-- A signed field of a register. -/
def signedReg (s : State) (off w : Nat) : Int := (BitVec.ofNat w (s.regF off 0 w)).toInt

/-- The rate is steered once in a round, by at most 10 steps of 0.1 ppm against the sign of an offset, within ±1,500 steps; how many steps is a free value (R310, log 31). -/
def steer (s : State) (offset : Int) : State :=
  if s.frn.steered ∨ offset = 0 then s
  else
    let k : Int := (s.freeNow.toNat % 11 : Nat)
    let r := signedReg s R.FRN_RATE 16 + (if 0 < offset then -k else k)
    let c := max (-1500) (min 1500 r)
    let s1 := { s with frn := { s.frn with steered := true } }
    s1.drawn.setReg R.FRN_RATE ((BitVec.ofInt 16 c).setWidth 32)

/-- The time base is loaded directly, before the IOI's start-up completes (R310, R314). -/
def loadTime (s : State) (t1024 : Nat) : State := if s.cyc.started then s else loadBase s (t1024 / 1024)

/-- Holdover ends (R312). -/
def endHoldover (s : State) : State :=
  if syncState s = 6 then { setSync s 5 with cyc := { s.cyc with holdSince := none, holdLost := false } } else s

/-- The measured offset is shown, with OUTSYNC, and steered towards 0 (R309, R310). -/
def takeOffset (s : State) (off : Int) : State :=
  let s1 := (s.setReg R.FRN_OFFSET (BitVec.ofInt 32 off)).setF R.FRN_STAT 5 1 (b2n (2048 < off.natAbs))
  steer { s1 with frn := { s1.frn with offsetOk := s1.frn.offsetOk && decide (off.natAbs ≤ 256) } } off

/-- A cold-start conflict: silence for 4 × (SRANK + 1) rounds (R314). -/
def conflict (s : State) : State :=
  if syncState s = 2 then
    linksEvent (setSync { s with frn := { s.frn with backoffEnd := s.fsn.round + 4 * (s.regF R.FRN_CFG 8 5 + 1) } } 3) 6
  else s

/-- A member takes its time from a REF or COLD: the time base is loaded, and it acquires (R310, R314). -/
def join (s : State) (h : RingHdr) : State :=
  let t := (loadTime s (h.tx + h.corr)).setReg R.FRN_OFFSET 0
  setSync { t with frn := { t.frn with okRounds := 0, offsetOk := true } } 4

/-- What a REF tells of Scree members (R315): those that it shows free are not granted; the one that it names is, and so is every other member kept as Scree here that it does not show free, whenever it was granted. The own number is granted by name only (DEDUCED, log 77). -/
def takeGrants (s : State) (b : Bytes) : State :=
  let g := beAt b 35 1
  let free : Word := BitVec.ofNat 32 (beAt b 36 4)
  let others := s.reg R.FRN_SCREE &&& ~~~((1 : Word) <<< ownMember s)
  let new := ((s.reg R.FRN_GRANTED ||| others) &&& ~~~free) ||| (if bitOf g 7 then (1 : Word) <<< (g % 32) else 0)
  let s1 := { s with frn := { s.frn with claimFree := free } }
  if new = s.reg R.FRN_GRANTED then s1 else linksEvent (s1.setReg R.FRN_GRANTED new) 5

/-- An accepted REF (R308 to R312, R315): before start-up the first one loads the time base, though a COLD has loaded it before. -/
def takeRef (s : State) (h : RingHdr) (arrival : Nat) (b : Bytes) : State :=
  let rank := beAt b 34 1 % 8
  let s1 := { s with frn := { s.frn with lastRef := (BitVec.ofNat 3 rank, BitVec.ofNat 5 h.src, s.fsn.round) :: s.frn.lastRef } }
  if isMaster s then s1
  else
    let s2 := (takeGrants (setMaster s1 h.src rank) b).setF R.FRN_STAT 6 1 (b2n (beAt b 32 2 != s.cyc.tcyc))
    if syncState s2 < 4 ∨ (syncState s2 = 4 ∧ s2.cyc.started = false ∧ s2.frn.refLoaded = false) then join { s2 with frn := { s2.frn with refLoaded := true } } h
    else takeOffset (endHoldover s2) ((arrival : Int) - (h.tx + h.corr : Nat))

/-- An accepted COLD: a conflict while the module sends COLD, a frame to join on while it listens or backs off (R314). -/
def takeCold (s : State) (h : RingHdr) : State :=
  match syncState s with
  | 2 => conflict s
  | 1 => join s h
  | 3 => join s h
  | _ => s

/-- The entry at an offset of a DATA body (R316, R317). -/
def ringEntry (b : Bytes) (h : RingHdr) (k : Nat) : RingIn :=
  let o := 32 + 13 * k
  { src := BitVec.ofNat 5 h.src, obj := BitVec.ofNat 20 (beAt b o 3), pad := BitVec.ofNat 4 (beAt b o 3 / 2 ^ 20), record := BitVec.ofNat 16 (beAt b (o + 3) 2),
    code1 := BitVec.ofNat 32 (beAt b (o + 5) 4), code2 := BitVec.ofNat 32 (beAt b (o + 9) 4), round := BitVec.ofNat 32 h.round }

/-- The entries of an accepted DATA frame for incoming objects take the place of earlier ones. -/
def takePeers (s : State) (b : Bytes) (h : RingHdr) : State :=
  let es := ((List.range (h.len / 13)).map (ringEntry b h)).filter fun e => e.obj.toNat / 2 ^ 15 != ownMember s
  { s with frn := { s.frn with rx := es.foldl (fun l e => l.filter (fun f => f.obj != e.obj) ++ [e]) s.frn.rx } }

/-- An accepted CLAIM: the two rings' copies of one count once, and those of two claimants of a number twice (R305, R315). -/
def takeClaim (s : State) (b : Bytes) (h : RingHdr) : State :=
  let c : RingClaimIn := { src := BitVec.ofNat 5 h.src, serial := BitVec.ofNat 64 (beAt b 32 8), round := h.round, fresh := true }
  if s.frn.claims.any fun d => d.src == c.src && d.serial == c.serial && d.round == c.round then s
  else { s with frn := { s.frn with claims := s.frn.claims ++ [c] } }

/-- A member has been heard. -/
def hearMember (s : State) (h : RingHdr) : State :=
  { s with frn := { s.frn with live := s.frn.live ||| ((1 : BitVec 32) <<< h.src), lastAny := some s.fsn.round } }

/-- The first accepted copy of a frame serves (R305). A probe is no copy of the neighbour's frame of its slot, and CLAIMs are told apart by their claimants. -/
def serveFrame (s : State) (h : RingHdr) (arrival : Nat) (b : Bytes) : State :=
  if isProbe h then hearMember s h
  else if h.type = 3 then takeClaim (hearMember s h) b h
  else if s.frn.accepted.contains (frameKey h) then s
  else
    let s1 := hearMember { s with frn := { s.frn with accepted := frameKey h :: s.frn.accepted } } h
    match h.type with
    | 1 => takeRef s1 h arrival b
    | 5 => takeCold s1 h
    | 2 => takePeers s1 b h
    | _ => s1

/-! ### ETL_R_FRAME -/

/-- Both ways of a cable, for a frame of the module's own that started at t and the neighbour's frame that echoes it. -/
def bothWays (t : Nat) (h : RingHdr) (arrival : Nat) : Int := ((arrival : Int) - t) - ((h.tx : Int) - h.echo)

/-- The delay of a receiving link, by the two-way method from a frame that the neighbour originated (R309, log 28): its ECHO is the arrival of the latest own frame for which the two ways are no negative time. -/
def linkDelay (s : State) (h : RingHdr) (arrival : Nat) : Option Nat :=
  ((s.frn.txTimes.filter fun t => decide (0 ≤ bothWays t h arrival)).map fun t => ((bothWays t h arrival) / 2).toNat).foldl (fun m d => some (min (m.getD d) d)) none

/-- A frame that the neighbour originated gives the link's delay and the module's ECHO, and shows by its own ECHO that the module's frames arrive. -/
def fromNeighbour (s : State) (l : Nat) (h : RingHdr) (arrival : Nat) : State :=
  if h.hops = 0 then
    let s1 := updLink s l fun x => { x with neigh := arrival, echo := h.echo, echoed := x.echoed || h.echo != x.echo }
    match linkDelay s h arrival with
    | none => s1
    | some d => s1.setReg (R.FRN_L_DELAY l) (BitVec.ofNat 32 d)
  else s

/-- The frame as the position forwards it: HOPS raised, and CORR of a REF with the link's delay and the residence (R301, R309). -/
def forwarded (s : State) (l residence : Nat) (b : Bytes) (h : RingHdr) : Bytes :=
  let c := if h.type = 1 then h.corr + s.regN (R.FRN_L_DELAY l) + residence else h.corr
  b.take 2 ++ [BitVec.ofNat 8 (h.hops + 1)] ++ (b.drop 3).take 21 ++ beBytes 4 c ++ (b.drop 28).take (b.length - 32)

/-- The position forwards a frame to the next on the same ring; its originator removes it, a frame of 80 hops is discarded, and a probe is not forwarded (R301, R307). Its FCS follows the raised HOPS and CORR, and a wrong one stays wrong (log 63). -/
def forwardFrame (s : State) (l residence : Nat) (b : Bytes) (h : RingHdr) : State :=
  if b.length < 36 ∨ (h.src = ownMember s ∧ isStandby s = false) ∨ 79 ≤ h.hops ∨ isProbe h = true then s
  else sendRingFcs s (if l = 1 then 0 else 1) (forwarded s l residence b h) (fcsError b)

/-- The frames accepted on a link's ring. -/
def seenOn (s : State) (l : Nat) : List Nat := if l = 1 then s.frn.seen1 else s.frn.seen2

/-- A frame has been accepted on a link's ring. -/
def markSeen (s : State) (l key : Nat) : State :=
  if l = 1 then { s with frn := { s.frn with seen1 := key :: s.frn.seen1 } } else { s with frn := { s.frn with seen2 := key :: s.frn.seen2 } }

/-- A frame of the same SRC and ROUND is cut on the link (R305, R306). -/
def cutRing (s : State) (l : Nat) : State :=
  linkEvent ((updLink s l fun x => { x with cuts := recent s.fsn.round (s.fsn.round :: x.cuts) }).bump (R.FRN_L_CUTCNT l) 1) l 2

/-- A frame with a correct FCS from another member: accepted and served, cut, or counted as failing R305. -/
def judgeRing (s : State) (l : Nat) (h : RingHdr) (arrival : Nat) (b : Bytes) : State :=
  if !ringTypeFits s h || !ringLenFits b h || !srcOk s h then s.bump (R.FRN_L_RXERRCNT l) 1
  else if (seenOn s l).contains (frameKey h) then cutRing s l
  else serveFrame (updLink ((markSeen s l (frameKey h)).bump (R.FRN_L_RXCNT l) 1) l fun x => { x with probed := true }) h arrival b

/-- ETL_R_FRAME: a receiving link of an enabled ring port receives a frame. A probe is no frame that keeps a link from failing: the neighbour of a looped port hears nothing else (R306). -/
def execEtlRFrame (link : BitVec 2) (arrival : Nat) (residence : Nat) (frame : Bytes) (s : State) : Host.Outcome State Fault Refusal :=
  let l := link.toNat
  if ringOn s = false ∨ receives l = false then .next s
  else
    let h := ringHdr frame
    let s0 := s.setF (R.FRN_L_STAT l) 0 1 1
    if ringFcsOk frame = false then .next (forwardFrame (conflict (s0.bump (R.FRN_L_RXERRCNT l) 1)) l residence frame h)
    else
      let s1 := fromNeighbour (if isProbe h then s0 else updLink s0 l fun x => { x with lastGood := s.fsn.round }) l h arrival
      let s2 := if h.src = ownMember s ∧ isStandby s = false then s1 else judgeRing s1 l h arrival frame
      .next (forwardFrame s2 l residence frame h)

/-! ### Failed links (R306, R307) -/

/-- A failure that neither missing frames nor cuts explain is a loss of block lock. -/
def lockLost (s : State) (l : Nat) : Bool :=
  decide (s.fsn.round < (linkAt s l).lastGood + 2) && decide ((recent s.fsn.round (linkAt s l).cuts).length < 3)

/-- LINK_FAILED: the link is declared failed, and its port's sending link is looped. -/
def execLinkFailed (link : BitVec 2) (s : State) : Host.Outcome State Fault Refusal :=
  let l := link.toNat
  if ringOn s = false ∨ receives l = false ∨ linkFailed s l = true then .next s
  else
    let s1 := if lockLost s l then s.setF (R.FRN_L_STAT l) 0 1 0 else s
    let s2 := (s1.setF (R.FRN_L_STAT l) 1 1 1).setF (R.FRN_L_STAT (partnerLink l)) 2 1 1
    .next (linkEvent (updLink s2 l fun x => { x with probeRun := 0, probed := false }) l 0)

/-- The present round has had an accepted probe or frame of the neighbour, and one that shows that the neighbour has received the module's own (R307; that its ECHO shows it is DEDUCED, log 28). -/
def bothHeard (s : State) (l : Nat) : Bool := (linkAt s l).probed && (linkAt s l).echoed

/-- LINK_RESTORE: after 64 consecutive rounds with an accepted probe or frame in each direction, the present one included. -/
def execLinkRestore (link : BitVec 2) (s : State) : Host.Outcome State Fault Refusal :=
  let l := link.toNat
  if receives l && linkFailed s l && decide (64 ≤ (linkAt s l).probeRun + b2n (bothHeard s l)) then
    let s1 := (s.setF (R.FRN_L_STAT l) 1 1 0).setF (R.FRN_L_STAT (partnerLink l)) 2 1 0
    .next (linkEvent (updLink s1 l fun x => { x with cuts := [], lastGood := s.fsn.round }) l 1)
  else .next s

/-- A link's round ends. -/
def linkRound (s : State) (l : Nat) : State :=
  updLink s l fun x => { x with
    probeRun := if linkFailed s l && bothHeard s l then x.probeRun + 1 else 0
    probed := false, echoed := false, cuts := recent (s.fsn.round + 1) x.cuts }

/-- A looped port sends one probe per round on its failed direction (R307), at the round start. -/
def probeRound (s : State) (l : Nat) : State :=
  if linkFailed s l then
    let ring := if l = 1 then 1 else 0
    let s1 := s.emit (.etlR (BitVec.ofNat 1 ring) (withFcs (ringFrame s (slotStart s 0) ring 4 [])))
    { s1 with frn := { s1.frn with txTimes := (1024 * slotStart s 0 :: s1.frn.txTimes).take 8 } }
  else s

/-! ### Origination (R303, R315, R316) -/

/-- The module originates in its own slot: enabled, not the standby nor before the round after it became active (R319), with time, and once in a round (R303). -/
def ownSlot (s : State) : Nat := ownMember s + 1

/-- The condition of a frame in the own slot. -/
def mayOriginate (s : State) : Bool :=
  ringOn s && !portsShut s s.fsn.round && decide (4 ≤ syncState s) && s.frn.sentRound != some s.fsn.round

/-- The codes of an entry for the ROUND of the frame that carries it (R316): the two agreeing lanes give them for each round in which the queue may be sent (DEDUCED, log 20). -/
def stampRound (s : State) (m : Msg) : Msg := message .etlR 0x3C 0 m.obj m.record (ownMember s * 2 ^ 32 + s.fsn.round % 2 ^ 32)

/-- The next entries of the queue, at most 157, wrapping (R290, R316). -/
def ringData (s : State) : State :=
  let q := s.frn.queue
  let n := min 157 q.length
  if n = 0 then originate s (ownSlot s) 4 []
  else
    let es := ((List.range n).filterMap fun j => q[(s.frn.pos + j) % q.length]?).map (stampRound s)
    let body := es.flatMap fun m => beBytes 3 m.obj.toNat ++ beBytes 2 m.record.toNat ++ beBytes 4 m.code1.toNat ++ beBytes 4 m.code2.toNat
    originate { s with frn := { s.frn with pos := (s.frn.pos + n) % q.length, sent := min q.length (s.frn.sent + n) } } (ownSlot s) 2 body

/-- A late-comer's claim: its serial number, once SYNCED and while the latest REF shows its number free. -/
def ringClaim (s : State) : State :=
  if syncState s = 5 ∧ s.frn.claimFree.getLsbD (ownMember s) = true then originate s (ownSlot s) 3 (beBytes 8 (s.wide R.GLB_SERIAL_LO).toNat) else s

/-- ORIGINATION: the module's own slot of the present round begins, 30 × (m + 1) macroticks after the round (R303). -/
def execOrigination (s : State) : Host.Outcome State Fault Refusal :=
  if mayOriginate s = false then .next s
  else
    let s1 := s.at (slotStart s (ownSlot s))
    let s2 := { s1 with frn := { s1.frn with sentRound := some s.fsn.round } }
    if isScree s (ownMember s) && !isGranted s (ownMember s) then .next (ringClaim s2) else .next (ringData s2)

/-! ### Cold start, holdover, PPS (R312 to R314) -/

/-- COLD_START: 64 rounds without an accepted frame since EN was set, or since the last one. -/
def execColdStart (s : State) : Host.Outcome State Fault Refusal :=
  if ringOn s && !isStandby s && !s.frn.everSynced && syncState s == 1 && decide (max s.frn.enabledAt (s.frn.lastAny.getD 0) + 64 ≤ s.fsn.round + 1) then
    .next (setSync { s with frn := { s.frn with coldSent := 0 } } 2)
  else .next s

/-- BACKOFF: the silence after a conflict ends, and the module sends COLD again. -/
def execBackoff (s : State) : Host.Outcome State Fault Refusal :=
  if ringOn s && !isStandby s && syncState s == 3 && decide (s.frn.backoffEnd ≤ s.fsn.round) then
    .next (setSync { s with frn := { s.frn with coldSent := 0 } } 2)
  else .next s

/-- The round of the latest accepted REF. -/
def lastRefRound (s : State) : Nat := (s.frn.lastRef.map fun r => r.2.2).foldl max s.frn.enabledAt

/-- HOLDOVER: a SYNCED member that is not master has accepted no REF for 8 rounds: the 8 that follow the round of its latest one, the present one included. -/
def execHoldover (s : State) : Host.Outcome State Fault Refusal :=
  if ringOn s && !isMaster s && syncState s == 5 && decide (lastRefRound s + 8 ≤ s.fsn.round) then
    .next { (setSync s 6).setReg R.FRN_HOLDTIME 0 with cyc := { s.cyc with holdSince := some s.cyc.timeBase } }
  else .next s

/-- The holdover limit falls before the next cycle begins: HOLD seconds from the entry to holdover, on the module time base (R312). -/
def holdOver (s : State) : Bool :=
  match s.cyc.holdSince with
  | none => false
  | some t => decide (t + 1000000 * s.regF R.FRN_TIMECFG 0 12 ≤ max s.cyc.timeBase (s.cyc.lastT0 + 1000 * s.cyc.tcyc))

/-- HOLDOVER_LIMIT: the holdover has passed FRN_TIMECFG.HOLD, and the next snapshot reports it (R149, R312). -/
def execHoldoverLimit (s : State) : Host.Outcome State Fault Refusal :=
  if syncState s = 6 ∧ holdOver s = true then .next { s with cyc := { s.cyc with holdLost := true } } else .next s

/-- How far an instant lies from the nearest management tick, in 1/1,024 macrotick. -/
def tickError (t : Nat) : Int :=
  let e := t % 1024000000
  if e ≤ 512000000 then (e : Int) else (e : Int) - 1024000000

/-- An edge of PPS_IN is used: the first since the module became master, or one within 200 µs of 1 s after the previous one used (R486, log 31). -/
def ppsUsed (s : State) (at1024 : Nat) : Bool :=
  match s.frn.ppsLast with
  | none => true
  | some t => decide (((at1024 : Int) - (t + 1024000000 : Nat)).natAbs ≤ 204800)

/-- PPS_IN: a master with PPSEN steers its rate so that its ticks fall on the edge, whose stamp is `at1024`: a stamp after the tick shows a time base that is ahead (R313). A non-master ignores it. -/
def execPpsIn (at1024 : Nat) (s : State) : Host.Outcome State Fault Refusal :=
  if ringOn s && isMaster s && s.regBit R.FRN_TIMECFG 12 && ppsUsed s at1024 then
    .next (steer { s with frn := { s.frn with ppsLast := some at1024 } } (tickError at1024))
  else .next s

/-! ### The round (R307, R308, R310, R314, R315) -/

/-- The configured rank of a candidate. -/
def candidateRank (s : State) : Option Nat := if s.regF R.FRN_CFG 16 3 < 4 then some (s.regF R.FRN_CFG 16 3) else none

/-- A candidate that has had time takes the role where it has accepted no REF of a lower rank in the preceding r + 2 rounds (R308). -/
def takesRole (s : State) : Bool :=
  match candidateRank s with
  | none => false
  | some r => decide (5 ≤ syncState s) && !s.frn.lastRef.any fun f => decide (f.1.toNat < r) && decide (s.fsn.round < f.2.2 + r + 2)

/-- A master gives up the role after a REF of a lower rank, or of its own from a lower member, accepted in the round that ends (R308). -/
def yieldsRole (s : State) : Bool :=
  s.frn.lastRef.any fun f => f.2.2 == s.fsn.round && (decide (f.1.toNat < ownRank s) || (f.1.toNat == ownRank s && decide (f.2.1.toNat < ownMember s)))

/-- The module becomes master: holdover, if any, ends. -/
def becomeMaster (s : State) : State :=
  let s0 := setSync s 5
  let s1 := { s0 with cyc := { s0.cyc with holdSince := none, holdLost := false, startFrom := s.cyc.timeBase }, frn := { s0.frn with ppsLast := none } }
  setMaster (s1.setF R.FRN_STAT 3 2 1) (ownMember s1) (ownRank s1)

/-- The time role at a round start. -/
def roleRound (s : State) : State :=
  if isStandby s then s.setF R.FRN_STAT 3 2 2
  else if isMaster s && yieldsRole s then { s.setF R.FRN_STAT 3 2 0 with frn := { s.frn with coldSource := false } }
  else if isMaster s then (if s.frn.coldSource && takesRole s then becomeMaster { s with frn := { s.frn with coldSource := false } } else s)
  else if takesRole s then becomeMaster s
  else if s.regF R.FRN_STAT 3 2 = 2 then s.setF R.FRN_STAT 3 2 0
  else s

/-- A REF has been accepted in the present round, so that its offset is known. -/
def refHeard (s : State) : Bool := s.frn.lastRef.any fun f => f.2.2 == s.fsn.round

/-- The rounds with an offset within ±0.25 µs: after 16 consecutive ones a member that acquires is SYNCED (R310). A round without an accepted REF has no offset, and breaks the run (DEDUCED, log 31). -/
def acquireRound (s : State) : State :=
  let n := if refHeard s && s.frn.offsetOk && decide ((signedReg s R.FRN_OFFSET 32).natAbs ≤ 256) then s.frn.okRounds + 1 else 0
  let s1 := { s with frn := { s.frn with okRounds := n, offsetOk := true, steered := false } }
  if syncState s = 4 ∧ 16 ≤ n then setSync s1 5 else s1

/-- The grant of a master: the lowest-numbered free Scree member with exactly one CLAIM accepted in the round (R315). -/
def ringGrant (s : State) : Option Nat :=
  (List.range 32).find? fun m => isScree s m && !isGranted s m && (s.frn.claims.filter fun c => c.fresh && c.src.toNat == m).length == 1

/-- The rounds without an accepted frame of a member. -/
def silentRounds (s : State) (m : Nat) : Nat := (assoc (BitVec.ofNat 5 m) s.frn.silence).getD 0

/-- The granted members that a master releases: silent for SCREEREL rounds, or no longer kept as Scree. -/
def ringReleases (s : State) : Word :=
  (List.range 32).foldl (fun w m =>
    if isGranted s m && (!isScree s m || decide (s.regF R.FRN_SCREECFG 0 16 ≤ silentRounds s m)) then w ||| ((1 : Word) <<< m) else w) 0

/-- The silence of each granted member goes on. -/
def silenceRound (s : State) : State :=
  let f (m : Nat) : BitVec 5 × Nat := (BitVec.ofNat 5 m, if s.frn.live.getLsbD m then 0 else silentRounds s m + 1)
  { s with frn := { s.frn with silence := ((List.range 32).filter (isGranted s)).map f } }

/-- The master's grants and releases. -/
def grantRound (s : State) : State :=
  let s1 := silenceRound s
  let old := (s1.frn.claims.filter fun c => s.fsn.round ≤ c.round + 2).map fun c => { c with fresh := false }
  if isMaster s1 = false then { s1 with frn := { s1.frn with claims := old, grantNext := none } }
  else
    let g := ringGrant s1
    let new := (s1.reg R.FRN_GRANTED &&& ~~~(ringReleases s1)) ||| (match g with | some m => (1 : Word) <<< m | none => 0)
    let s2 := if new = s1.reg R.FRN_GRANTED then s1 else linksEvent (s1.setReg R.FRN_GRANTED new) 5
    { s2 with frn := { s2.frn with claims := old, grantNext := g.map (BitVec.ofNat 5) } }

/-- The body of REF and COLD (R305). -/
def refBody (s : State) (rank : Nat) : Bytes :=
  let grant := match s.frn.grantNext with | some m => 128 + m.toNat | none => 0
  beBytes 2 s.cyc.tcyc ++ [BitVec.ofNat 8 rank, BitVec.ofNat 8 grant] ++ beBytes 4 (s.reg R.FRN_SCREE &&& ~~~s.reg R.FRN_GRANTED).toNat ++ [0, 0, 0, 0]

/-- Cold start at a round start: COLD twice, and then the module is the source (R314). -/
def coldRound (s : State) : State :=
  if syncState s ≠ 2 ∨ isStandby s = true then s
  else if 2 ≤ s.frn.coldSent then becomeMaster { s with frn := { s.frn with coldSource := true } }
  else originate { s with frn := { s.frn with coldSent := s.frn.coldSent + 1 } } 0 5 (refBody s 4)

/-- The accepted frames that can still meet a second copy. -/
def keepKeys (round : Nat) (l : List Nat) : List Nat := l.filter fun k => round ≤ k / 64 + 2

/-- The round before ends on the ring. -/
def ringEnd (s : State) : State :=
  let s1 := grantRound (acquireRound (roleRound (linkRound (linkRound s 1) 2)))
  let r := s1.fsn.round
  { s1.setReg R.FRN_LIVE s1.frn.live with frn := { s1.frn with
    live := 0, seen1 := keepKeys r s1.frn.seen1, seen2 := keepKeys r s1.frn.seen2, accepted := keepKeys r s1.frn.accepted
    lastRef := s1.frn.lastRef.filter fun f => r < f.2.2 + 16 } }

/-- The ring at the start of a round, once its number stands: the probes, cold start, and the master's REF. -/
def ringBegin (s : State) : State :=
  let s1 := coldRound (probeRound (probeRound s 1) 2)
  if isMaster s1 && !isStandby s1 then originate s1 0 1 (refBody s1 (ownRank s1)) else s1

/-! ### Register writes (R320) -/

/-- A write of FRN_CTRL: EN starts the listening of R314, or ends the ring's use. -/
def frnCtrlWrite (s : State) (en : Bool) : State :=
  if en = ringOn s then s
  else
    let f := { FrnSt.reset with queue := s.frn.queue, qcycle := s.frn.qcycle, enabledAt := s.fsn.round }
    let s1 := { s.setF R.FRN_CTRL 0 1 (b2n en) with frn := f, cyc := { s.cyc with holdSince := none, holdLost := false } }
    let s2 := [0, 1, 2, 3].foldl (fun t l => t.setReg (R.FRN_L_STAT l) 0) ((s1.setF R.FRN_STAT 3 4 0).setF R.FRN_STAT 13 3 7)
    setSync s2 (b2n en)

/-- A write of FRN_CFG, FRN_MEMBERS or FRN_SCREE, refused while EN is 1 or where it would leave a member both configured and kept as Scree. -/
def frnCfgWrite (s : State) (off : Nat) (v : Word) : State :=
  let s1 := s.setReg off v
  if ringOn s ∨ s1.reg R.FRN_MEMBERS &&& s1.reg R.FRN_SCREE ≠ 0 then s.orReg R.FRN_STAT 0x80 else s1

end Sys2Proof.Machine
end

