-- ==== Sys2Proof/Machine/Standby.lean ====
section
/-! DEFINITION. The standby link and the interlock lines (R343, R344, R348 to R350, R352, R353, R355, R356, R360), and the start of a network round, in which the module sends its own STATUS and TIME (R273, R303, R348). -/

namespace Sys2Proof.Machine

/-! ### The link (R348) -/

/-- The standby link becomes up or down, with its event; a standby whose link goes down loses eligibility with cause 0x1 (R355). -/
def setPairLink (s : State) (up : Bool) : State :=
  if s.sby.link = up then s
  else
    let s1 := sbyEvent (s.updSby fun x => { x with link := up }) 3
    if up then s1 else checkElig s1

/-- A valid frame arrives from the partner. -/
def pairHeard (s : State) : State := s.updSby fun x => { x with lastFrame := s.cyc.timeBase }

/-- A round ends: the link is up while each of the latest 4 rounds has brought a STATUS frame. -/
def pairRound (s : State) : State :=
  if !s.sby.pairenNow then s
  else
    let h : BitVec 4 := (s.sby.heard <<< 1) ||| (if s.sby.heardNow then 1 else 0)
    setPairLink { s.updSby (fun x => { x with heard := h, heardNow := false }) with frn := { s.frn with steered := false } } (h == 15)

/-- SBY_STAT.ROLE: a paired module is at every instant ACTIVE or STANDBY (R343). -/
def roleCode (s : State) : Nat :=
  match s.sby.role with
  | .active => 1
  | .standby => 2
  | .alone => if s.sby.pairenNow then 2 else 0

/-- D: the module's own number less the partner's for the same t0 (R350). -/
def cycleOffset (s : State) (p : PartnerStatus) : Int := (s.cycle : Int) - p.cycle.toNat

/-- STATUS (R348, R350, R355): the partner's latest report; the offset D follows reports of the module's own latest t0, and eligibility follows its conditions. -/
def execStatus (p : PartnerStatus) (s : State) : Host.Outcome State Fault Refusal :=
  if !s.sby.pairenNow then .next s
  else
    let d := if s.cyc.started && p.t0Diff ≤ 2 then cycleOffset s p else s.sby.coffset
    .next (checkElig ((pairHeard s).updSby fun x => { x with partner := some p, heardNow := true, coffset := d }))

/-- STANDBY_LINK_DOWN (R348): a round has ended without a STATUS frame; where each of the latest four has brought one, the link stays up. -/
def execStandbyLinkDown (s : State) : Host.Outcome State Fault Refusal :=
  if !s.sby.pairenNow || (s.sby.heardNow && s.sby.heard &&& 7 == 7) then .next s
  else .next (setPairLink (s.updSby fun x => { x with heard := x.heard &&& 14 }) false)

/-! ### Time (R349) -/

/-- TIME (R349): the offset to the partner, in 1/1,024 macrotick; before start-up has completed, the frame of a partner that has completed it loads the time base. With the ring in use a TIME frame is ignored, but it is a valid frame of the link (R346). A module whose time base a partner has loaded is then steered in rate only, while it is not the active. -/
def execTime (tb linkDelay : Nat) (startupDone : Bool) (s : State) : Host.Outcome State Fault Refusal :=
  if !s.sby.pairenNow then .next s
  else if s.regBit R.FRN_CTRL 0 then .next (pairHeard s)
  else
    let s1 := (pairHeard s).setReg R.SBY_TOFFSET (BitVec.ofInt 32 ((now1024 s : Int) - (tb + linkDelay : Nat)))
    if s.sby.timeDone && startupDone && s.sby.role != .active then .next (steer s1 ((now1024 s : Int) - (tb + linkDelay : Nat)))
    else if s.cyc.started || s.sby.timeDone || !startupDone then .next s1
    else
      .next ((loadBase s1 ((tb + linkDelay) / 1024)).updSby fun x => { x with timeDone := true })

/-- WAIT_EXPIRY (R349): a module with ROLE low has waited SBY_CFG.WAIT × 100 ms for a TIME frame; its start-up goes on without one. -/
def execWaitExpiry (s : State) : Host.Outcome State Fault Refusal :=
  if s.sby.pairenNow && !s.sby.strap && !s.cyc.started && !s.regBit R.FRN_CTRL 0 then .next (s.updSby fun x => { x with waitOver := true })
  else .next s

/-! ### Copies and switch-over (R352, R353, R356, R358, R360) -/

/-- A malformed message on PORT_PAIR is discarded and counted (R52, R348). -/
def pairMalformed (s : State) : State := s.updSby fun x => { x with malformed := x.malformed + 1 }

/-- VOTE (R356): a VOTE frame names the cycle of the active's latest concluded vote; it is a copy block of KIND 0x4, so one that fails a code ends eligibility (R348, R352), and one of another KIND is malformed, as one with a wrong FCS is (R52). -/
def execVote (fcsOk : Bool) (b : CopyBlock) (s : State) : Host.Outcome State Fault Refusal :=
  if !s.sby.pairenNow then .next s
  else if fcsOk = false then .next (pairMalformed s)
  else if blockKind b.body ≠ 4 then .next (pairMalformed (pairHeard s))
  else if blockOk b then .next ((pairHeard s).updSby fun x => { x with vote := some b.cycle })
  else .next (if s.sby.role = .standby then loseElig (pairHeard s) 3 else pairHeard s)

/-- A copy block is received: with the close block every block of its cycle's delta is there where their count is one more than its number, and the standby acknowledges the highest such cycle (R348; that this is a complete delta is DEDUCED, log 68). -/
def receiveBlock (s : State) (b : CopyBlock) : State :=
  let n := if s.sby.rxCycle = b.cycle then s.sby.rxCount + 1 else 1
  let s1 := s.updSby fun x => { x with inbox := x.inbox ++ [b], rxCycle := b.cycle, rxCount := n }
  if isClose b && decide (n = b.number.toNat + 1) then s1.emit (.pairAck b.cycle) else s1

/-- COPY (R352, R354): a standby holds the block for its next snapshot, in which its lanes check and apply it. A full copy that begins while it is eligible follows a delta overrun of the active, and ends eligibility with cause 0x2. A frame with a wrong FCS or a reserved TYPE carries no block: it is discarded and counted (R52, R348). -/
def execCopy (b : Option CopyBlock) (s : State) : Host.Outcome State Fault Refusal :=
  if !s.sby.pairenNow then .next s
  else match b with
    | none => .next (pairMalformed s)
    | some b =>
      if s.sby.role ≠ .standby then .next (pairHeard s)
      else
        let s1 := receiveBlock (pairHeard s) b
        .next (if startsCopy b && blockOk b && s.sby.elig then loseElig s1 2 else s1)

/-- ACK (R348): the highest complete delta cycle that the standby has received. -/
def execAck (cycle : BitVec 48) (s : State) : Host.Outcome State Fault Refusal :=
  if !s.sby.pairenNow then .next s
  else if s.sby.role = .active then .next ((pairHeard s).updSby fun x => { x with acked := some (max (x.acked.getD 0) cycle.toNat) })
  else .next (pairHeard s)

/-- A standby can take an offered handover at this instant (R357). -/
def canTakeOver (s : State) : Bool := s.sby.elig && mshipStatic s && voteHeld s

/-- REFUSE (R360): a standby that cannot take the handover it has been offered refuses it; a module that is not the standby receives the frame. -/
def execRefuse (s : State) : Host.Outcome State Fault Refusal :=
  if !s.sby.pairenNow then .next s
  else if s.sby.role ≠ .standby then .next (sbyEvent (pairHeard s) 5)
  else if s.sby.offered && !canTakeOver s then .next (refuseHandover s)
  else .next s

/-- CPLIMIT (R353): a full copy that has not completed by cycle r + 1 + CPLIMIT (R222) sets cause 0x9, and the active starts a new one, as soon as one may begin; a standby whose full copy has not completed reports the cause. -/
def execCpLimit (s : State) : Host.Outcome State Fault Refusal :=
  let mark (t : State) : State := t.updSby fun x => { x with lost := 9 }
  if !s.sby.pairenNow then .next s
  else if s.sby.role = .active then
    if s.sby.copy = 1 ∧ s.sby.copyStart + 1 + s.sby.cpLimit ≤ s.cyc.cycle then
      .next (if copyWanted s then beginCopy (mark s) else (mark s).updSby fun x => { x with copy := 0 })
    else .next s
  else if s.sby.link && !s.sby.fullDone then .next (mark s)
  else .next s

/-! ### The interlock line (R344) -/

/-- MSHIP_IN_STATIC (R344): no edge for 30 µs. -/
def execMshipInStatic (s : State) : Host.Outcome State Fault Refusal :=
  if s.sby.pairenNow then .next (s.updSby fun x => { x with min := 1 }) else .next s

/-- MSHIP_IN_EDGE (R344): an edge after an interval of 4 µs to 6 µs reads toggling, any other irregular. -/
def execMshipInEdge (intervalNs : Nat) (s : State) : Host.Outcome State Fault Refusal :=
  if s.sby.pairenNow then .next (s.updSby fun x => { x with min := if 4000 ≤ intervalNs ∧ intervalNs ≤ 6000 then 0 else 2 }) else .next s

/-! ### The start of a round (R17, R273, R303, R348) -/

/-- The module's own STATUS (R348). -/
def ownStatus (s : State) : PartnerStatus :=
  { level := BitVec.ofNat 4 s.level.code, role := BitVec.ofNat 2 (roleCode s), elig := s.sby.elig,
    imageId := (s.loam.map (·.imageId)).getD 0, imageVer := (s.loam.map (·.imageVer)).getD 0, hcrc := (s.loam.map (·.hcrc)).getD 0,
    pairfmt := pairFmt s, tcyc := BitVec.ofNat 9 s.cyc.tcyc, cycle := BitVec.ofNat 48 s.cyc.cycle, t0Diff := 0 }

/-- The frames that a paired module sends once per round: STATUS, and TIME where it is the active or its start-up has completed. -/
def pairSends (s : State) : State :=
  if !s.sby.pairenNow then s
  else
    let s1 := s.emit (.pairStatus (ownStatus s))
    if s.sby.role = .active ∨ s.cyc.started = true ∨ startupDone s = true then s1.emit (.pairTime (now1024 s)) else s1

/-- The number of the round that begins (R272, R303): that of the time base where it has passed the last one, else the next. -/
def nextRound (s : State) : Nat := if s.fsn.round < s.cyc.timeBase / 1000 then s.cyc.timeBase / 1000 else s.fsn.round + 1

/-- ROUND_START (R273): the round before ends on the ring and on the standby link, and the new one begins on the field star, on the ring and on the standby link; the rails are sampled (R455). -/
def execRoundStart (s : State) : Host.Outcome State Fault Refusal :=
  let r := nextRound s
  .next (measureRails (pairSends (ringBegin (starRound (ringEnd (pairRound (s.at (1000 * r)))) r))))

end Sys2Proof.Machine
end

