-- ==== Sys2Proof/Machine/Vio.lean ====
section
/-! DEFINITION. The vital field side: supply and monitor (R366), inputs (R367, R368), outputs, their tests and trips (R369 to R373), the isolation link (R374), the common fault (R378), and the IOI's copies of it (R74, R375, R379). -/

namespace Sys2Proof.Machine

/-- The field side changed. -/
def State.updVio (s : State) (f : VioSt → VioSt) : State := { s with vio := f s.vio }

/-- A bit of a 16-bit set. -/
def bit16 (k : Nat) : BitVec 16 := BitVec.ofNat 16 (2 ^ k)

/-- A bit of a 32-bit set. -/
def bit32 (k : Nat) : BitVec 32 := BitVec.ofNat 32 (2 ^ k)

/-! ### The common fault and the outputs (R369, R371, R378) -/

/-- The S2 switches that are closed: those that the latest accepted frame commands with RUN, but none while OV or DOWNERR is present or the field side is in reset, and no tripped one (R366, R369, R372, R373). -/
def VioSt.closing (x : VioSt) : BitVec 16 :=
  if x.run && !x.downErr && !x.ov && !x.inReset then x.cmd &&& ~~~x.ovld else 0

/-- The outputs whose S2 is under test. -/
def VioSt.s2Tested (x : VioSt) : BitVec 16 := x.darkOn &&& x.darkTurn

/-- The field side with its S2 switches as they follow: one that closes during a test of it does so as the test ends (R370). A test of an output that is no longer commanded on has ended. -/
def VioSt.settled (x : VioSt) : VioSt :=
  let on := x.darkOn &&& x.closing &&& x.s2
  let y := { x with darkOn := on }
  { y with s2 := y.closing &&& (~~~y.s2Tested ||| y.s2) }

/-- The common fault bit: some cause is present (R378). -/
def VioSt.cf (x : VioSt) : Bool := x.uv || x.ov || x.otest != 0 || x.itest != 0 || x.ovld != 0 || x.downErr || x.start

/-- Output k carries current, but for a dark test in progress: S1 has the energy of OEk, S2 is closed, and no overvoltage has opened the switches (R366, R369). -/
def outputOn (s : State) (k : Nat) : Bool := energised s k && s.vio.s2.getLsbD k && !s.vio.ov && !s.vio.inReset

/-- PROVEN (R371): the outputs whose readback has the state that it should have, while no cause of the common fault is present: a failed dark test or an overload is one (R378). -/
def VioSt.proven (x : VioSt) : BitVec 16 := if x.cf then 0 else ~~~x.rbBad

/-- STAT of the up frame (R374). -/
def VioSt.stat (x : VioSt) : Nat :=
  b2n x.cf + 2 * b2n x.uv + 4 * b2n x.ov + 8 * b2n (x.otest != 0) + 16 * b2n (x.itest != 0) + 32 * b2n (x.ovld != 0) + 64 * b2n x.downErr

/-- A frame with its CRC-16 (R374). -/
def withCrc (b : Bytes) : Bytes := b ++ beBytes 2 (crc16 b).toNat

/-- The CRC of a frame of n bytes checks. -/
def crcOk (n : Nat) (b : Bytes) : Bool := b.length == n && beBytes 2 (crc16 (b.take (n - 2))).toNat == b.drop (n - 2)

/-- The up frame that the field side sends (R374). -/
def upFrame (x : VioSt) : Bytes :=
  withCrc ([x.seq] ++ beBytes 2 x.fcnt.toNat ++ [BitVec.ofNat 8 x.stat] ++ beBytes 4 x.filt.toNat ++ beBytes 2 x.proven.toNat ++
    [BitVec.ofNat 8 (min 255 (x.mv / 250)), 0])

/-- RUN of the down frame (R374). -/
def runNow (s : State) : Bool := s.level.serves && !isStandby s

/-- The down frame that the IOI sends (R374). -/
def downFrame (s : State) : Bytes := withCrc ([s.vio.ioiSeq, BitVec.ofNat 8 (b2n (runNow s))] ++ beBytes 2 s.vio.ioiCmd.toNat)

/-! ### The isolation link (R373 to R375) -/

/-- The field side accepts a down frame; with the fourth in a row DOWNERR clears. -/
def VioSt.accept (x : VioSt) (b : Bytes) : VioSt :=
  let n := min 4 (x.downOk + 1)
  VioSt.settled { x with seq := b.headD 0, run := bitOf (beAt b 1 1) 0, cmd := BitVec.ofNat 16 (beAt b 2 2), downOk := n, downErr := x.downErr && decide (n < 4) }

/-- The logic side of the isolation link works: out of power-on reset, with the I/O island at work. -/
def linkOpen (s : State) : Bool := !s.power.por && !s.power.ioiLost

/-- DOWN_FRAME (R374): the IOI sends its frame, and the field side receives one; a frame with a wrong CRC is discarded and counted. With the logic side in power-on reset there is none (R373, R473). -/
def execDownFrame (frame : Bytes) (s : State) : Host.Outcome State Fault Refusal :=
  if linkOpen s = false then .next s
  else
    let s1 := (s.emit (.isoDown (downFrame s))).updVio fun x => { x with ioiSeq := x.ioiSeq + 1, sentCmd := x.ioiCmd }
    if s.vio.inReset then .next s1
    else .next (s1.updVio fun x => if crcOk 6 frame then x.accept frame else { x with downOk := 0, badDown := x.badDown + 1 })

/-- DOWNERR (R373): no down frame accepted for 100 µs. -/
def execDownErr (s : State) : Host.Outcome State Fault Refusal :=
  if s.vio.inReset then .next s else .next (s.updVio fun x => VioSt.settled { x with downErr := true, downOk := 0 })

/-- The common fault as the IOI holds it: CF of the latest up frame, or a silent link; source 57 follows it, and VIO_CFCNT counts its setting (R74, R257, R378, R379). -/
def holdFault (s : State) (cf : Bool) : State :=
  let s1 := if cf && !s.vio.faulted then s.bump R.VIO_CFCNT 1 else s
  evgLine (s1.updVio fun x => { x with faulted := cf }) 57 cf

/-- The copies that an accepted up frame refreshes, CMD of the latest down frame among them (R74, R379). -/
def copyUp (s : State) (b : Bytes) : State :=
  let stat := beAt b 3 1 % 128
  ((s.setReg R.VIO_STAT (BitVec.ofNat 32 (stat + 128 + 256 * beAt b 10 1))).setReg R.VIO_IN (BitVec.ofNat 32 (beAt b 4 4))).setReg R.VIO_OUT (s.vio.sentCmd.setWidth 32)

/-- The IOI keeps an up frame for the next snapshot: the latest one, and behind one that arrives at the next t0 or later the latest that arrived before it (R20, R375). -/
def keepUp (s : State) (f : VioIn) : State :=
  let early (o : Option VioIn) : Bool := o.any fun g => decide (g.arrival < nextT0 s)
  s.updVio fun x => { x with last := some f, prior := if early (some f) then none else if early x.last then x.last else x.prior, linkSilent := false }

/-- UP_FRAME (R374, R375): the field side sends its frame, and the IOI receives one, at a count of the time base; a frame with a wrong CRC is discarded and counted. A field side in reset sends none (R366, R473). -/
def execUpFrame (f : VioIn) (s : State) : Host.Outcome State Fault Refusal :=
  let s1 := (s.emit (.isoUp (upFrame s.vio))).updVio fun x => { x with fcnt := x.fcnt + 1 }
  if s.vio.inReset then .next s
  else if linkOpen s = false then .next s1
  else if crcOk 14 f.frame then
    let s2 := keepUp (copyUp s1 f.frame) { f with arrival := max s.cyc.timeBase f.arrival }
    .next (holdFault s2 (bitOf (beAt f.frame 3 1) 0))
  else .next (s1.bump R.VIO_CRCCNT 1)

/-- ISOLATION_LINK_SILENT (R74, R379): no valid up frame for 4 refresh periods; the copies stand, LINK reads 0, and the IOI holds the common fault. -/
def execIsolationLinkSilent (s : State) : Host.Outcome State Fault Refusal :=
  .next (holdFault ((s.updVio fun x => { x with linkSilent := true }).clrReg R.VIO_STAT 0x80) true)

/-! ### Supply and monitor (R366) -/

/-- The causes that VFLD has come back from, oldest first: each begins its 100 ms as VFLD comes within its limit, and starts afresh after a break (R366). -/
def VioSt.track (x : VioSt) : VioSt :=
  let back (ov : Bool) : Bool := if ov then x.ov && decide (x.mv < 32500) else x.uv && decide (17500 < x.mv)
  { x with clearing := x.clearing.filter back ++ [false, true].filter fun c => back c && !x.clearing.contains c }

/-- UV sets below 16.5 V, OV above 33.5 V, which opens every switch (R366). -/
def VioSt.judge (x : VioSt) (mv : Nat) : VioSt :=
  VioSt.settled ({ x with mv := mv, uv := x.uv || decide (mv < 16500), ov := x.ov || decide (33500 < mv) } : VioSt).track

/-- The field side in reset: it sends nothing and drives no switch; what it holds of commands, filters and test progress is lost. A trip stands until the management tick (R378). -/
def VioSt.hold (x : VioSt) (mv : Nat) : VioSt :=
  { x with mv := mv, inReset := true, uv := true, clearing := [], downErr := true, downOk := 0, cmd := 0, run := false, s2 := 0, darkOn := 0, filt := 0,
           runs := List.replicate 32 0 }

/-- The field side leaves its reset, with the Start cause set and FCNT at 0; failed tests may clear from now on (R374, R378). -/
def VioSt.leave (x : VioSt) (mv : Nat) : VioSt :=
  { x with mv := mv, inReset := false, start := true, inTested := 0, darkS1 := 0, darkS2 := 0, otMay := x.otest, itMay := x.itest, fcnt := 0, seq := 0,
           rbWant := 0, rbAge := List.replicate 16 0, rbBad := 0 }

/-- A measurement of VFLD: below 12.0 V the field side stops, and in reset it starts again above 14.0 V; otherwise the causes are judged (R366). -/
def VioSt.measure (x : VioSt) (mv : Nat) : VioSt :=
  if mv < 12000 then x.hold mv
  else if x.inReset = false then x.judge mv
  else if 14000 < mv then (x.leave mv).judge mv
  else { x with mv := mv }

/-- VFLD_THRESHOLD (R366): a measurement of VFLD. -/
def execVfldThreshold (mv : BitVec 16) (s : State) : Host.Outcome State Fault Refusal := .next (s.updVio fun x => x.measure mv.toNat)

/-- VFLD_CLEAR (R366): VFLD has stayed for 100 ms without a break within the limit of a cause; the cause that it has come back from first clears. -/
def execVfldClear (s : State) : Host.Outcome State Fault Refusal :=
  match s.vio.clearing with
  | [] => .next s
  | c :: cs => .next (s.updVio fun x => VioSt.settled { x with clearing := cs, uv := x.uv && c, ov := x.ov && !c })

/-- FIELD_SIDE_RESET (R366): below 12.0 V the field side stops; above 14.0 V it starts again. -/
def execFieldSideReset (mv : BitVec 16) (s : State) : Host.Outcome State Fault Refusal :=
  if mv.toNat < 12000 ∨ (14000 < mv.toNat ∧ s.vio.inReset = true) then .next (s.updVio fun x => x.measure mv.toNat) else .next s

/-! ### Inputs (R368) -/

/-- One sample of one input: eight in a row that differ from the filtered state change it. -/
def sampleInput (x : VioSt) (j : Nat) (level : Bool) : VioSt :=
  if x.filt.getLsbD j = level then { x with runs := setAt x.runs j fun _ => 0 }
  else
    let n := x.runs.getD j 0 + 1
    if 8 ≤ n then { x with filt := x.filt ^^^ bit32 j, runs := setAt x.runs j fun _ => 0 } else { x with runs := setAt x.runs j fun _ => n }

/-- The state that each output's readback should have: on where its CMD bit is 1 and OEk carries energy (R371). -/
def readbackWant (s : State) : BitVec 16 :=
  (List.range 16).foldl (fun b k => if s.vio.run && s.vio.cmd.getLsbD k && energised s k then b ||| bit16 k else b) 0

/-- A sample of the readbacks, every 5 µs: 200 µs, 40 samples, are allowed after each change of the wanted state, and a dark test is left out (R370, R371). -/
def VioSt.readbacks (x : VioSt) (want rb : BitVec 16) : VioSt :=
  let moved := want ^^^ x.rbWant
  let age := (List.range 16).map fun k => if moved.getLsbD k then 0 else min 40 (x.rbAge.getD k 0 + 1)
  let judged := (List.range 16).foldl (fun b k => if 40 ≤ age.getD k 0 then b ||| bit16 k else b) 0 &&& ~~~x.darkOn
  { x with rbWant := want, rbAge := age, rbBad := (x.rbBad &&& ~~~judged) ||| ((want ^^^ rb) &&& judged) }

/-- INPUT_SAMPLE (R368, R371): every input is sampled, and the readback of every output; an input's sample during its own test is left out. -/
def execInputSample (levels : BitVec 32) (more : FieldSample) (s : State) : Host.Outcome State Fault Refusal :=
  if s.vio.inReset then .next s
  else .next (s.updVio fun x =>
    ((List.range 32).foldl (fun y j => if more.testing.getLsbD j then y else sampleInput y j (levels.getLsbD j)) x).readbacks (readbackWant s) more.readback)

/-- An input passes its test: a failure that a reset allows to clear clears, and with every input passed since the field-side reset the Start cause clears (R378). -/
def VioSt.inputPass (x : VioSt) (j : Nat) : VioSt :=
  let t := x.inTested ||| bit32 j
  { x with inTested := t, itest := x.itest &&& ~~~(bit32 j &&& x.itMay), itMay := x.itMay &&& ~~~bit32 j, start := x.start && t != 0xFFFFFFFF }

/-- INPUT_TEST (R368): a test that reads on is an input test failure. -/
def execInputTest (j : BitVec 5) (readsOn : Bool) (s : State) : Host.Outcome State Fault Refusal :=
  let k := j.toNat
  if s.vio.inReset then .next s
  else if readsOn then .next (s.updVio fun x => { x with itest := x.itest ||| bit32 k, itMay := x.itMay &&& ~~~bit32 k })
  else .next (s.updVio fun x => x.inputPass k)

/-! ### Output tests and trips (R370, R372) -/

/-- An output passes a dark test of one switch: a failure that a reset allows to clear clears once both switches have passed since (R378). -/
def VioSt.darkPass (x : VioSt) (k : Nat) (s2 : Bool) : VioSt :=
  let d1 := if s2 then x.darkS1 else x.darkS1 ||| bit16 k
  let d2 := if s2 then x.darkS2 ||| bit16 k else x.darkS2
  let ok := bit16 k &&& d1 &&& d2 &&& x.otMay
  { x with darkS1 := d1, darkS2 := d2, otest := x.otest &&& ~~~ok, otMay := x.otMay &&& ~~~ok }

/-- An output fails a dark test: OTEST (R370). -/
def VioSt.darkFail (x : VioSt) (k : Nat) : VioSt :=
  { x with otest := x.otest ||| bit16 k, otMay := x.otMay &&& ~~~bit16 k, darkS1 := x.darkS1 &&& ~~~bit16 k, darkS2 := x.darkS2 &&& ~~~bit16 k }

/-- A dark test ends: its outcome counts for the switch in turn, and the other switch is tested next (R370). -/
def VioSt.darkEnd (x : VioSt) (k : Nat) (fell : Bool) : VioSt :=
  let y := if fell then x.darkPass k (x.darkTurn.getLsbD k) else x.darkFail k
  VioSt.settled { y with darkOn := y.darkOn &&& ~~~bit16 k, darkTurn := y.darkTurn ^^^ bit16 k }

/-- DARK_TEST (R370): the slot of an output that is on opens its switch in turn, S1 and S2 in alternate tests, or the test in progress ends with its readback; one that does not fall is an output test failure. A test that a cleared CMD bit has ended is not counted, and is run again in the output's next slot. -/
def execDarkTest (k : BitVec 4) (ends fell : Bool) (s : State) : Host.Outcome State Fault Refusal :=
  if outputOn s k.toNat = false then .next (s.updVio fun x => { x with darkOn := x.darkOn &&& ~~~bit16 k.toNat })
  else if !ends then .next (s.updVio fun x => { x with darkOn := x.darkOn ||| bit16 k.toNat })
  else if s.vio.darkOn.getLsbD k.toNat then .next (s.updVio fun x => x.darkEnd k.toNat fell)
  else .next s

/-- OVERLOAD (R372): the output is tripped. -/
def execOverload (k : BitVec 4) (s : State) : Host.Outcome State Fault Refusal :=
  if outputOn s k.toNat = false then .next s else .next (s.updVio fun x => VioSt.settled { x with ovld := x.ovld ||| bit16 k.toNat })

/-- The trips release at a management tick (R372). -/
def releaseTrips (s : State) : State := s.updVio fun x => VioSt.settled { x with ovld := 0 }

end Sys2Proof.Machine
end

