-- ==== Sys2Proof/Machine/Live.lean ====
section
/-! DEFINITION. What a read of a register returns (R70 to R72): the stored word, or the view of the module's state that the register shows (R76, R142, R174, R227, R255, R269, R298, R320, R341, R364), and the read shadow of wide values. -/

namespace Sys2Proof.Machine

/-! ### Views, block by block -/

/-- The low and the high word of a wide value, by whether the high one is read. -/
def wordOf (v : Nat) (high : Bool) : Nat := if high then v / 2 ^ 32 % 2 ^ 32 else v % 2 ^ 32

/-- GLB (R76, R77). -/
def liveGLB (s : State) (off v : Nat) : Nat :=
  if off = R.GLB_IMGVER then (match s.upd.booted with | some b => (bankOf s b).version.toNat | none => 0)
  else if off = R.GLB_LCS then s.lcs + 256 * b2n (s.upd.booted == some true)
  else if off = R.GLB_SVCLVL then
    s.level.code + 16 * s.prevLevel.code + 256 * s.sieve.agree.toNat + 2 ^ 11 * b2n s.sieve.latch + 2 ^ 12 * s.levelCause.toNat
  else if off = R.GLB_OPTIME_LO then wordOf s.optime false
  else if off = R.GLB_OPTIME_HI then wordOf s.optime true
  else if off = R.GLB_PWRCYC then s.bu.pwrcyc.toNat
  else if off = R.GLB_BUSTAT then b2n s.bu.vbatLost + 2 * b2n s.bu.vbatLow
  else v

/-- HIF (R255). -/
def liveHIF (s : State) (off v : Nat) : Nat :=
  let n := off % 0x1000 / 0x40
  if off = R.HIF_STAT then b2n s.hif.d3hot + 2 * b2n s.hif.l1 + 4 * b2n s.hif.pmeSent + 8 * b2n (!s.hif.held.isEmpty)
  else if off = R.HIF_STAGE then s.hif.staging.length
  else if off = R.HIF_HELD then s.hif.held.length
  else if off = R.HIF_SQ_STAT n then
    (sqAt s n).head + 2 ^ 12 * b2n (sqAt s n).err + 2 ^ 13 * b2n (bitOf v 13) + 2 ^ 16 * (sqAt s n).tail
  else if off = R.HIF_SQ_OUT n then (sqAt s n).out
  else if off = R.HIF_CQ_CTRL n then putFld v 1 1 (b2n (cqAt s n).stopping)
  else if off = R.HIF_CQ_STAT n then
    (cqAt s n).tail + 2 ^ 12 * b2n (cqAt s n).phase + 2 ^ 13 * b2n (cqAt s n).err + 2 ^ 14 * b2n (bitOf v 14) + 2 ^ 16 * (cqAt s n).head
  else if off = R.HIF_CQ_PEND n then min 255 (cqAt s n).unsig + 256 * (cqAt s n).credit
  else v

/-- Bits 32k to 32k + 31 of a set of sources. -/
def evgPart (b : BitVec 128) (k : Nat) : Nat := b.toNat / 2 ^ (32 * k) % 2 ^ 32

/-- A class's STACK register. -/
def stackWord (s : State) (c : EvClass) : Nat :=
  let top := (evgStack s c).head?
  (evgStack s c).length + 16 * ((top.map (evgPrioOf s)).getD 0) + 256 * top.getD 0 + 2 ^ 15 * b2n (evgFlag s c)

/-- EVG (R269). -/
def liveEVG (s : State) (off v : Nat) : Nat :=
  let k := off % 16 / 4
  let fast := s.regN (R.EVG_FAST k)
  let pend := evgPart s.evg.pend k
  if off = R.EVG_RR then s.evg.nlast.toNat + 256 * s.evg.flast.toNat
  else if off = R.EVG_LEVEL k then evgPart evgLevels k
  else if off = R.EVG_ACTIVE k then evgPart s.evg.active k
  else if off = R.EVG_LINE k then evgPart s.evg.line k
  else if off = R.EVG_NPEND k then pend - (pend &&& fast)
  else if off = R.EVG_FPEND k then pend &&& fast
  else if off = R.EVG_NSTACK then stackWord s .normal
  else if off = R.EVG_FSTACK then stackWord s .fast
  else v

/-- CYC (R174). -/
def liveCYC (s : State) (off v : Nat) : Nat :=
  if off = R.CYC_PERIOD then putFld v 16 9 s.cyc.tcyc
  else if off = R.CYC_NUM_LO then wordOf s.cycle false
  else if off = R.CYC_NUM_HI then wordOf s.cycle true
  else if off = R.CYC_T0_LO then wordOf s.cyc.lastT0 false
  else if off = R.CYC_T0_HI then wordOf s.cyc.lastT0 true
  else if off = R.CYC_TB_LO then wordOf s.cyc.timeBase false
  else if off = R.CYC_TB_HI then wordOf s.cyc.timeBase true
  else v

/-- LANE_STATx of a lane. -/
def laneStat (x : LaneSt) : Nat := x.st.code + 16 * x.cause.toNat + 256 * x.chCycle.toNat

/-- LANE (R227). -/
def liveLANE (s : State) (off v : Nat) : Nat :=
  if off = R.LANE_STATA then laneStat s.lanes.a
  else if off = R.LANE_STATB then laneStat s.lanes.b
  else if off = R.LANE_STATC then laneStat s.lanes.c
  else if off = R.LANE_GROUP then
    (memberSet s).toNat + 16 * s.sieve.agree.toNat + 256 * (s.sieve.check.map (·.toNat)).getD 0 + 2 ^ 11 * b2n s.sieve.checkOk
  else v

/-- FSN_NODEINFO of the selected node. -/
def nodeInfo (s : State) : Nat :=
  let k := s.regF R.FSN_NODESEL 0 3
  let p := s.regF R.FSN_NODESEL 3 4
  let n := nodeAt s p k
  let c := (portAt s p).claims.find? fun c => c.node.toNat == k
  n.st.toNat + 8 * min 16 (recent s.fsn.round n.cuts).length + 256 * n.offset.toNat + 2 ^ 16 * (c.map (·.scree.toNat)).getD 0 + 2 ^ 20 * b2n c.isSome

/-- FSN (R298). -/
def liveFSN (s : State) (off v : Nat) : Nat :=
  let p := (off % 0x1000 - 0x100) / 0x20
  let x := portAt s p
  if off = R.FSN_ROUND then s.fsn.round % 2 ^ 32
  else if off = R.FSN_SCHDATA then (cellGet (fun _ => (0 : Word)) (s.regF R.FSN_SCHADDR 0 12) s.fsn.sched).toNat
  else if off = R.FSN_NODEINFO then nodeInfo s
  else if off = R.FSN_P_STAT p then
    (x.nodes.zipIdx.map fun n => n.1.st.toNat * 4 ^ n.2).foldl (· + ·) 0 + 2 ^ 16 * b2n x.linkNow + 2 ^ 17 * b2n x.babble
  else v

/-- FRN (R320). -/
def liveFRN (s : State) (off v : Nat) : Nat :=
  if off = R.FRN_HOLDTIME then (match s.cyc.holdSince with | some t => min 4095 ((s.cyc.timeBase - t) / 1000000) | none => v)
  else v

/-- The oldest frame of the FIFO, by a word of its window (R327). -/
def rxfWord (x : CanSt) (o : Nat) : Nat :=
  match x.fifo with
  | [] => 0
  | f :: _ =>
    if o = 0x300 then f.frame.id.toNat + 2 ^ 29 * b2n f.frame.ide
    else if o = 0x304 then f.frame.dlc.toNat + 16 * b2n f.frame.fdf + 32 * b2n f.frame.brs + 64 * b2n f.frame.esi + 256 * x.fifo.length
    else if o = 0x308 then f.ts.toNat
    else leAt f.frame.data (o - 0x340) 4

/-- CAN (R341): controller k. -/
def liveCAN (s : State) (off v : Nat) : Nat :=
  let k := off / 0x10000 - 8
  let o := off % 0x10000
  let x := canAt s k
  if o = 0x14 then
    min 255 x.tec + 256 * min 255 x.rec0 + 2 ^ 16 * x.st.toNat + 2 ^ 18 * b2n x.ttSync + 2 ^ 19 * b2n x.ttMaster + 2 ^ 20 * b2n (bitOf v 20)
  else if o = 0x408 ∨ o = 0x488 ∨ o = 0x508 then
    let t := x.txb.getD ((o - 0x408) / 0x80) TxSt.reset
    t.res.toNat + 256 * b2n t.rvalid
  else if 0x240 ≤ o ∧ o < 0x290 then (objWord (objAt s k (objSel s k)) ((o - 0x240) / 4)).toNat
  else if 0x300 ≤ o ∧ o < 0x380 then rxfWord x o
  else v

/-- SBY (R364). -/
def liveSBY (s : State) (off v : Nat) : Nat :=
  let x := s.sby
  let d := (x.coffset % (2 ^ 48 : Int)).toNat
  if off = R.SBY_STAT then
    roleCode s + 4 * b2n x.strap + 8 * b2n x.elig + 16 * b2n x.link + 32 * x.min.toNat + 128 * x.copy.toNat + 512 * b2n x.handover.isSome +
      4096 * x.lost.toNat
  else if off = R.SBY_PARTNER then
    (match x.partner with | some p => p.level.toNat + 16 * p.role.toNat + 64 * b2n p.elig + 256 * p.pairfmt.toNat | none => 0)
  else if off = R.SBY_COFFSET_LO then wordOf d false
  else if off = R.SBY_COFFSET_HI then wordOf d true
  else if off = R.SBY_VOTE_LO then wordOf (x.vote.getD 0) false
  else if off = R.SBY_VOTE_HI then wordOf (x.vote.getD 0) true
  else v

/-- The view that a block gives of a stored word. -/
def liveOf (s : State) (off v : Nat) : Nat :=
  if off % 0x10000 < 8 then v
  else match mapBlock off with
    | 0x00 => liveGLB s off v
    | 0x01 => liveHIF s off v
    | 0x02 => liveEVG s off v
    | 0x03 => liveCYC s off v
    | 0x05 => liveLANE s off v
    | 0x06 => liveFSN s off v
    | 0x07 => liveFRN s off v
    | 0x08 => liveCAN s off v
    | 0x0C => liveSBY s off v
    | 0x0E => liveCHK s off v
    | 0x0F => liveREC s off v
    | 0x10 => liveUPD s off v
    | 0x11 => liveKLN s off v
    | 0x12 => livePWR s off v
    | 0x13 => liveDBG s off v
    | _ => v

/-- What a register reads as, its RSVK bits as stored. -/
def liveReg (s : State) (off : Nat) : Word :=
  let k := match rowAt off with | some r => r.rsvk | none => 0
  (BitVec.ofNat 32 (liveOf s off (s.regN off)) &&& ~~~k) ||| (s.reg off &&& k)

/-! ### Access (R50, R62, R64, R69, R70) -/

/-- The plain view of an offset: its block, and its place in any of the four views. -/
def plainOf (off : Nat) : Nat := off / 0x10000 * 0x10000 + off % 0x4000

/-- The view that an offset names: 0 plain, 1 SET, 2 CLR, 3 MASKED. -/
def viewOf (off : Nat) : Nat := off % 0x10000 / 0x4000

/-- The wide values whose two words are read-only: base of the low word, stride, count. -/
def wideRo : List (Nat × Nat × Nat) :=
  [(R.GLB_SERIAL_LO, 0, 1), (R.GLB_OPTIME_LO, 0, 1), (R.CYC_NUM_LO, 0, 1), (R.CYC_T0_LO, 0, 1), (R.CYC_TB_LO, 0, 1), (R.LANE_DIGA_LO, 8, 3),
   (R.SBY_COFFSET_LO, 0, 1), (R.SBY_VOTE_LO, 0, 1), (R.CHKU_RES_LO 0, 0x40, 4), (R.DBG_SIG_LO, 0, 1), (R.DBG_HALTCYC_LO, 0, 1)]

/-- The wide values that can be written. -/
def wideRw : List (Nat × Nat × Nat) :=
  [(R.HIF_SQ_BASE_LO 0, 0x40, 16), (R.HIF_CQ_BASE_LO 0, 0x40, 16), (R.CHKU_ADDR_LO 0, 0x40, 4), (R.CHKU_RUN_LO 0, 0x40, 4), (R.CHKU_EXP_LO 0, 0x40, 4)]

/-- An offset is one of an array's. -/
def inArray (off : Nat) (a : Nat × Nat × Nat) : Bool :=
  (List.range a.2.2).any fun k => off == a.1 + a.2.1 * k

/-- The offset is the low word of a wide value. -/
def isWideLow (off : Nat) : Bool := wideRo.any (inArray off) || wideRw.any (inArray off)

/-- The offset is the low word of a wide value that can be written. -/
def isWideRw (off : Nat) : Bool := wideRw.any (inArray off)

/-- The read shadow of a block for a source (R70). -/
def shadowOf (s : State) (blk : Nat) (src : Src) : Option (Nat × Word) :=
  (s.rdShadow.find? fun x => x.1 == blk && x.2.1 == src).map (·.2.2)

/-- The state with the read shadow of a block for a source replaced. -/
def setShadow (s : State) (blk : Nat) (src : Src) (low : Nat) (w : Word) : State :=
  { s with rdShadow := (blk, src, low, w) :: s.rdShadow.filter fun x => !(x.1 == blk && x.2.1 == src) }

/-- What a read of a word of BAR0 returns where it has no effect of its own, and the shadow it leaves. -/
def readWord (s : State) (src : Src) (off : Nat) : State :=
  let blk := off / 0x10000
  if isWideLow off then { setShadow s blk src off (liveReg s (off + 4)) with lastRead := liveReg s off }
  else if 4 ≤ off ∧ isWideLow (off - 4) = true then
    match shadowOf s blk src with
    | some (low, w) => { s with lastRead := if low + 4 = off then w else liveReg s off }
    | none => { s with lastRead := liveReg s off }
  else { s with lastRead := liveReg s off }

/-- The state that a command leaves. -/
def outState (s : State) : Host.Outcome State Fault Refusal → State
  | .next t => t
  | _ => s

/-- A read of a register: CLAIM, RXF_DATA15 and the object window have effects of their own (R261, R327, R329). -/
def readReg (s : State) (src : Src) (off : Nat) : State :=
  let k := BitVec.ofNat 2 (off / 0x10000 - 8)
  let o := off % 0x10000
  if off = R.EVG_NCLAIM then outState s (execEvgClaim .normal s)
  else if off = R.EVG_FCLAIM then outState s (execEvgClaim .fast s)
  else if mapBlock off = 8 ∧ o = 0x37C then outState s (execRxfData15 k s)
  else if mapBlock off = 8 ∧ 0x240 ≤ o ∧ o < 0x290 then outState s (execObjWindowRead k (BitVec.ofNat 5 ((o - 0x240) / 4)) s)
  else readWord s src off

/-- Identity reads: the registers that PORT_MAINT reads in RETIRED (R50, R404; log 37). -/
def identityOff (off : Nat) : Bool := [R.GLB_DEVICE, R.GLB_REV, R.GLB_SERIAL_LO, R.GLB_SERIAL_HI, R.GLB_IMGVER, R.GLB_LCS].contains off

/-- A read of a register that does something besides: CLAIM, RXF_DATA15 and the window of the message objects (R261, R327, R329). -/
def readActs (off : Nat) : Bool :=
  off == R.EVG_NCLAIM || off == R.EVG_FCLAIM ||
    (mapBlock off == 8 && (off % 0x10000 == 0x37C || (decide (0x240 ≤ off % 0x10000) && decide (off % 0x10000 < 0x290))))

/-- A register can be read through a port: a module that has stopped in RETIRED serves identity reads only (R420), and PORT_MAINT reads identities in RETIRED, and in PROVISIONED and SERVICE the registers whose read does nothing besides (R50, R404; log 37). -/
def readOpen (s : State) (src : Src) (off : Nat) : Bool :=
  (!s.power.retired || identityOff off) && (src == .pcie || (s.lcs != 4 || identityOff off) && ((s.lcs != 1 && s.lcs != 3) || !readActs off))

/-- One aligned 32-bit read of BAR0, through any view (R62 to R64, R69). -/
def busRead (s : State) (src : Src) (off : Nat) : State :=
  let p := plainOf off
  if !readOpen s src p then s
  else if off % 4 ≠ 0 then { s.logAccess off 1 with lastRead := 0 }
  else if (rowAt p).isNone then { s.logAccess off 2 with lastRead := 0 }
  else readReg s src p

/-- A read of a width in bytes: 4, or an aligned 8 as two, the lower address first, whose word `lastLow` keeps; any other returns 0 and is logged (R62). -/
def busReadWide (s : State) (src : Src) (off width : Nat) : State :=
  if width = 4 then busRead s src off
  else if width = 8 ∧ off % 8 = 0 then
    let s1 := busRead s src off
    busRead { s1 with lastLow := s1.lastRead } src (off + 4)
  else if readOpen s src (plainOf off) then { s.logAccess off 1 with lastRead := 0, lastLow := 0 }
  else s

/-- READ_SHADOW (R62, R70): a read of a wide value's word, or of any other register. -/
def execReadShadow (src : Src) (x : RegAccess) (s : State) : Host.Outcome State Fault Refusal :=
  .next (busReadWide s src x.off.toNat x.width)

end Sys2Proof.Machine
end

