-- ==== Sys2Proof/Machine/Voting.lean ====
section
/-! DEFINITION. What arrives at the Sieve from the lanes (R204, R205, R210, R211, R215), the state copy and the limit of a rejoin (R222), and the rotating proof test (R224, R225). -/

namespace Sys2Proof.Machine

/-! ### Digests (R210, R223) -/

/-- A third digest that arrives after the vote has concluded with an agreeing set: one equal to the set's joins it, a differing one is excluded as minority (R210). -/
def lateDigest (s : State) (l : Lane) : State :=
  let s1 := storeDigests s
  if s.sieve.agree = 0 then s1
  else if digestOf s l = s.sieve.value then { s1 with sieve := { s1.sieve with agree := s1.sieve.agree ||| laneBit l } }
  else groupLevel (excludeMinority s1 (laneBit l)) 2

/-- A silent digest that arrives after the vote has concluded is compared with the agreeing set's value (R210, R223). -/
def lateSilent (s : State) : State := if s.sieve.concluded && s.sieve.agree != 0 then judgeSilent s else s

/-- LANE_DIGEST (R210): the first digest of a lane in a cycle, while its rail is low; a member's is voted, a silent lane's is only compared. -/
def execLaneDigest (l : Lane) (d : DWord) (s : State) : Host.Outcome State Fault Refusal :=
  if (s.lanes.get l).rail || (s.sieve.digests.get l).isSome || !chanOpen s (.laneOut l) then .next s
  else
    let s1 := { s with sieve := { s.sieve with digests := s.sieve.digests.set l (some d) } }
    if inSet s.sieve.members l then .next (if s.sieve.concluded then lateDigest s1 l else voteTry s1)
    else if (s.lanes.get l).st = .silent then .next (lateSilent s1)
    else .next s

/-- WITHDRAW_RAIL (R205, R210): the rail rises; from then on the Sieve counts nothing of the lane, which its verdict names among the lanes excluded (R212), and the vote may conclude. -/
def execWithdrawRail (l : Lane) (s : State) : Host.Outcome State Fault Refusal :=
  let s1 := s.updLane l fun x => { x with rail := true }
  let s2 := if inSet s.sieve.members l then { s1 with sieve := { s1.sieve with excluded := s1.sieve.excluded ||| laneBit l } } else s1
  .next (voteTry s2)

/-- LANE_OUTPUT_WORD (R211): a word of a lane with its rail low is held as provisional until the vote of its cycle concludes. -/
def execLaneOutputWord (l : Lane) (w : OutWord) (s : State) : Host.Outcome State Fault Refusal :=
  if (s.lanes.get l).rail || s.sieve.concluded || s.sieve.latch || !inSet s.sieve.members l || !chanOpen s (.laneOut l) then .next s
  else .next { s with sieve := { s.sieve with words := s.sieve.words.set l (s.sieve.words.get l ++ [w]) } }

/-! ### Check words (R215) -/

/-- The members with their rails low whose check words have arrived. -/
def checkedLanes (s : State) : BitVec 3 :=
  setOf ((lanesOf (railLow s s.sieve.members)).filter fun l => (s.sieve.checks.get l).isSome)

/-- The check-word vote over the words that have arrived: it yields a result once two are compared, and the required result gives a keep-clear edge, which arms the hold. -/
def checkVote (s : State) : State :=
  let m := checkedLanes s
  if setSize m < 2 then s
  else
    let res := agreeingWords ((lanesOf m).map fun l => (l, (s.sieve.checks.get l).getD 0))
    let ok := res == requiredCheck m s.cyc.cycle
    { s with sieve := { s.sieve with check := some res, voted := m, checkOk := ok, armed := s.sieve.armed || ok } }

/-- CHECK_WORD (R215): a member's check word, or its latch demand in the word's place; the demand of two members sets the latch. -/
def execCheckWord (l : Lane) (w : DWord) (demand : Bool) (s : State) : Host.Outcome State Fault Refusal :=
  if (s.lanes.get l).rail || !inSet s.sieve.members l || !chanOpen s (.laneOut l) then .next s
  else if demand then
    let s1 := { s with sieve := { s.sieve with demands := s.sieve.demands ||| laneBit l } }
    .next (if 2 ≤ demandCount s1 then setLatch s1 8 else s1)
  else .next (checkVote { s with sieve := { s.sieve with checks := s.sieve.checks.set l (some w) } })

/-- KEEP_CLEAR_LAPSE (R215): an armed hold that is not suspended lapses, and the latch sets. -/
def execKeepClearLapse (s : State) : Host.Outcome State Fault Refusal :=
  if s.sieve.armed && !s.sieve.suspended then .next (setLatch s 8) else .next s

/-! ### The state copy (R222) -/

/-- The copy words that an item stands for at the returning lane: two element words are one copy word, counted with the even index (log 23); a region word is one, and the first region item of a copy brings every word of the regions, a later one those that have changed (R222). -/
def copyWords (x : LaneSt) (seen : Bool) : CopyItem → Nat
  | .elem i _ => if i.getLsbD 0 then 0 else 1
  | .regions r => if seen then regionChanges x.reg r else regionCount
  | .sigma _ => 0
  | .passEnd => 0

/-- The returning lane takes a word that both members have sent alike, an element word with its own constants at epoch r. -/
def takeCopy (r : Nat) (l : Lane) (item : CopyItem) (x : LaneSt) : LaneSt :=
  match item with
  | .elem i w => x.put l i.toNat w r
  | .regions g => { x with reg := g }
  | .sigma w => { x with sigma := w }
  | .passEnd => x

/-- Whether an item carries region words. -/
def isRegions : CopyItem → Bool
  | .regions _ => true
  | _ => false

/-- Words of both queues are compared in pairs: equal ones are taken, a difference ends the rejoin with RESULT 0x3. -/
def matchCopies : List CopyItem → List CopyItem → State → Rejoin → State
  | a :: as, b :: bs, s, r =>
    if a = b then
      let s1 := s.bump R.LANE_COPYWORDS (copyWords (s.lanes.get r.lane) r.gotRegions a)
      matchCopies as bs (s1.updLane r.lane (takeCopy r.r r.lane a)) { r with gotRegions := r.gotRegions || isRegions a }
    else rejoinFail s 3 9
  | as, bs, s, r => { s with group := { s.group with rejoin := some { r with fromA := as, fromB := bs } } }

/-- Whether a sender is the lower-lettered of the members. -/
def isFirstSender (s : State) (l : Lane) : Bool := (lanesOf (memberSet s)).head? == some l

/-- A rejoin with one more item of a sender; the end of its pass is marked. -/
def Rejoin.feed (r : Rejoin) (first : Bool) (item : CopyItem) : Rejoin :=
  match item with
  | .passEnd => { r with ended := r.ended ||| (if first then 1 else 2) }
  | _ => if first then { r with fromA := r.fromA ++ [item] } else { r with fromB := r.fromB ++ [item] }

/-- STATE_COPY (R222): a member's copy word arrives at the returning lane while its copy runs. -/
def execStateCopy (sender : Lane) (item : CopyItem) (s : State) : Host.Outcome State Fault Refusal :=
  match s.group.rejoin with
  | none => .next s
  | some r =>
    if r.step = 2 ∧ (s.lanes.get sender).st = .member ∧ (s.lanes.get sender).running = true ∧ chanOpen s (.inter sender r.lane) = true then
      let r1 := r.feed (isFirstSender s sender) item
      .next (matchCopies r1.fromA r1.fromB s r1)
    else .next s

/-- RJLIMIT (R222): a copy that has not completed by cycle r + 1 + RJLIMIT ends with RESULT 0x4. -/
def execRjLimit (s : State) : Host.Outcome State Fault Refusal :=
  match s.group.rejoin with
  | none => .next s
  | some r => if r.step = 2 ∧ r.r + 1 + r.limit ≤ s.cyc.cycle ∧ copyDone s r s.cyc.cycle = false then .next (rejoinFail s 4 9) else .next s

/-! ### The rotating proof test (R224, R225) -/

/-- The present instant is the boundary of a cycle: t0 has just fallen, and no lane has taken its snapshot. -/
def atBoundary (s : State) : Bool :=
  s.cyc.started && s.cyc.timeBase == s.cyc.lastT0 && !s.cyc.consensusDone && allLanes.all fun l => (s.lanes.get l).snap.isNone

/-- PROOF_TEST (R224): at the first boundary that meets the conditions the next lane in turn is tested; t0 starts the test by itself, and the event at any other instant starts none. A boundary changes the level once (R45), and a latch that the rise of the lane's rail has set stands (R48). -/
def execProofTest (s : State) : Host.Outcome State Fault Refusal :=
  let s1 := carryProof s
  if atBoundary s = true ∧ s.cyc.moved = false ∧ memberSet s1 ≠ memberSet s then
    let s2 := voteTry s1
    .next (if s2.level = .full then changeLevel { s2 with cyc := { s2.cyc with moved := true } } .reduced 3 else s2)
  else .next s

/-- An evaluator that fails its cases is disabled (R197). -/
def proofFailures (s : State) (l : Lane) (fs : List KilnFail) : State :=
  fs.foldl (fun t f =>
    if f.unit.toNat = laneNo l ∧ f.block.toNat ≤ 63 ∧ (f.test = 1 ∨ f.test = 2) ∧ (t.lanes.get l).evalOff = none then disableEval t l f.block.toNat else t) s

/-- PROOF_TEST_COMPLETE (R225): where every test has passed, the lane's rejoin begins with r this cycle; otherwise the lane becomes OUT and RESULT reads failed. -/
def execProofTestComplete (passed : Bool) (testFailed : List KilnFail) (s : State) : Host.Outcome State Fault Refusal :=
  match s.group.proof with
  | none => .next s
  | some l =>
    if passed && testFailed.isEmpty then .next (beginRejoin { s with group := { s.group with proof := none } } l true)
    else .next (proofEnd (proofFailures s l testFailed) 2)

end Sys2Proof.Machine
end

