-- ==== Sys2Proof/Machine/Registers.lean ====
section
/-! DEFINITION. Writes to BAR0: the views and access codes (R6, R64 to R66), reserved bits and encodings (R7, R68), unassigned offsets (R69), the write shadow (R71), posted writes (R73), what each register's write does in its block, CLRCNT (R144), and the commands of the table that are such writes. -/

namespace Sys2Proof.Machine

/-! ### CLRCNT (R144) -/

/-- Registers set to 0. -/
def clearAll (s : State) (l : List Nat) : State := l.foldl (fun t o => t.setReg o 0) s

/-- The counters and PEAK values of a block set to 0. -/
def clrBlock (s : State) : ClrBlock → State
  | .rge => clearAll (s.setF R.RGE_WAVES 16 9 0)
      [R.RGE_SETCNT, R.RGE_LOCKCNT, R.RGE_UNSETCNT, R.RGE_RETCNT, R.RGE_EXHCNT, R.RGE_ORPHCNT, R.RGE_ERELCNT]
  | .cyc => clearAll s [R.CYC_WORKPEAK, R.CYC_OVRCNT, R.CYC_SKIPCNT, R.CYC_DEFERCNT]
  | .lane => clearAll s [R.LANE_MSGDROP, R.LANE_EXCNT, R.LANE_RJCNT]
  | .hif => clearAll s [R.HIF_FETCHCNT, R.HIF_CMPLCNT, R.HIF_DISCCNT, R.HIF_RINGERRCNT]
  | .fsn => clearAll s ((List.range 16).flatMap fun p =>
      [R.FSN_P_RXCNT p, R.FSN_P_RXERRCNT p, R.FSN_P_CUTCNT p, R.FSN_P_BABCNT p, R.FSN_P_LATECNT p])
  | .frn => clearAll s ((List.range 4).flatMap fun l => [R.FRN_L_RXCNT l, R.FRN_L_RXERRCNT l, R.FRN_L_CUTCNT l])
  | .can n => clearAll s [R.CAN_TXCNT n.toNat, R.CAN_RXCNT n.toNat, R.CAN_ERRCNT n.toNat, R.CAN_DUPCNT n.toNat, R.CAN_VLATECNT n.toNat, R.CAN_VRXERRCNT n.toNat]
  | .sby => clearAll s [R.SBY_SWCNT, R.SBY_LOSTCNT]
  | .vio => clearAll s [R.VIO_CFCNT, R.VIO_CRCCNT]
  | .shale => recClear s
  | .pwr => clearAll s [R.PWR_PFWCNT]

/-! ### What a write does, block by block -/

/-- One write to one register: the word its RW bits make, the RW bits it writes, and the WO bits it writes as 1. -/
structure Wr where
  new : Word
  mask : Word
  wo : Word
deriving DecidableEq, Repr

/-- The register takes the written RW bits. -/
def putRw (s : State) (off : Nat) (w : Wr) : State := s.setReg off ((s.reg off &&& ~~~w.mask) ||| (w.new &&& w.mask))

/-- The state where a WO bit is written as 1. -/
def onBit (s : State) (w : Wr) (n : Nat) (t : State) : State := if w.wo.getLsbD n then t else s

/-- The access log is cleared (R76). -/
def clearLog (s : State) : State := (s.setReg R.GLB_ACCERR 0).setReg R.GLB_ACCCNT 0

/-- BASE and CFG of submission ring n, which are closed while it is enabled (R234). -/
def sqConfig (off n : Nat) : Bool := off == R.HIF_SQ_BASE_LO n || off == R.HIF_SQ_BASE_LO n + 4 || off == R.HIF_SQ_CFG n

/-- BASE and CFG of completion ring n, which are closed while it is enabled or stopping (R234). -/
def cqConfig (off n : Nat) : Bool := off == R.HIF_CQ_BASE_LO n || off == R.HIF_CQ_BASE_LO n + 4 || off == R.HIF_CQ_CFG n

/-- HIF (R233, R234, R239, R254, R255): FETCH = 0 also stops the turn in progress. -/
def wrHIF (s : State) (off : Nat) (w : Wr) : State :=
  let n := off % 0x1000 / 0x40
  if off = R.HIF_CLR then onBit s w 0 (clrBlock s .hif)
  else if off = R.HIF_CTRL then
    let t := putRw s off w
    if t.regBit R.HIF_CTRL 0 then t else { t with hif := { t.hif with turn := none } }
  else if off = R.HIF_SQ_CTRL n then (if w.mask.getLsbD 0 then sqEnable s n (w.new.getLsbD 0) else s)
  else if off = R.HIF_CQ_CTRL n then (if w.mask.getLsbD 0 then cqEnable s n (w.new.getLsbD 0) else s)
  else if off = R.HIF_SQ_STAT n ∨ off = R.HIF_CQ_STAT n then s
  else if sqConfig off n && sqOn s n then s.orReg (R.HIF_SQ_STAT n) 0x2000
  else if cqConfig off n && cqOn s n then s.orReg (R.HIF_CQ_STAT n) 0x4000
  else putRw s off w

/-- EVG (R259, R263, R265, R267). -/
def wrEVG (s : State) (off : Nat) (w : Wr) : State :=
  let k := off % 16 / 4
  if off = R.EVG_SETPEND k then evgSetPendWrite s k w.wo
  else if off = R.EVG_CLRPEND k then evgClrPendWrite s k w.wo
  else if off = R.EVG_FAST k then evgFastWrite s k w.new w.mask
  else if R.EVG_PRIO 0 ≤ off ∧ off ≤ R.EVG_PRIO 15 then evgPrioWrite s ((off - R.EVG_PRIO 0) / 4) w.new w.mask
  else if off = R.EVG_NCOMPLETE then evgCompleteWrite s .normal w.wo
  else if off = R.EVG_FCOMPLETE then evgCompleteWrite s .fast w.wo
  else evgPoll (putRw s off w)

/-- CYC (R145, R174): a T_cyc written in STOPPED is carried by the next snapshot. -/
def wrCYC (s : State) (off : Nat) (w : Wr) : State :=
  let t := putRw s off w
  if off = R.CYC_CTRL then onBit s w 0 (clrBlock s .cyc)
  else if off = R.CYC_PERIOD ∧ s.level = .stopped then { t with cyc := { t.cyc with tcycW := t.regF R.CYC_PERIOD 0 9, tcycLate := true } }
  else t

/-- RGE (R142). -/
def wrRGE (s : State) (off : Nat) (w : Wr) : State := if off = R.RGE_CTRL then onBit s w 0 (clrBlock s .rge) else putRw s off w

/-- LANE (R227): PHASE applies to the next due tick not yet reached. -/
def wrLANE (s : State) (off : Nat) (w : Wr) : State :=
  let t := putRw s off w
  if off = R.LANE_CTRL then onBit s w 0 (clrBlock s .lane)
  else if off = R.LANE_PTCFG ∧ s.regN R.LANE_TICK < s.regN R.LANE_PTDUE then t.setReg R.LANE_PTDUE (BitVec.ofNat 32 (nextPtDue t))
  else t

/-- FSN (R274, R292, R296, R298). -/
def wrFSN (s : State) (off : Nat) (w : Wr) : State :=
  if off = R.FSN_CTRL then fsnCtrlWrite s w.new
  else if off = R.FSN_GCFG then gcfgWrite s w.new w.mask
  else if off = R.FSN_MODE then onBit s w 10 (modeGo s w.wo)
  else if off = R.FSN_SCHDATA then schedWrite s w.new
  else if off = R.FSN_SCHCHK then onBit s w 2 (schedCheck s w.wo)
  else if off = R.FSN_CLR then onBit s w 0 (clrBlock s .fsn)
  else putRw s off w

/-- FRN (R314, R320). -/
def wrFRN (s : State) (off : Nat) (w : Wr) : State :=
  if off = R.FRN_CTRL then frnCtrlWrite s (w.new.getLsbD 0)
  else if off = R.FRN_CFG ∨ off = R.FRN_MEMBERS ∨ off = R.FRN_SCREE then frnCfgWrite s off w.new
  else if off = R.FRN_CLR then onBit s w 0 (clrBlock s .frn)
  else putRw s off w

/-- The registers that R324 closes while EN is 1: bit timing, vital identifiers, time-triggered configuration and filters. -/
def canClosed (o : Nat) : Bool := [0x0C, 0x10, 0x40, 0x44, 0x48, 0x4C, 0x70, 0x74, 0x78].contains o || (decide (0x380 ≤ o) && decide (o < 0x3C0))

/-- CAN (R324, R325, R329 to R331, R341). -/
def wrCAN (s : State) (off : Nat) (w : Wr) : State :=
  let k := off / 0x10000 - 8
  let o := off % 0x10000
  if o = 0x08 then canCtrlWrite s k w.new
  else if canClosed o then canCfgWrite s k off w.new
  else if o = 0x18 then
    let s1 := onBit s w 0 (canRecover s k)
    onBit s1 w 1 (clrBlock s1 (.can (BitVec.ofNat 2 k)))
  else if o = 0x60 then txReqWrite s k w.wo
  else if o = 0x64 then txCanWrite s k w.wo 0
  else if o = 0x68 then objCanWrite (objReqWrite s k w.wo) k w.wo false
  else if o = 0x200 then objSelWrite s k w.new
  else if 0x240 ≤ o ∧ o < 0x290 then objWindowWrite s k ((o - 0x240) / 4) w.new
  else putRw s off w

/-- SBY (R364): SBY_CFG is stored, and takes effect at the next reset. -/
def wrSBY (s : State) (off : Nat) (w : Wr) : State :=
  let t := putRw s off w
  if off = R.SBY_CFG then { t with stored := { t.stored with sbyCfg := t.reg R.SBY_CFG } }
  else if off = R.SBY_CTRL then onBit s w 0 (clrBlock s .sby)
  else t

/-- CHK (R384, R385, R387, R389). -/
def wrCHK (s : State) (off : Nat) (w : Wr) : State :=
  let u := off % 0x100 / 0x40
  if off = R.CHK_CTRL then bgWrite s (w.new.getLsbD 0)
  else if off = R.CHKU_CTRL u then chkCtrlWrite s u w.wo true []
  else if off = R.CHKU_CFG u ∨ (R.CHKU_LEN u ≤ off ∧ off ≤ R.CHKU_EXP_HI u) then chkCfgWrite s u off w.new
  else putRw s off w

/-- REC (R397, R402). -/
def wrREC (s : State) (off : Nat) (w : Wr) : State :=
  if off = R.REC_CTRL then flushWrite s w.wo else putRw s off w

/-- UPD (R407, R423). -/
def wrUPD (s : State) (off : Nat) (w : Wr) : State :=
  if off = R.UPD_LCCMD then lcCmdWrite s w.wo else putRw s off w

/-- KLN (R432, R433): RW and WO fields take effect only from PORT_MAINT in MANUFACTURE or DEVELOPMENT. -/
def wrKLN (s : State) (src : Src) (off : Nat) (w : Wr) : State :=
  if !klnOpen s src then s
  else if off = R.KLN_CMD then klnCmdWrite s w.wo
  else putRw s off w

/-- DBG (R198, R202): EN, HALT, RESUME and STEP and the breakpoints only while debug control is open. -/
def wrDBG (s : State) (src : Src) (off : Nat) (w : Wr) : State :=
  if off = R.DBG_CTRL then
    if !dbgOpen s src then s
    else
      let s1 := if w.mask.getLsbD 0 then dbgEnWrite s (w.new.getLsbD 0) else s
      let s2 := onBit s1 w 1 (dbgHalt s1)
      let s3 := onBit s2 w 2 (dbgResume s2)
      onBit s3 w 3 (dbgStep s3)
  else if off = R.DBG_BRK0 ∨ off = R.DBG_BRK1 then
    (if dbgOpen s src then
      let t := putRw s off w
      if s.dbg.halted then t.onRunning fun _ x => { x with brks := [t.reg R.DBG_BRK0, t.reg R.DBG_BRK1] } else t
     else s)
  else putRw s off w

/-- What a write does in the register's block. -/
def wrReg (s : State) (src : Src) (off : Nat) (w : Wr) : State :=
  if off % 0x10000 < 8 then s
  else match mapBlock off with
    | 0x00 => if off = R.GLB_ACCCNT then onBit s w 16 (clearLog s) else putRw s off w
    | 0x01 => wrHIF s off w
    | 0x02 => wrEVG s off w
    | 0x03 => wrCYC s off w
    | 0x04 => wrRGE s off w
    | 0x05 => wrLANE s off w
    | 0x06 => wrFSN s off w
    | 0x07 => wrFRN s off w
    | 0x08 => wrCAN s off w
    | 0x0C => wrSBY s off w
    | 0x0D => if off = R.VIO_CTRL then onBit s w 0 (clrBlock s .vio) else putRw s off w
    | 0x0E => wrCHK s off w
    | 0x0F => wrREC s off w
    | 0x10 => wrUPD s off w
    | 0x11 => wrKLN s src off w
    | 0x12 => if off = R.PWR_CTRL then onBit s w 0 (clrBlock s .pwr) else putRw s off w
    | _ => wrDBG s src off w

/-! ### One write through a view (R6, R7, R64, R65, R68) -/

/-- The RW bits that a write of v through a view names. -/
def rwMask (r : RegRow) (view : Nat) (v : Word) : Word :=
  match view with
  | 0 => r.rw
  | 1 => v &&& r.rw
  | 2 => v &&& r.rw
  | _ => (v >>> 16) &&& 0xFFFF &&& r.rw

/-- What the named bits take. -/
def rwBits (view : Nat) (v : Word) : Word :=
  match view with
  | 0 => v
  | 1 => 0xFFFFFFFF
  | 2 => 0
  | _ => v

/-- The W1C bits that a write clears: through the plain view and CLR. -/
def w1cMask (r : RegRow) (view : Nat) (v : Word) : Word := if view = 0 ∨ view = 2 then v &&& r.w1c else 0

/-- The bits of a field. -/
def encMask (e : Enc) : Word := BitVec.ofNat 32 ((2 ^ e.width - 1) * 2 ^ e.lsb)

/-- A word holds a reserved encoding in a field. -/
def encBad (e : Enc) (w : Word) : Bool := !e.allowed.any fun a => a.1 ≤ fld w.toNat e.lsb e.width && fld w.toNat e.lsb e.width ≤ a.2

/-- The fields that a write would change to a reserved encoding (R7). -/
def badFields (r : RegRow) (old new : Word) : List Enc := r.enc.filter fun e => encBad e new && (old ^^^ new) &&& encMask e != 0

/-- The write as its register takes it: fields that would hold a reserved encoding keep their value. -/
def wrOf (r : RegRow) (old : Word) (view : Nat) (v : Word) : Wr × Bool :=
  let m := rwMask r view v
  let new := (old &&& ~~~m) ||| (rwBits view v &&& m)
  let bad := (badFields r old new).foldl (fun b e => b ||| encMask e) 0
  let m1 := m &&& ~~~bad
  ({ new := (old &&& ~~~m1) ||| (new &&& m1), mask := m1, wo := if view = 0 then v &&& r.wo else 0 }, bad != 0)

/-- A plain write carries RSVK bits other than the register's (R68). -/
def rsvkChange (s : State) (off : Nat) (r : RegRow) (v : Word) : Bool := (v ^^^ s.reg off) &&& r.rsvk != 0

/-- The write takes effect on its register: W1C bits, an effect of the block, and changed RSVK bits of a plain write; a reserved encoding is logged with cause 0x7, at the offset of its view. -/
def takeWith (eff : State → Wr → State) (s : State) (full : Nat) (r : RegRow) (v : Word) : State :=
  let off := plainOf full
  let view := viewOf full
  let w := wrOf r (liveReg s off) view v
  let s1 := eff (s.clrReg off (w1cMask r view v)) w.1
  let s2 := if view = 0 ∧ rsvkChange s1 off r v = true then s1.setReg off ((s1.reg off &&& ~~~r.rsvk) ||| (v &&& r.rsvk)) else s1
  if w.2 then s2.logAccess full 7 else s2

/-- A write with what it does in the register's block. -/
def takeWrite (s : State) (src : Src) (full : Nat) (r : RegRow) (v : Word) : State :=
  takeWith (fun t w => wrReg t src (plainOf full) w) s full r v

/-! ### Wide and slow registers (R71, R73) -/

/-- The low word held in a block's write shadow. -/
def heldLow (s : State) (blk : Nat) : Option (Nat × Word) := (s.wrShadow.find? fun x => x.1 == blk).map (·.2)

/-- The state with a block's held low word discarded. -/
def dropHeld (s : State) (blk : Nat) : State := { s with wrShadow := s.wrShadow.filter fun x => x.1 != blk }

/-- The state with a low word held. -/
def holdLow (s : State) (blk off : Nat) (v : Word) : State := { dropHeld s blk with wrShadow := (blk, off, v) :: (dropHeld s blk).wrShadow }

/-- A wide value whose write is refused at present (R234, R387, R389): CFGLOST is set at once. -/
def wideRefused (s : State) (off : Nat) : Option State :=
  let n := off % 0x1000 / 0x40
  let u := off % 0x100 / 0x40
  if sqConfig off n && sqOn s n then some (s.orReg (R.HIF_SQ_STAT n) 0x2000)
  else if cqConfig off n && cqOn s n then some (s.orReg (R.HIF_CQ_STAT n) 0x4000)
  else if off / 0x10000 = 0x0E ∧ chkOpen s u = false then some (chkRefuse s u)
  else none

/-- The slow block that a register belongs to, where it holds a field that can be written (R73). -/
def slowOf (off : Nat) (r : RegRow) : Option SlowBlock :=
  if r.slow && (r.rw ||| r.w1c ||| r.wo != 0) then (if off / 0x10000 = 0 then some .glb else some .pwr) else none

/-- The PSTAT register of a slow block. -/
def pstatOf : SlowBlock → Nat
  | .glb => R.PSTAT 0
  | .pwr => R.PSTAT 0x12

/-- A posted write is in progress. -/
def slowBusy (s : State) (b : SlowBlock) : Bool := s.regBit (pstatOf b) 0

/-- A write to a slow register is posted, or lost while BUSY is set (R73). -/
def postWrite (s : State) (b : SlowBlock) (full : Nat) (v : Word) : State :=
  if slowBusy s b then (s.setF (pstatOf b) 1 1 1).logAccess full 6
  else { s.setF (pstatOf b) 0 1 1 with posted := s.posted ++ [(b, full, v)] }

/-! ### The write path -/

/-- Writes from PORT_MAINT are open in MANUFACTURE and DEVELOPMENT (R50, R404). -/
def writeOpen (s : State) (src : Src) : Bool := src == .pcie || s.lcs == 0 || s.lcs == 2

/-- A plain write of one word of a wide value: a low word is held, a high word commits with the held low word (R71). -/
def wideWrite (s : State) (src : Src) (off : Nat) (r : RegRow) (v : Word) : State :=
  let blk := off / 0x10000
  match wideRefused s off with
  | some t => dropHeld t blk
  | none =>
    if isWideRw off then holdLow s blk off v
    else
      let s1 := match heldLow s blk with
        | some (low, w) => if low + 4 = off then (match rowAt low with | some rl => takeWrite (dropHeld s blk) src low rl w | none => s) else dropHeld s blk
        | none => s
      takeWrite s1 src off r v

/-- One aligned 32-bit write to a register. Two points are DESIGN CHOICES (log 77): an alias write to a slow-domain register that has only RO and RSVK fields is logged with cause 0x5, as R65 says of any such register, though R73 logs a write to one only where R68 applies; and a plain write that R68 discards whole, a repeated one to the same low word too, drops a held low word as any other write does. A module that has stopped in RETIRED takes no write (R420); what R68 logs there is logged. -/
def writeTo (s : State) (src : Src) (full : Nat) (r : RegRow) (v : Word) : State :=
  let off := plainOf full
  let view := viewOf full
  let s0 := dropHeld s (off / 0x10000)
  if view ≠ 0 ∧ r.rw ||| r.w1c = 0 then s0.logAccess full 5
  else if view = 3 ∧ r.rsvk &&& 0xFFFF0000 ≠ 0xFFFF0000 then s0.logAccess full 4
  else if view = 0 ∧ rsvkChange s off r v = true ∧ (s.lcs = 3 ∨ s.lcs = 4) then s0.logAccess full 3
  else if s.power.retired then s0
  else match slowOf off r with
    | some b => postWrite s0 b full v
    | none =>
      if view = 0 ∧ (isWideRw off = true ∨ (4 ≤ off ∧ isWideRw (off - 4) = true)) then wideWrite s src off r v
      else match (if isWideRw off || (decide (4 ≤ off) && isWideRw (off - 4)) then wideRefused s0 off else none) with
        | some t => t
        | none => takeWrite s0 src full r v

/-- One 32-bit write of BAR0 (R62, R69). -/
def busWrite (s : State) (src : Src) (full : Nat) (v : Word) : State :=
  if !writeOpen s src then s
  else if full % 4 ≠ 0 then s.logAccess full 1
  else match rowAt (plainOf full) with
    | none => s.logAccess full 2
    | some r => writeTo s src full r v

/-- A write of a width in bytes: 4, or an aligned 8 as two, the lower address first; any other has no effect and is logged (R62). -/
def busWriteWide (s : State) (src : Src) (off width : Nat) (v : DWord) : State :=
  if width = 4 then busWrite s src off (v.setWidth 32)
  else if width = 8 ∧ off % 8 = 0 then busWrite (busWrite s src off (v.setWidth 32)) src (off + 4) (v.extractLsb' 32 32)
  else if writeOpen s src then s.logAccess off 1
  else s

/-- A plain write, with an effect of its own, to a register that is neither wide nor slow: R68, R71 and R420 hold for it as for any write. -/
def ownWrite (eff : State → Wr → State) (s : State) (off : Nat) (v : Word) : State :=
  match rowAt off with
  | none => s.logAccess off 2
  | some r =>
    let s0 := dropHeld s (off / 0x10000)
    if rsvkChange s off r v = true ∧ (s.lcs = 3 ∨ s.lcs = 4) then s0.logAccess off 3
    else if s.power.retired then s0
    else takeWith eff s0 off r v

/-- A plain write from PCIe with what it does in its block. -/
def plainWrite (s : State) (off : Nat) (v : Word) : State := ownWrite (fun t w => wrReg t .pcie off w) s off v

/-! ### The commands -/

/-- CLRCNT: a write of 1 to the block's bit (R71, R144), which a module stopped in RETIRED does not take (R420). -/
def execClrCnt (b : ClrBlock) (s : State) : Host.Outcome State Fault Refusal :=
  .next (if s.power.retired then s else clrBlock (match b with | .hif => dropHeld s 1 | _ => s) b)

/-- REGISTER_WRITE (R6, R62). -/
def execRegisterWrite (src : Src) (off : BitVec 22) (width : Nat) (v : DWord) (s : State) : Host.Outcome State Fault Refusal :=
  .next (busWriteWide s src off.toNat width v)

/-- WRITE_SHADOW (R71): a plain write of a wide value's word. -/
def execWriteShadow (src : Src) (off : BitVec 22) (v : Word) (s : State) : Host.Outcome State Fault Refusal :=
  .next (busWrite s src (plainOf off.toNat) v)

/-- ALIAS_SET (R64, R65). -/
def execAliasSet (src : Src) (off : BitVec 22) (v : Word) (s : State) : Host.Outcome State Fault Refusal :=
  .next (busWrite s src (plainOf off.toNat + 0x4000) v)

/-- ALIAS_CLR (R64, R65). -/
def execAliasClr (src : Src) (off : BitVec 22) (v : Word) (s : State) : Host.Outcome State Fault Refusal :=
  .next (busWrite s src (plainOf off.toNat + 0x8000) v)

/-- ALIAS_MASKED (R64 to R66). -/
def execAliasMasked (src : Src) (off : BitVec 22) (v : Word) (s : State) : Host.Outcome State Fault Refusal :=
  .next (busWrite s src (plainOf off.toNat + 0xC000) v)

/-- POSTED_WRITE (R73): a write to a slow register. -/
def execPostedWrite (src : Src) (off : BitVec 22) (v : Word) (s : State) : Host.Outcome State Fault Refusal :=
  .next (busWrite s src off.toNat v)

/-- What a slow domain does with the write it takes: VBAT_LOST is held in the BU, other registers take it as any write. A reserved encoding (PWR_TEMPCFG.WARN) is thus logged with cause 0x7 as the domain takes the write, and not as the write is made (DESIGN CHOICE, log 77: R73 gives no instant). -/
def takePosted (s : State) (full : Nat) (v : Word) : State :=
  let off := plainOf full
  match rowAt off with
  | none => s
  | some r =>
    let s1 := if off = R.GLB_BUSTAT ∧ w1cMask r (viewOf full) v ≠ 0 then { s with bu := { s.bu with vbatLost := false } } else s
    takeWrite s1 .pcie full r v

/-- POSTED_WRITE_DONE (R73): the slow domain has taken the block's posted write, and BUSY clears. -/
def execPostedWriteDone (b : SlowBlock) (s : State) : Host.Outcome State Fault Refusal :=
  match s.posted.find? fun x => x.1 == b with
  | none => .next s
  | some (_, full, v) =>
    .next (takePosted { s.setF (pstatOf b) 0 1 0 with posted := s.posted.filter fun x => x.1 != b } full v)

/-- GLB_ACCCNT_CLEAR (R76). -/
def execGlbAccCntClear (src : Src) (v : Word) (s : State) : Host.Outcome State Fault Refusal :=
  if writeOpen s src then .next (plainWrite s R.GLB_ACCCNT v) else .next s

/-- HIF_SQ_EN (R233, R254). -/
def execHifSqEn (n : BitVec 4) (v : Word) (s : State) : Host.Outcome State Fault Refusal := .next (plainWrite s (R.HIF_SQ_CTRL n.toNat) v)

/-- HIF_CQ_EN (R254). -/
def execHifCqEn (n : BitVec 4) (v : Word) (s : State) : Host.Outcome State Fault Refusal := .next (plainWrite s (R.HIF_CQ_CTRL n.toNat) v)

/-- EVG_COMPLETE (R263, R264). -/
def execEvgComplete (k : EvClass) (v : Word) (s : State) : Host.Outcome State Fault Refusal :=
  .next (plainWrite s (match k with | .normal => R.EVG_NCOMPLETE | .fast => R.EVG_FCOMPLETE) v)

/-- EVG_SETPEND (R259). -/
def execEvgSetPend (k : BitVec 2) (v : Word) (s : State) : Host.Outcome State Fault Refusal := .next (plainWrite s (R.EVG_SETPEND k.toNat) v)

/-- EVG_CLRPEND (R259). -/
def execEvgClrPend (k : BitVec 2) (v : Word) (s : State) : Host.Outcome State Fault Refusal := .next (plainWrite s (R.EVG_CLRPEND k.toNat) v)

/-- EVG_FAST (R267). -/
def execEvgFast (k : BitVec 2) (v : Word) (s : State) : Host.Outcome State Fault Refusal := .next (plainWrite s (R.EVG_FAST k.toNat) v)

/-- EVG_PRIO (R267). -/
def execEvgPrio (k : BitVec 4) (v : Word) (s : State) : Host.Outcome State Fault Refusal := .next (plainWrite s (R.EVG_PRIO k.toNat) v)

/-- FSN_CTRL_EN (R292). -/
def execFsnCtrlEn (v : Word) (s : State) : Host.Outcome State Fault Refusal := .next (plainWrite s R.FSN_CTRL v)

/-- FSN_SCHCHK_GO (R274). -/
def execFsnSchChkGo (v : Word) (s : State) : Host.Outcome State Fault Refusal := .next (plainWrite s R.FSN_SCHCHK v)

/-- FSN_MODE_GO (R296). -/
def execFsnModeGo (v : Word) (s : State) : Host.Outcome State Fault Refusal := .next (plainWrite s R.FSN_MODE v)

/-- CAN_CTRL_EN (R323, R324). -/
def execCanCtrlEn (n : BitVec 2) (v : Word) (s : State) : Host.Outcome State Fault Refusal := .next (plainWrite s (R.CAN_CTRL n.toNat) v)

/-- TXREQ (R330). -/
def execTxReq (n : BitVec 2) (v : Word) (s : State) : Host.Outcome State Fault Refusal := .next (plainWrite s (R.CAN_TXREQ n.toNat) v)

/-- TXCAN (R331). -/
def execTxCan (n : BitVec 2) (v : Word) (inArbitration : BitVec 3) (s : State) : Host.Outcome State Fault Refusal :=
  .next (ownWrite (fun t w => txCanWrite t n.toNat w.wo inArbitration) s (R.CAN_TXCAN n.toNat) v)

/-- OBJREQ with REQ (R330). -/
def execObjReqReq (n : BitVec 2) (v : Word) (s : State) : Host.Outcome State Fault Refusal :=
  .next (plainWrite s (R.CAN_OBJREQ n.toNat) v)

/-- OBJREQ with CAN (R331), and REQ where the write carries both. -/
def execObjReqCan (n : BitVec 2) (v : Word) (inArbitration : Bool) (s : State) : Host.Outcome State Fault Refusal :=
  .next (ownWrite (fun t w => objCanWrite (objReqWrite t n.toNat w.wo) n.toNat w.wo inArbitration) s (R.CAN_OBJREQ n.toNat) v)

/-- RECOVER (R325, R420). -/
def execRecover (n : BitVec 2) (s : State) : Host.Outcome State Fault Refusal := .next (if s.power.retired then s else canRecover s n.toNat)

/-- OBJSEL (R329). -/
def execObjSel (n : BitVec 2) (v : Word) (s : State) : Host.Outcome State Fault Refusal := .next (plainWrite s (R.CAN_OBJSEL n.toNat) v)

/-- CHK_GO (R384). -/
def execChkGo (u : BitVec 2) (v : Word) (busMaster : Bool) (s : State) : Host.Outcome State Fault Refusal :=
  .next (ownWrite (fun t w => chkCtrlWrite t u.toNat w.wo busMaster []) s (R.CHKU_CTRL u.toNat) v)

/-- CHK_STOP (R385): `read` are the bytes read since the scan stood where its registers name it. -/
def execChkStop (u : BitVec 2) (v : Word) (read : Bytes) (s : State) : Host.Outcome State Fault Refusal :=
  .next (ownWrite (fun t w => chkCtrlWrite t u.toNat w.wo true read) s (R.CHKU_CTRL u.toNat) v)

/-- BGEN: a write of CHK_CTRL (R389). -/
def execBgEn (v : Word) (s : State) : Host.Outcome State Fault Refusal := .next (plainWrite s R.CHK_CTRL v)

/-- FLUSH: a write of REC_CTRL (R397, R402). -/
def execFlush (v : Word) (s : State) : Host.Outcome State Fault Refusal := .next (plainWrite s R.REC_CTRL v)

/-- UPD_LCCMD_GO: a write of UPD_LCCMD (R407). -/
def execUpdLcCmdGo (v : Word) (s : State) : Host.Outcome State Fault Refusal := .next (plainWrite s R.UPD_LCCMD v)

/-- KLN_CMD_RUN: a write of KLN_CMD (R432, R433). -/
def execKlnCmdRun (src : Src) (v : Word) (s : State) : Host.Outcome State Fault Refusal :=
  if writeOpen s src then .next (ownWrite (fun t w => wrReg t src R.KLN_CMD w) s R.KLN_CMD v) else .next s

/-- KILNREG (R431): one word of the KLN block is read or written, in MANUFACTURE or DEVELOPMENT; in any other state the instruction acts as BYPASS. -/
def execKilnReg (dr : BitVec 40) (s : State) : Host.Outcome State Fault Refusal :=
  let off := 0x110000 + 4 * fld dr.toNat 32 7
  if s.lcs ≠ 0 ∧ s.lcs ≠ 2 then .next (tapBypass s (dr.getLsbD 39))
  else if dr.getLsbD 39 then .next (busWrite { s with jtag := { s.jtag with ir := 0x20, dr := dr.setWidth 64 } } .maint off (dr.setWidth 32))
  else
    let s1 := busRead s .maint off
    .next (tapOut s1 0x20 (s1.lastRead.setWidth 64))

end Sys2Proof.Machine
end

