-- ==== Sys2Proof/Machine/Tick.lean ====
section
/-! DEFINITION. The management tick (R17): its count, the time base, Shale's buckets and flush (R395 to R397), output trips (R372), the background scan (R389), and PPS_OUT (R313). -/

namespace Sys2Proof.Machine

/-- The count of the next management tick: the exact multiple of 1,000,000 macroticks after the latest one (R17); a round start or a t0 at that count may have come first. -/
def nextTick (s : State) : Nat := (s.cyc.tick / 1000000 + 1) * 1000000

/-- MANAGEMENT_TICK. -/
def execManagementTick (s : State) : Host.Outcome State Fault Refusal :=
  let t := nextTick s
  let s1 := s.at t
  let s2 := ({ s1 with cyc := { s1.cyc with tick := t, tickOld := s.shale.oldest, tickNew := newest s } }.bump R.LANE_TICK 1).emit .ppsOut
  .next (bgTick (releaseTrips (recTick s2)))

end Sys2Proof.Machine
end

