-- ==== Sys2Proof/Machine/Dispatch.lean ====
section
/-! DEFINITION. The dispatch of the commands: one arm for each row of the table of operations and events. -/

namespace Sys2Proof.Machine

def exec (i : Instr) (s : State) : Host.Outcome State Fault Refusal :=
  match i with
  | .powerUp role addr => Sys2Proof.Machine.execPowerUp role addr s
  | .resetN role addr => Sys2Proof.Machine.execResetN role addr s
  | .railOutOfRange r => Sys2Proof.Machine.execRailOutOfRange r s
  | .laneRailLoss l r => Sys2Proof.Machine.execLaneRailLoss l r s
  | .buThreshold x => Sys2Proof.Machine.execBuThreshold x s
  | .laneThermalTrip l => Sys2Proof.Machine.execLaneThermalTrip l s
  | .ioiThermalTrip => Sys2Proof.Machine.execIoiThermalTrip s
  | .pfwNAsserted => Sys2Proof.Machine.execPfwNAsserted s
  | .pfwNDeasserted => Sys2Proof.Machine.execPfwNDeasserted s
  | .temperatureSample s0 s1 s2 s3 s4 => Sys2Proof.Machine.execTemperatureSample s0 s1 s2 s3 s4 s
  | .laneClockStop l => Sys2Proof.Machine.execLaneClockStop l s
  | .boot read0 read1 readLoam => Sys2Proof.Machine.execBoot read0 read1 readLoam s
  | .kilnStart m => Sys2Proof.Machine.execKilnStart m s
  | .kilnWaitExpiry m => Sys2Proof.Machine.execKilnWaitExpiry m s
  | .kilnComplete fails ms => Sys2Proof.Machine.execKilnComplete fails ms s
  | .klnCmdRun src v => Sys2Proof.Machine.execKlnCmdRun src v s
  | .directRunComplete fails ms => Sys2Proof.Machine.execDirectRunComplete fails ms s
  | .bypass tdi => Sys2Proof.Machine.execBypass tdi s
  | .idcode => Sys2Proof.Machine.execIdcode s
  | .samplePreload captured loaded => Sys2Proof.Machine.execSamplePreload captured loaded s
  | .extest sensed driven => Sys2Proof.Machine.execExtest sensed driven s
  | .kilnReg dr => Sys2Proof.Machine.execKilnReg dr s
  | .elemAcc dr => Sys2Proof.Machine.execElemAcc dr s
  | .managementTick => Sys2Proof.Machine.execManagementTick s
  | .t0 ivA ivB ivC ma mb mc => Sys2Proof.Machine.execT0 ivA ivB ivC ma mb mc s
  | .t0WindowEnd l => Sys2Proof.Machine.execT0WindowEnd l s
  | .snapshot l => Sys2Proof.Machine.execSnapshot l s
  | .snapshotDigest receiver sender d => Sys2Proof.Machine.execSnapshotDigest receiver sender d s
  | .consensusDeadline => Sys2Proof.Machine.execConsensusDeadline s
  | .logic l x => Sys2Proof.Machine.execLogic l x s
  | .timerExpired e => Sys2Proof.Machine.execTimerExpired e s
  | .moveMax e => Sys2Proof.Machine.execMoveMax e s
  | .mismLimit e => Sys2Proof.Machine.execMismLimit e s
  | .propMax l => Sys2Proof.Machine.execPropMax l s
  | .wSteps l => Sys2Proof.Machine.execWSteps l s
  | .searchMax w => Sys2Proof.Machine.execSearchMax w s
  | .waveLife w => Sys2Proof.Machine.execWaveLife w s
  | .confirmWindow => Sys2Proof.Machine.execConfirmWindow s
  | .signatureClose l x => Sys2Proof.Machine.execSignatureClose l x s
  | .outputCommit => Sys2Proof.Machine.execOutputCommit s
  | .housekeeping => Sys2Proof.Machine.execHousekeeping s
  | .ordinaryOverrun l u => Sys2Proof.Machine.execOrdinaryOverrun l u s
  | .privilegedOverrun l u => Sys2Proof.Machine.execPrivilegedOverrun l u s
  | .scrub l r => Sys2Proof.Machine.execScrub l r s
  | .handshakeWord ch toggle payload crc => Sys2Proof.Machine.execHandshakeWord ch toggle payload crc s
  | .ackTimeout ch => Sys2Proof.Machine.execAckTimeout ch s
  | .laneReport l work near => Sys2Proof.Machine.execLaneReport l work near s
  | .laneDigest l d => Sys2Proof.Machine.execLaneDigest l d s
  | .withdrawRail l => Sys2Proof.Machine.execWithdrawRail l s
  | .laneOutputWord l w => Sys2Proof.Machine.execLaneOutputWord l w s
  | .checkWord l w demand => Sys2Proof.Machine.execCheckWord l w demand s
  | .keepClearLapse => Sys2Proof.Machine.execKeepClearLapse s
  | .stateCopy sender item => Sys2Proof.Machine.execStateCopy sender item s
  | .rjLimit => Sys2Proof.Machine.execRjLimit s
  | .proofTest => Sys2Proof.Machine.execProofTest s
  | .proofTestComplete passed testFailed => Sys2Proof.Machine.execProofTestComplete passed testFailed s
  | .routeSet q => Sys2Proof.Machine.execRouteSet q s
  | .routeCancel q => Sys2Proof.Machine.execRouteCancel q s
  | .routeReleaseEmergency q => Sys2Proof.Machine.execRouteReleaseEmergency q s
  | .pointMove q => Sys2Proof.Machine.execPointMove q s
  | .signalRestore q => Sys2Proof.Machine.execSignalRestore q s
  | .elementRead q => Sys2Proof.Machine.execElementRead q s
  | .elementBlockBlock q => Sys2Proof.Machine.execElementBlockBlock q s
  | .elementBlockUnblock q => Sys2Proof.Machine.execElementBlockUnblock q s
  | .elementBlockClear q => Sys2Proof.Machine.execElementBlockClear q s
  | .paramPropose q => Sys2Proof.Machine.execParamPropose q s
  | .paramConfirm q => Sys2Proof.Machine.execParamConfirm q s
  | .recordRead q => Sys2Proof.Machine.execRecordRead q s
  | .updateOpen q => Sys2Proof.Machine.execUpdateOpen q s
  | .updateWrite q data => Sys2Proof.Machine.execUpdateWrite q data s
  | .updateClose q => Sys2Proof.Machine.execUpdateClose q s
  | .updateActivate q => Sys2Proof.Machine.execUpdateActivate q s
  | .updateConfirmHealth q => Sys2Proof.Machine.execUpdateConfirmHealth q s
  | .laneRelease q => Sys2Proof.Machine.execLaneRelease q s
  | .laneRejoin q => Sys2Proof.Machine.execLaneRejoin q s
  | .attest q => Sys2Proof.Machine.execAttest q s
  | .modeRequest q => Sys2Proof.Machine.execModeRequest q s
  | .standbySwitch q => Sys2Proof.Machine.execStandbySwitch q s
  | .reservedOpcode op q => Sys2Proof.Machine.execReservedOpcode op q s
  | .submissionTail n x => Sys2Proof.Machine.execSubmissionTail n x s
  | .completionHead n x => Sys2Proof.Machine.execCompletionHead n x s
  | .fetchTurn => Sys2Proof.Machine.execFetchTurn s
  | .descriptorRead r => Sys2Proof.Machine.execDescriptorRead r s
  | .completionWrite => Sys2Proof.Machine.execCompletionWrite s
  | .modTime n => Sys2Proof.Machine.execModTime n s
  | .hifSqEn n v => Sys2Proof.Machine.execHifSqEn n v s
  | .hifCqEn n v => Sys2Proof.Machine.execHifCqEn n v s
  | .stoppingEnd n => Sys2Proof.Machine.execStoppingEnd n s
  | .functionReset k => Sys2Proof.Machine.execFunctionReset k s
  | .d3Hot p => Sys2Proof.Machine.execD3Hot p s
  | .d0Return => Sys2Proof.Machine.execD0Return s
  | .l1Entry => Sys2Proof.Machine.execL1Entry s
  | .msixUnmask v => Sys2Proof.Machine.execMsixUnmask v s
  | .evgClaim k => Sys2Proof.Machine.execEvgClaim k s
  | .evgComplete k v => Sys2Proof.Machine.execEvgComplete k v s
  | .evgSetPend k v => Sys2Proof.Machine.execEvgSetPend k v s
  | .evgClrPend k v => Sys2Proof.Machine.execEvgClrPend k v s
  | .evgFast k v => Sys2Proof.Machine.execEvgFast k v s
  | .evgPrio k v => Sys2Proof.Machine.execEvgPrio k v s
  | .levelLine src level => Sys2Proof.Machine.execLevelLine src level s
  | .registerWrite src off width v => Sys2Proof.Machine.execRegisterWrite src off width v s
  | .readShadow src x => Sys2Proof.Machine.execReadShadow src x s
  | .writeShadow src off v => Sys2Proof.Machine.execWriteShadow src off v s
  | .aliasSet src off v => Sys2Proof.Machine.execAliasSet src off v s
  | .aliasClr src off v => Sys2Proof.Machine.execAliasClr src off v s
  | .aliasMasked src off v => Sys2Proof.Machine.execAliasMasked src off v s
  | .postedWrite src off v => Sys2Proof.Machine.execPostedWrite src off v s
  | .postedWriteDone b => Sys2Proof.Machine.execPostedWriteDone b s
  | .glbAccCntClear src v => Sys2Proof.Machine.execGlbAccCntClear src v s
  | .clrCnt b => Sys2Proof.Machine.execClrCnt b s
  | .dbgCtrlEn src en => Sys2Proof.Machine.execDbgCtrlEn src en s
  | .halt src => Sys2Proof.Machine.execHalt src s
  | .resume src => Sys2Proof.Machine.execResume src s
  | .stepCmd src => Sys2Proof.Machine.execStepCmd src s
  | .roundStart => Sys2Proof.Machine.execRoundStart s
  | .downlinkSlot p slot => Sys2Proof.Machine.execDownlinkSlot p slot s
  | .etlFFrame p start frame => Sys2Proof.Machine.execEtlFFrame p start frame s
  | .frameCut p start node why => Sys2Proof.Machine.execFrameCut p start node why s
  | .linkLoss p => Sys2Proof.Machine.execLinkLoss p s
  | .linkReturn p => Sys2Proof.Machine.execLinkReturn p s
  | .absentTimeout p node => Sys2Proof.Machine.execAbsentTimeout p node s
  | .startPeriod p node => Sys2Proof.Machine.execStartPeriod p node s
  | .screeRel p scree => Sys2Proof.Machine.execScreeRel p scree s
  | .fsnCtrlEn v => Sys2Proof.Machine.execFsnCtrlEn v s
  | .fsnSchChkGo v => Sys2Proof.Machine.execFsnSchChkGo v s
  | .fsnModeGo v => Sys2Proof.Machine.execFsnModeGo v s
  | .ackTo => Sys2Proof.Machine.execAckTo s
  | .swRound => Sys2Proof.Machine.execSwRound s
  | .etlRFrame link arrival residence frame => Sys2Proof.Machine.execEtlRFrame link arrival residence frame s
  | .origination => Sys2Proof.Machine.execOrigination s
  | .linkFailed link => Sys2Proof.Machine.execLinkFailed link s
  | .linkRestore link => Sys2Proof.Machine.execLinkRestore link s
  | .coldStart => Sys2Proof.Machine.execColdStart s
  | .backoff => Sys2Proof.Machine.execBackoff s
  | .holdover => Sys2Proof.Machine.execHoldover s
  | .holdoverLimit => Sys2Proof.Machine.execHoldoverLimit s
  | .ppsIn at1024 => Sys2Proof.Machine.execPpsIn at1024 s
  | .canCtrlEn n v => Sys2Proof.Machine.execCanCtrlEn n v s
  | .txReq n v => Sys2Proof.Machine.execTxReq n v s
  | .txCan n v inArbitration => Sys2Proof.Machine.execTxCan n v inArbitration s
  | .objReqReq n v => Sys2Proof.Machine.execObjReqReq n v s
  | .objReqCan n v inArbitration => Sys2Proof.Machine.execObjReqCan n v inArbitration s
  | .recover n => Sys2Proof.Machine.execRecover n s
  | .canFrameReceived n ts f => Sys2Proof.Machine.execCanFrameReceived n ts f s
  | .canFrameEnd n e => Sys2Proof.Machine.execCanFrameEnd n e s
  | .busOff n => Sys2Proof.Machine.execBusOff n s
  | .rxfData15 n => Sys2Proof.Machine.execRxfData15 n s
  | .objWindowRead n w => Sys2Proof.Machine.execObjWindowRead n w s
  | .objData15 n => Sys2Proof.Machine.execObjData15 n s
  | .objSel n v => Sys2Proof.Machine.execObjSel n v s
  | .basicCycle n => Sys2Proof.Machine.execBasicCycle n s
  | .ttTrigger n obj => Sys2Proof.Machine.execTtTrigger n obj s
  | .ttMasterTimeout n => Sys2Proof.Machine.execTtMasterTimeout n s
  | .ttErr n => Sys2Proof.Machine.execTtErr n s
  | .status p => Sys2Proof.Machine.execStatus p s
  | .time tb linkDelay startupDone => Sys2Proof.Machine.execTime tb linkDelay startupDone s
  | .vote fcsOk b => Sys2Proof.Machine.execVote fcsOk b s
  | .copy b => Sys2Proof.Machine.execCopy b s
  | .ack cycle => Sys2Proof.Machine.execAck cycle s
  | .refuse => Sys2Proof.Machine.execRefuse s
  | .mshipInStatic => Sys2Proof.Machine.execMshipInStatic s
  | .standbyLinkDown => Sys2Proof.Machine.execStandbyLinkDown s
  | .cpLimit => Sys2Proof.Machine.execCpLimit s
  | .waitExpiry => Sys2Proof.Machine.execWaitExpiry s
  | .downFrame frame => Sys2Proof.Machine.execDownFrame frame s
  | .upFrame f => Sys2Proof.Machine.execUpFrame f s
  | .downErr => Sys2Proof.Machine.execDownErr s
  | .isolationLinkSilent => Sys2Proof.Machine.execIsolationLinkSilent s
  | .vfldThreshold mv => Sys2Proof.Machine.execVfldThreshold mv s
  | .vfldClear => Sys2Proof.Machine.execVfldClear s
  | .fieldSideReset mv => Sys2Proof.Machine.execFieldSideReset mv s
  | .inputTest j readsOn => Sys2Proof.Machine.execInputTest j readsOn s
  | .darkTest k s2 fell => Sys2Proof.Machine.execDarkTest k s2 fell s
  | .overload k => Sys2Proof.Machine.execOverload k s
  | .recordEntry code sev src payload => Sys2Proof.Machine.execRecordEntry code sev src payload s
  | .flush v => Sys2Proof.Machine.execFlush v s
  | .flushComplete => Sys2Proof.Machine.execFlushComplete s
  | .blockErase x => Sys2Proof.Machine.execBlockErase x s
  | .chkGo u v busMaster => Sys2Proof.Machine.execChkGo u v busMaster s
  | .chkStop u v read => Sys2Proof.Machine.execChkStop u v read s
  | .scanComplete u read => Sys2Proof.Machine.execScanComplete u read s
  | .scanReadFailure u read => Sys2Proof.Machine.execScanReadFailure u read s
  | .bgEn v => Sys2Proof.Machine.execBgEn v s
  | .backgroundScan lost0 lost1 => Sys2Proof.Machine.execBackgroundScan lost0 lost1 s
  | .regionErased => Sys2Proof.Machine.execRegionErased s
  | .bytesProgrammed => Sys2Proof.Machine.execBytesProgrammed s
  | .idle => Sys2Proof.Machine.execIdle s
  | .healthWindowEnd => Sys2Proof.Machine.execHealthWindowEnd s
  | .loamLoadChecked readOk => Sys2Proof.Machine.execLoamLoadChecked readOk s
  | .updLcCmdGo v => Sys2Proof.Machine.execUpdLcCmdGo v s
  | .tokenProcessed madeByBoniora => Sys2Proof.Machine.execTokenProcessed madeByBoniora s
  | .flashRefresh r => Sys2Proof.Machine.execFlashRefresh r s
  | .mshipInEdge intervalNs => Sys2Proof.Machine.execMshipInEdge intervalNs s
  | .inputSample levels testing => Sys2Proof.Machine.execInputSample levels testing s
  | .vbatLoss => Sys2Proof.Machine.execVbatLoss s
  | .busOffRecoveryEnd n => Sys2Proof.Machine.execBusOffRecoveryEnd n s
  | .arbitration n won => Sys2Proof.Machine.execArbitration n won s
  | .functionReady => Sys2Proof.Machine.execFunctionReady s
  | .buCrystalStop => Sys2Proof.Machine.execBuCrystalStop s

end Sys2Proof.Machine
end

