-- ==== Sys2Proof/Safety.lean ====
section
/-! DEFINITION. What counts as a safe state, and the terms of the claims: the promises of The Safety Envelope that the state shows, the canonical form of the memories, which commands can reset the module, and what a raise at the Event Gate may touch. -/

namespace Sys2Proof.Machine

/-- With the BEDROCK latch set no energy output carries energy (R48, R214). -/
def LatchSafe (s : State) : Prop := s.sieve.latch = true → ∀ k, energised s k = false

/-- The register file, the image banks and Shale's flash are in canonical form. -/
abbrev MemoryOk (s : State) : Prop :=
  Memory.wf regDefault s.regs = true ∧ Memory.wf erasedByte s.stored.mem0 = true ∧ Memory.wf erasedByte s.stored.mem1 = true ∧
  Memory.wf flashByte s.shale.flash = true

/-- The register file is in canonical form, so that a register reads as it was last written. -/
abbrev RegsOk (s : State) : Prop := Memory.wf regDefault s.regs = true

/-- The commands of which a module reset, or the power-on reset that takes its place, can be the effect: the power and reset rows, the end of a health window, and the t0 that follows a firmware activation (R440). -/
def mayReset (c : Instr) (s : State) : Bool :=
  match c with
  | .powerUp _ _ => true
  | .resetN _ _ => true
  | .railOutOfRange _ => true
  | .ioiThermalTrip => true
  | .healthWindowEnd => windowOver s
  | .t0 _ _ _ _ _ _ => s.upd.activate
  | _ => false

/-- Every register outside a list keeps its stored word. -/
def RegsBut (l : List Nat) (s t : State) : Prop := ∀ off, off ∉ l → t.reg off = s.reg off

/-- Every stored byte that a list of bytes at an address does not cover reads as before. -/
def BytesBut (d : Nat → Byte) (a n : Nat) (m m' : List Host.Cell) : Prop := ∀ b, (b < a ∨ a + n ≤ b) → cellGet d b m' = cellGet d b m

/-- The registers that delivery at the Event Gate counts in (R269). -/
def evgCounters : List Nat := [R.EVG_NDELIVCNT, R.EVG_FDELIVCNT]

/-- What delivery may change (R251, R252, R265, R266): the notify flags, the vectors used last and held, the delivery counters, L1, the PME bits, and what is sent, which is MSI-X messages and a PME at most. -/
def Delivers (s t : State) : Prop :=
  t = { s with
    regs := t.regs, out := t.out,
    evg := { s.evg with nflag := t.evg.nflag, fflag := t.evg.fflag, nlast := t.evg.nlast, flast := t.evg.flast, vecPend := t.evg.vecPend, vecFast := t.evg.vecFast },
    hif := { s.hif with l1 := t.hif.l1, pmeSent := t.hif.pmeSent, pmeStatus := t.hif.pmeStatus } } ∧
  RegsBut evgCounters s t ∧ ∃ l, t.out = s.out ++ l

/-- What leaves of a list of outputs: nothing that the power state silences (R14, R444, R461). -/
def sent (s : State) (l : List Output) : List Output := l.filter fun o => !s.power.silences o

/-- A set of sources with one more. -/
def withSource (b : BitVec 128) (k : Nat) : BitVec 128 := b ||| (1 : BitVec 128) <<< k

/-- A source is raised and delivered: its pending bit sets, and delivery does the rest (R259, R265). -/
def Raises (k : Nat) (s t : State) : Prop := Delivers { s with evg := { s.evg with pend := withSource s.evg.pend k } } t

/-- A block's event bit sets, and its source is raised where its enable bit is 1 (R144). -/
def Reports (evt en bit src : Nat) (s t : State) : Prop :=
  if s.regBit en bit then Raises src (s.orReg evt (BitVec.ofNat 32 (2 ^ bit))) t else t = s.orReg evt (BitVec.ofNat 32 (2 ^ bit))

/-- The vectors whose held message is due under a mask and a function mask. -/
def dueVectors (s : State) (mask : BitVec 16) (fn : Bool) : List Nat := (List.range 16).filter fun v => s.evg.vecPend.getLsbD v && !mask.getLsbD v && !fn

/-- The message of a vector, as its table entry gives it (R231). -/
def vectorMsg (s : State) (v : Nat) : Output := .msix (BitVec.ofNat 4 v) (s.evg.table.getD v (0, 0)).1 (s.evg.table.getD v (0, 0)).2

/-- The masks take a value (R266): every held message that nothing masks any more is sent and counted, in ascending vector; in D3hot it stays held, and sets PME_Status as any message would (R252). -/
def Masks (mask : BitVec 16) (fn : Bool) (s t : State) : Prop :=
  t = { s with regs := t.regs, out := t.out, evg := { s.evg with vecMask := mask, fnMask := fn, vecPend := t.evg.vecPend },
               hif := { s.hif with l1 := t.hif.l1, pmeSent := t.hif.pmeSent, pmeStatus := t.hif.pmeStatus } } ∧ RegsBut evgCounters s t ∧
  (s.hif.d3hot = false → t.out = s.out ++ sent s ((dueVectors s mask fn).map (vectorMsg s)) ∧
    ∀ v : Nat, t.evg.vecPend.getLsbD v = (s.evg.vecPend.getLsbD v && (mask.getLsbD v || fn))) ∧
  (s.hif.d3hot = true → t.evg.vecPend = s.evg.vecPend ∧
    t.out = s.out ++ sent s (if dueVectors s mask fn ≠ [] ∧ s.hif.pmeEn = true ∧ s.hif.pmeSent = false then [.pme] else []))

/-- A ring error: its ring, side and cause are recorded and counted, and its source is raised (R253). -/
def RingError (n side cause : Nat) (s t : State) : Prop :=
  Raises (16 + n) ((s.setReg R.HIF_RINGERR (BitVec.ofNat 32 (n + 16 * side + 256 * cause))).bump R.HIF_RINGERRCNT 1) t

/-- A lane that has been stopped: its controller no longer runs, it drives nothing, and its withdraw rail is raised (R205). -/
def Stopped (x : LaneSt) : Prop := x.running = false ∧ x.rail = true ∧ x.drive = 0

/-- A lane outside the group for a cause (R217). -/
def OutFor (x : LaneSt) (cause : BitVec 4) : Prop := x.st = .out ∧ x.cause = cause ∧ Stopped x

/-- The registers in which a record that is dropped or suppressed is counted, and delivery with it (R395, R397, R403). -/
def recWork : List Nat := [R.REC_DROPCNT, R.REC_SUPPCNT, R.REC_EVT] ++ evgCounters

/-- What stands after a module reset or in power-on reset (R441, R445): the lanes, the Sieve, the level, the cycle, the networks, the rings and every register but the cause, the straps, what the supplies show and the counts of a record are as at reset, and a lane whose die has tripped stays known as such (R454); the stored regions stay, but that of a session is left EMPTY (R414); flash and the records in it stay. -/
def AfterReset (s t : State) : Prop :=
  RegsBut ([R.PWR_RSTCAUSE, R.SBY_CFG, R.FRN_CFG, R.PWR_STAT, R.PWR_VMON 9] ++ recWork) State.reset t ∧
  (∀ l, t.lanes.get l = { LaneSt.reset with hot := (s.lanes.get l).hot }) ∧ t.sieve = State.reset.sieve ∧ t.cyc = State.reset.cyc ∧ t.group = State.reset.group ∧ t.level = .stopped ∧
  t.hif = State.reset.hif ∧ t.upd = State.reset.upd ∧ t.kiln = State.reset.kiln ∧ t.fsn = State.reset.fsn ∧ t.frn = State.reset.frn ∧ t.can = State.reset.can ∧
  t.shale.flash = s.shale.flash ∧ t.shale.flushed = s.shale.flushed ∧ (s.upd.sess = none → t.stored = s.stored) ∧
  ∀ x, s.upd.sess = some x → t.stored = (setBank s x.bank fun b => if x.loam then { b with lstate := 0 } else { b with fstate := 0 }).stored

/-- The straps that the end of a reset samples (R343, R321, R444). -/
def Strapped (role : Bool) (addr : BitVec 6) (s t : State) : Prop :=
  t.regF R.FRN_CFG 0 5 = addr.toNat % 32 ∧ t.reg R.SBY_CFG = s.stored.sbyCfg ∧ t.sby.strap = role

/-- What a fault of a lane for a cause does, by the state the lane stands in (R155, R192, R205, R217, R223, R225): it stops; a member, and a lane in a direct run, leave for the cause; a returning lane leaves and its rejoin ends; a lane under proof test leaves with CAUSE 0x9 and the test ends; a lane outside the group keeps its state. The field side, the time base, the BU and, without a session, the stored regions stay. -/
def LaneFaulted (l : Lane) (cause : BitVec 4) (s t : State) : Prop :=
  Stopped (t.lanes.get l) ∧
  ((s.lanes.get l).st = .member → OutFor (t.lanes.get l) cause) ∧
  ((s.lanes.get l).st = .copy → OutFor (t.lanes.get l) cause) ∧
  (((s.lanes.get l).st = .silent ∨ (s.lanes.get l).st = .copy) → (s.group.rejoin.map (·.lane)) = some l → OutFor (t.lanes.get l) cause ∧ t.group.rejoin = none) ∧
  ((s.lanes.get l).st = .proof → s.group.proof = some l → OutFor (t.lanes.get l) 9 ∧ t.group.proof = none) ∧
  (((s.lanes.get l).st = .out ∨ (s.lanes.get l).st = .dead ∨ (s.lanes.get l).st = .released) → s.group.rejoin = none → s.group.proof = none →
    (t.lanes.get l).st = (s.lanes.get l).st ∧ (t.lanes.get l).cause = (s.lanes.get l).cause) ∧
  t.vio = { s.vio with ioiCmd := t.vio.ioiCmd } ∧ t.cyc = s.cyc ∧ t.bu = s.bu ∧ (s.upd.sess = none → t.stored = s.stored)

/-- What the loss of a lane's supply, die or clock does (R438, R449, R454): as a fault of it, and a direct run of it ends. -/
def LaneLost (l : Lane) (cause : BitVec 4) (s t : State) : Prop := LaneFaulted l cause s t ∧ (s.kiln.direct = some l → t.kiln.direct = none)

/-- A write of v through a view leaves no field that it names at a reserved encoding (R7). -/
def EncOk (s : State) (off : Nat) (r : RegRow) (view : Nat) (v : Word) : Prop :=
  badFields r (liveReg s off) ((liveReg s off &&& ~~~(rwMask r view v)) ||| (rwBits view v &&& rwMask r view v)) = []

/-- A plain write of a command's own row that its register takes whole: the module has not stopped in RETIRED, the block holds no low word, and no reserved bit would change (R7, R68, R71, R420). None of these registers has a W1C bit or a reserved encoding. -/
def CleanWrite (s : State) (off : Nat) (v : Word) : Prop :=
  RegsOk s ∧ s.power.retired = false ∧ heldLow s (off / 0x10000) = none ∧ ∀ r, rowAt off = some r → (v ^^^ s.reg off) &&& r.rsvk = 0

/-- Every lane's state SRAM is in canonical form, so that an element's word reads as it was last written. -/
def SramOk (s : State) : Prop := ∀ l, Memory.wf (spareByte l) (s.lanes.get l).sram = true

/-- Only the lanes that run change, each as a relation says, and nothing outside the lanes changes (R155). -/
def InEachRunning (s t : State) (f : Lane → LaneSt → LaneSt → Prop) : Prop :=
  t = { s with lanes := t.lanes } ∧ ∀ l, if (s.lanes.get l).running then f l (s.lanes.get l) (t.lanes.get l) else t.lanes.get l = s.lanes.get l

/-- A lane's completions of a cycle grow by one (R243, R245). -/
def Answers (s : State) (op : BitVec 16) (q : Req) (status : Nat) (result : Bytes) (x y : LaneSt) : Prop :=
  y.words = x.words ++ [.cmpl (mkCmpl op q status s.cyc.cycle result)]

/-- What a completion may touch of a lane: its words, and the signature that covers them, in the controller's accumulator or in Σ_n (R193, R209). -/
def WordsWork (x y : LaneSt) : Prop := y = { x with words := y.words, units := y.units, sigma := y.sigma }

/-- A request that the module judges completes: every running lane holds its completion, and nothing else of a lane or of the module changes. -/
def Completes (op : BitVec 16) (q : Req) (status : Nat) (result : Bytes) (s t : State) : Prop :=
  InEachRunning s t fun _ x y => Answers s op q status result x y ∧ WordsWork x y

/-- A command of a request answers a next state in which it completes with a status and a RESULT, and nothing else has changed. -/
def Turns (c : Instr) (op : BitVec 16) (q : Req) (status : Nat) (result : Bytes) (s : State) : Prop := ∃ t, exec c s = .next t ∧ Completes op q status result s t

/-- Between commands the controller of a lane that runs has no step in its delay registers (R187, R190). -/
def CtlIdle (s : State) : Prop := ∀ l, (s.lanes.get l).running = true → ((s.lanes.get l).unit ctlUnit).delay = []

/-- A request from PORT_MAINT enters the next snapshot, after the host descriptors, under a number of its own and with the buffer of its write (R412); nothing else changes. -/
def Enters (op : BitVec 16) (q : Req) (data : Bytes) (s t : State) : Prop :=
  t = { s with hif := { s.hif with
    maint := s.hif.maint ++ [(op, { q with seq := ~~~s.hif.maintSeq })], maintSeq := s.hif.maintSeq + 1
    bufs := if op = opWrite then s.hif.bufs ++ [(~~~s.hif.maintSeq, data)] else s.hif.bufs } }

/-- A request turned away by every running lane: its completion, and nothing else. -/
def Refuses (op : BitVec 16) (q : Req) (status : Nat) (s t : State) : Prop := InEachRunning s t fun _ x y => (∃ r, Answers s op q status r x y) ∧ WordsWork x y

/-- The status with which PARAM_PROPOSE and PARAM_CONFIRM are turned away before their own items: MALFORMED, PORT_PRIVILEGE, and the state of the module (R50, R167, R168, R238, R421). -/
def paramFirst (op : BitVec 16) (q : Req) (s : State) : Option Nat :=
  if malformed op q || (s.loam.map fun m => decide (m.elems.length ≤ reqIndex q) || !paramRangeOk (m.elem (reqIndex q)).ty (reqArg q 24 4)).getD false then some stMalformed
  else if q.maint then some stPort
  else if s.upd.recovery then some stState
  else if s.loam.isNone || s.level != .full then some stLevel
  else if (ctxOf s .a).standby then some stState
  else none

/-- The status with which the route engine's requests are turned away before their own items, the first that holds (R50, R138, R238, R359, R421): malformed or naming no element, from PORT_MAINT, in recovery, outside FULL and REDUCED or without an image, at a standby or in a takeover cycle. -/
def engineFirst (op : BitVec 16) (q : Req) (s : State) : Option Nat :=
  if malformed op q || (s.loam.map fun m => decide (m.elems.length ≤ reqIndex q)).getD false then some stMalformed
  else if q.maint then some stPort
  else if s.upd.recovery then some stState
  else if s.loam.isNone || (s.level != .full && s.level != .reduced) then some stLevel
  else if isStandby s || s.sby.takeover == some s.cyc.cycle then some stState
  else none

/-- The host has sent the request, and every running lane holds the image and passes the checks that come first, no lane has found a code fault, and the named element's word loads without one (R138, R181). -/
def Ready (op : BitVec 16) (q : Req) (m : Loam) (s : State) : Prop :=
  q.maint = false ∧ s.loam = some m ∧ reqIndex q < m.elems.length ∧ (∀ l, (s.lanes.get l).cx = none) ∧ CtlIdle s ∧ engineFirst op q s = none ∧ ∀ l, (s.lanes.get l).running = true →
    loadOk (ctxOf s l) m (s.lanes.get l) (reqIndex q) = true

/-- Every word of a running lane's memory, the spare ones with them, loads without a code fault (R180, R181). -/
def LoadsOk (m : Loam) (s : State) : Prop := ∀ l j, (s.lanes.get l).running = true → loadOk (ctxOf s l) m (s.lanes.get l) j = true

/-- What a request on element words may touch of a lane: the words, the dirty map, the signature, the timers it starts, its completions and its report (R98, R190, R193). -/
def ElementWork (x y : LaneSt) : Prop :=
  y = { x with sram := y.sram, reg := { x.reg with dirty := y.reg.dirty }, units := y.units, sigma := y.sigma, timers := y.timers, words := y.words, rpt := y.rpt }

/-- An element's stored word with its check field at the epoch it had (R179); every other element's stored word stays. -/
def Wrote (l : Lane) (i : ElemIx) (v : Info) (x y : LaneSt) : Prop :=
  sramInfo l y.sram i = v ∧ sramCheck l y.sram i = checkField l v (epochOf x i) ∧ ∀ k, k ≠ i → sramWord l y.sram k = sramWord l x.sram k

/-- A request turned away: its completion alone, and the step it has counted. -/
def TurnedAway (s : State) (op : BitVec 16) (q : Req) (status : Nat) (x y : LaneSt) : Prop :=
  (∃ r, Answers s op q status r x y) ∧ y = { x with words := y.words, units := y.units, sigma := y.sigma, rpt := { x.rpt with steps := y.rpt.steps } }

/-- No halt point stops a lane: debug is off in every lane's snapshot, no lane is halted or has just been resumed (R60, R198 to R200). -/
def NoHalt (s : State) : Prop := ∀ l, laneDbg s l = false ∧ (s.lanes.get l).passHalt = false ∧ (s.lanes.get l).dbgHold = false

/-- A t0 at which only what waits on the boundary happens: it falls, no reset takes its place, the vote of the cycle that ends has concluded on a Sieve that is not latched, its status reaches the snapshot, the role stays, no halt point stops a lane, no proof test is due or runs, and no lane finds the t0 early or its clock out (R146, R148, R155, R212, R224). -/
def CalmT0 (ivA ivB ivC : Nat) (ma mb mc : LaneT0) (s : State) : Prop :=
  t0Due s = true ∧ s.upd.activate = false ∧ s.cyc.started = true ∧ s.sieve.concluded = true ∧ s.sieve.latch = false ∧ chanOpen s .agreed = true ∧ s.sby.acting = s.sby.role ∧ NoHalt s ∧
  s.regN R.LANE_TICK < s.regN R.LANE_PTDUE ∧ s.group.proof = none ∧ (∀ iv ∈ [ivA, ivB, ivC], nextT0 s - s.cyc.lastT0 ≤ iv + s.cyc.halted) ∧ ∀ m ∈ [ma, mb, mc], m.ppm.natAbs ≤ 20000

/-- What waits on the next boundary (R44, R173, R219, R220, R432). -/
def Waits (mode : Option Level) (rejoin : Option Rejoin) (release : List (Lane × Req)) (direct : Option Lane) (loam : Option Loam) (s : State) : Prop :=
  s.group.modeTo = mode ∧ s.group.rejoin = rejoin ∧ s.group.release = release ∧ s.group.directLeave = direct ∧ s.loamNext = loam

/-- The group has n members, each with its rail low. -/
def Members (n : Nat) (s : State) : Prop := setSize (memberSet s) = n ∧ ∀ l, (s.lanes.get l).st = .member → (s.lanes.get l).rail = false

/-- A lane has started afresh from the words of R93 in a cycle (R164, R173, R178). -/
def FreshAt (m : Option Loam) (mem n : Nat) (l : Lane) (x : LaneSt) : Prop :=
  x.sram = (m.map fun m => initSram mem l m n).getD [] ∧ x.eOld = n ∧ x.eCur = n ∧ x.stepped = [] ∧ x.inputs = [] ∧ x.outOn = 0 ∧
  x.reg = { Regions.empty with ageCtr := x.reg.ageCtr }

/-- A lane's LOGIC goes on to its next place: it has found no code fault, runs, no halt point stops it, and its snapshot carries no request of the module (R192, R199). -/
def LaneSt.goesOn (x : LaneSt) : Bool :=
  x.cx.isNone && x.working && !x.passHalt && !x.set.dbg && ((x.snap.map (·.descs)).getD []).all fun d => isLaneOp d.1

/-- A part of LOGIC, where the lane goes on. -/
def thenOn (x : LaneSt) (f : LaneSt → LaneSt) : LaneSt := if x.goesOn then f x else x

/-- The strata of a ripple or of the sweep in ascending order, each ending at a place of LOGIC (R99). -/
def strataRun (ctx : LaneSt → Ctx) (m : Loam) (sweep : Bool) (set : List ElemIx) (place : Nat → LogicAt) (x : LaneSt) : LaneSt :=
  (List.range m.strata).foldl (fun y st => thenOn y fun y => { runStratum (ctx y) m sweep set y st with place := place (st + 1) }) x

/-- Propagation (R99): ripples while elements are dirty, at most a number of them. -/
def ripplesRun (ctx : LaneSt → Ctx) (m : Loam) : Nat → Nat → LaneSt → LaneSt
  | 0, _, x => thenOn x fun x => { x with place := .requests }
  | n + 1, k, x => thenOn x fun x =>
    if x.reg.dirty.isEmpty then { x with place := .requests }
    else ripplesRun ctx m n (k + 1) (strataRun ctx m false x.reg.dirty (fun st => .ripple (k + 1) st x.reg.dirty)
      { x with place := .ripple (k + 1) 0 x.reg.dirty, reg := { x.reg with dirty := [] } })

/-- The requests of the snapshot that a condition takes, in their order (R152, R161). -/
def requestsRun (ctx : LaneSt → Ctx) (p : BitVec 16 → Bool) (x : LaneSt) : LaneSt :=
  (((x.snap.map (·.descs)).getD []).filter fun d => p d.1).foldl (fun y d => if y.cx.isSome then y else laneRequest (ctx y) d.1 d.2 y) x

/-- Wave passes, at most a number of them, until the budget is reached or no wave can take a step, and the end of the stage (R108, R110). -/
def passesRun (ctx : LaneSt → Ctx) (m : Loam) : Nat → Nat → LaneSt → LaneSt
  | 0, _, x => x
  | n + 1, k, x => thenOn x fun x =>
    if x.set.wsteps ≤ x.rpt.steps || !x.reg.waves.any live then { stageTerms (endStage x) with place := .sweep 0 }
    else passesRun ctx m n (k + 1) { onePass (ctx x) m x with place := .pass (k + 1) }

/-- The wave stage (R108, R152): the requests on routes and elements, and in FULL and REDUCED the route-map items and the passes; in BEDROCK the sweep is next. -/
def stageRun (ctx : LaneSt → Ctx) (m : Loam) (n : Nat) (x : LaneSt) : LaneSt :=
  thenOn x fun x =>
    let y := requestsRun ctx isRouteOp x
    if (ctx x).level.serves then
      let z := if y.cx.isSome then y else routeItems (ctx x) m y
      passesRun ctx m (n + 1) 0 { (if z.rpt.steps < z.set.wsteps && z.cx.isNone then startPasses (ctx x) m z else z) with place := .pass 0 }
    else { y with place := .sweep 0 }

/-- The full sweep and the reads of the snapshot (R99, R249). -/
def sweepRun (ctx : LaneSt → Ctx) (m : Loam) (x : LaneSt) : LaneSt :=
  thenOn (strataRun ctx m true (List.range m.elems.length) .sweep x) fun y => { requestsRun ctx (· == opRead) y with place := .output }

/-- LOGIC of a lane up to assembly, where no halt point stops it (R152): the changes that wait, the online changes, propagation, the wave stage and the sweep. -/
def logicOf (ctx : LaneSt → Ctx) (m : Loam) (x : LaneSt) : LaneSt :=
  let y := stageRun ctx m x.set.wsteps (ripplesRun ctx m m.propmax 0 (requestsRun ctx isParamOp (logicBegin (ctx x) m x)))
  if y.place = .sweep 0 then sweepRun ctx m y else y

/-- The words of a lane load without a code fault, its memory is canonical, and its controller is idle: what a write of the route engine needs (R181, R190). -/
def CtlReady (c : Ctx) (m : Loam) (x : LaneSt) : Prop :=
  Memory.wf (spareByte c.lane) x.sram = true ∧ x.cx = none ∧ (x.unit ctlUnit).delay = [] ∧ ∀ j, loadOk c m x j = true

/-- Fields of one element's word are written by the route engine, and no other word (R179). -/
def Puts (c : Ctx) (i : ElemIx) (fs : List (Nat × Nat × Nat)) (x y : LaneSt) : Prop := Wrote c.lane i (iputs (infoOf c x i) fs) x y

/-- What a step of a wave or an item of the route map may touch of a lane (R108, R179, R190). -/
def StageWork (x y : LaneSt) : Prop :=
  y = { x with sram := y.sram, reg := { x.reg with dirty := y.reg.dirty, waves := y.reg.waves }, units := y.units, sigma := y.sigma, timers := y.timers, words := y.words, rpt := y.rpt }

/-- A wave has the record v after a step, every other wave keeps its own, and one step is counted (R108, R109). -/
def WaveBecomes (v : Wave) (x y : LaneSt) : Prop :=
  waveOf y v.num.toNat = some v ∧ (∀ k, k ≠ v.num.toNat → waveOf y k = waveOf x k) ∧ y.words = x.words ∧ y.rpt.steps = x.rpt.steps + 1

/-- A wave has ended: its record is FREE, every other wave keeps its own, and its ROUTE_SET has completed, where it is the module's own (R114, R124, R358). -/
def WaveEnds (c : Ctx) (w : Wave) (status : Nat) (x y : LaneSt) : Prop :=
  waveOf y w.num.toNat = none ∧ (∀ k, k ≠ w.num.toNat → waveOf y k = waveOf x k) ∧
  ∃ r, y.words = x.words ++ if w.copied then [] else [.cmpl (mkCmpl opRouteSet w.req status c.cycle r)]

/-- A wave turns back from an element (R116, R117, R123): the first condition of the attempt is kept, and the retreat counts as one. -/
def TurnsBack (w : Wave) (why : RetreatFor) (x y : LaneSt) : Prop :=
  WaveBecomes { w with st := .retreating, retreat := why, flanks := [] } x y ∧ y.sram = x.sram ∧ y.rpt.retCnt = x.rpt.retCnt + 1

/-- A free search on its path examines its next element in a forward step that no limit stops, with legs open to it (R115, R118). -/
def Examines (c : Ctx) (m : Loam) (x : LaneSt) (w : Wave) (leg : Leg) (more : List Leg) : Prop :=
  w.st = .searching ∧ w.flanks = [] ∧ w.part = .path ∧ (rowOf m x w.rte).kind = 1 ∧ w.trail ≠ [] ∧ (w.here ≠ (rowOf m x w.rte).exit ∨ w.inPort ≠ 0) ∧
  openLegs c m x w false = leg :: more ∧ blockedRow m x w (leg :: more) = false ∧ w.fwd < x.set.searchmax

/-- The rule program of an element ends at once, so that its type's table alone stands (R97). -/
def Plain (m : Loam) (e : Elem) : Prop := (programOf m e).headD 0 = 0

/-- STATUS at the end of a step: FAULTED stays, then F, then U, then the block (R82). -/
def statusAfter (w : Info) (u f : Prop) [Decidable u] [Decidable f] : Nat :=
  if ifld w 22 2 = 0 ∨ f then 0 else if u then 1 else if ifld w 21 1 = 1 then 2 else 3

/-- A lane is about to begin a LOGIC that is held, with one request in its snapshot that no lane has come to (R152, R161). -/
def LogicHolds (l : Lane) (op : BitVec 16) (q : Req) (data : Bytes) (s : State) : Prop :=
  NoHalt s ∧ (s.level = .stopped ∨ s.loam = none ∨ s.sby.takeover = some s.cyc.cycle) ∧ consensusOpen s = false ∧
  (s.lanes.get l).running = true ∧ (s.lanes.get l).decided = true ∧ (s.lanes.get l).cx = none ∧ (s.lanes.get l).place = .entry ∧
  (∃ sn, (s.lanes.get l).snap = some sn ∧ sn.descs = [(op, q)]) ∧ s.group.shown = [] ∧ assoc q.seq s.group.judged = none ∧ (assoc q.seq s.hif.bufs).getD [] = data

/-- A request that the snapshot carries completes in LOGIC of every lane with a status and a RESULT. -/
def InLogic (op : BitVec 16) (q : Req) (data : Bytes) (status : Nat) (result : Bytes) (s : State) : Prop :=
  ∀ l, LogicHolds l op q data s → ∃ t, exec (.logic l none) s = .next t ∧ OutWord.cmpl (mkCmpl op q status s.cyc.cycle result) ∈ (t.lanes.get l).words

/-- A request that is judged as a whole completes with a status and a RESULT and does nothing else: one of the host as its command, one of PORT_MAINT in the LOGIC whose snapshot carries it. -/
def Judged (c : Instr) (op : BitVec 16) (q : Req) (data : Bytes) (status : Nat) (result : Bytes) (s : State) : Prop :=
  if q.maint then InLogic op q data status result s else Turns c op q status result s

/-- Every other lane than one stays as it is. -/
def OthersKeep (l : Lane) (s t : State) : Prop := ∀ k, k ≠ l → t.lanes.get k = s.lanes.get k

/-- A lane's full reception of a cycle: it has the snapshot and has ended CONSENSUS. -/
def Decided (s : State) : Prop := ∀ l, (s.lanes.get l).running = true → (s.lanes.get l).snap.isSome = true ∧ (s.lanes.get l).decided = true

/-- The tables of the networks and of the inputs have their full number of entries (R230, R270, R300, R322, R326, R367). -/
abbrev ShapeOk (s : State) : Prop :=
  s.fsn.ports.length = 16 ∧ (∀ x ∈ s.fsn.ports, x.nodes.length = 8) ∧ s.frn.links.length = 4 ∧ s.can.length = 4 ∧ (∀ x ∈ s.can, x.txb.length = 3) ∧
  s.vio.runs.length = 32 ∧ s.hif.sq.length = 16 ∧ s.hif.cq.length = 16

/-- What an event of a network may touch beside its block: registers, the Event Gate and what it sends. -/
def EventWork (s t : State) : Prop := t = { s with regs := t.regs, evg := t.evg, hif := t.hif, out := t.out, fsn := t.fsn, frn := t.frn, can := t.can, free := t.free }

/-- The eligibility of a standby ends with a cause, and its full copy no longer counts (R355); where it was not eligible only the copy is lost. -/
def EligEnds (cause : BitVec 4) (s t : State) : Prop :=
  if s.sby.elig then
    Reports R.SBY_EVT R.SBY_EVTEN 2 56 (({ s with sby := { s.sby with fullIn := false, fullDone := false, elig := false, lost := cause } } : State).bump R.SBY_LOSTCNT 1) t
  else t = { s with sby := { s.sby with fullIn := false, fullDone := false } }

/-- The partner runs the same image and firmware format (R355). -/
def ImageShared (s : State) : Prop :=
  ∃ p m, s.sby.partner = some p ∧ s.loam = some m ∧ p.imageId = m.imageId ∧ p.imageVer = m.imageVer ∧ p.hcrc = m.hcrc ∧ p.pairfmt = pairFmt s

/-- The partner has the same T_cyc, and its t0 lies within 2 µs (R355). -/
def CycleShared (s : State) : Prop := ∃ p, s.sby.partner = some p ∧ p.tcyc.toNat = s.cyc.tcyc ∧ p.t0Diff ≤ 2

/-- The first condition of eligibility that fails, in the order of R355, among those that the module sees itself. -/
def FirstFailing (s : State) (cause : BitVec 4) : Prop :=
  (cause = 1 ∧ s.sby.link = false) ∨ (cause = 4 ∧ s.sby.link = true ∧ ¬ImageShared s) ∨ (cause = 5 ∧ s.sby.link = true ∧ ImageShared s ∧ ¬CycleShared s) ∨
  (cause = 7 ∧ s.sby.link = true ∧ ImageShared s ∧ CycleShared s ∧ s.level ≠ .full ∧ s.level ≠ .reduced)

/-- Eligibility follows its conditions (R355): of a standby it ends at the first that fails, and begins, with its event, once all hold and the full copy has completed. -/
def EligFollows (s t : State) : Prop :=
  (s.sby.role ≠ .standby → t = s) ∧
  (s.sby.role = .standby → ∀ c, FirstFailing s c → if s.sby.elig then EligEnds c s t else t = s) ∧
  (s.sby.role = .standby → (∀ c, ¬FirstFailing s c) →
    if s.sby.fullDone ∧ s.sby.elig = false then Reports R.SBY_EVT R.SBY_EVTEN 1 56 { s with sby := { s.sby with elig := true } } t else t = s)

/-- The rate of the time base is steered against an offset (R310): at most once in a round, by at most ten steps, and it stays within ±1,500. -/
def Steered (off : Int) (s t : State) : Prop :=
  if s.frn.steered = true ∨ off = 0 then t = s
  else
    t = { s with regs := t.regs, frn := { s.frn with steered := true }, free := t.free } ∧ RegsBut [R.FRN_RATE] s t ∧
    (RegsOk s → -1500 ≤ signedReg t R.FRN_RATE 16 ∧ signedReg t R.FRN_RATE 16 ≤ 1500 ∧
      (-1500 ≤ signedReg s R.FRN_RATE 16 → signedReg s R.FRN_RATE 16 ≤ 1500 →
        (signedReg t R.FRN_RATE 16 - signedReg s R.FRN_RATE 16).natAbs ≤ 10 ∧
        (0 < off → signedReg t R.FRN_RATE 16 ≤ signedReg s R.FRN_RATE 16) ∧ (off < 0 → signedReg s R.FRN_RATE 16 ≤ signedReg t R.FRN_RATE 16)))

/-- The time base is loaded directly (R310, R314, R349): the round is that of the new count, and what is measured against the time base moves with it. -/
def TimeLoads (count : Nat) (s t : State) : Prop :=
  t = { s with
    cyc := { s.cyc with timeBase := count, tick := t.cyc.tick, tickSeen := t.cyc.tickSeen }
    fsn := { s.fsn with round := count / 1000, goRound := t.fsn.goRound, ports := t.fsn.ports }
    frn := t.frn, upd := { s.upd with sess := t.upd.sess, trialEnd := t.upd.trialEnd }, power := { s.power with pfwAt := t.power.pfwAt }, sby := { s.sby with lastFrame := t.sby.lastFrame } } ∧
  t.frn = { s.frn with
    links := t.frn.links, lastRef := t.frn.lastRef, lastAny := t.frn.lastAny, enabledAt := t.frn.enabledAt, backoffEnd := t.frn.backoffEnd, sentRound := t.frn.sentRound,
    txTimes := t.frn.txTimes, ppsLast := t.frn.ppsLast }

/-- What the events of one star port may touch: its part of the star, listed registers, the Event Gate and what it sends; no other port. -/
def StarWork (p : Nat) (l : List Nat) (s t : State) : Prop :=
  t = { s with regs := t.regs, evg := t.evg, hif := t.hif, out := t.out, fsn := { s.fsn with ports := t.fsn.ports, swRound := t.fsn.swRound } } ∧
  RegsBut (l ++ [R.FSN_P_EVT p, R.FSN_MODE, R.FSN_SWROUND] ++ evgCounters) s t ∧ ∀ j, j ≠ p → portAt t j = portAt s j

/-- A node once the guardian has measured a start of a frame of a node (R282 to R284): the measured node shows its offset, and whether it started within ACCW. -/
def afterStart (s : State) (p start node j : Nat) : NodeSt :=
  if j ≠ node then nodeAt s p j
  else match measuredSlot s p start node with
    | none => nodeAt s p j
    | some (i, x) =>
      if (startError s start x).natAbs ≤ 8 * accw s then
        { nodeAt s p j with offset := BitVec.ofInt 8 (startError s start x), seenSlots := insertUp i (nodeAt s p j).seenSlots }
      else { nodeAt s p j with offset := BitVec.ofInt 8 (startError s start x), badStart := some s.fsn.round }

/-- A frame of a node is cut (R280, R281, R285): counted and reported, and charged to the owner of the slot in whose window it started, or to the port, where the third in 16 rounds sets BABBLE. -/
def FrameIsCut (p start node : Nat) (s t : State) : Prop :=
  StarWork p [R.FSN_P_CUTCNT p, R.FSN_P_BABCNT p] s t ∧ t.fsn.swRound = s.fsn.swRound ∧ t.reg R.FSN_MODE = s.reg R.FSN_MODE ∧ t.reg R.FSN_SWROUND = s.reg R.FSN_SWROUND ∧
  t.reg (R.FSN_P_CUTCNT p) = s.reg (R.FSN_P_CUTCNT p) + 1 ∧ t.regBit (R.FSN_P_EVT p) 3 = true ∧
  match windowSlot s p start with
  | none =>
    let h := recent s.fsn.round (s.fsn.round :: (portAt s p).babHist)
    t.reg (R.FSN_P_BABCNT p) = s.reg (R.FSN_P_BABCNT p) + 1 ∧ (∀ j < 8, nodeAt t p j = afterStart s p start node j) ∧
    portAt t p = { portAt s p with nodes := (portAt t p).nodes, babHist := h, babble := (portAt s p).babble || decide (3 ≤ h.length) } ∧
    ((portAt s p).babble = false → 3 ≤ h.length → t.regBit (R.FSN_P_EVT p) 2 = true)
  | some (_, x) =>
    t.reg (R.FSN_P_BABCNT p) = s.reg (R.FSN_P_BABCNT p) ∧ portAt t p = { portAt s p with nodes := (portAt t p).nodes } ∧
    ∀ j < 8, nodeAt t p j =
      if slotOwner s p x = some j then { afterStart s p start node j with cuts := recent s.fsn.round (s.fsn.round :: (nodeAt s p j).cuts) } else afterStart s p start node j

/-- Step 3 of a mode switch (R296): a switch that is collected is announced once every node that takes part has acknowledged, for a round LEAD after the present one; anything else leaves it. -/
def Announces (s t : State) : Prop :=
  (modeState s = 1 → allAcked t = true → modeState t = 2 ∧ curMode t = curMode s ∧ t.regF R.FSN_MODE 2 2 = s.regF R.FSN_MODE 2 2 ∧
    t.fsn.swRound = s.fsn.round + s.regF R.FSN_MODECFG 8 4 ∧ t.reg R.FSN_SWROUND = BitVec.ofNat 32 t.fsn.swRound) ∧
  ((modeState s ≠ 1 ∨ allAcked t = false) → t.reg R.FSN_MODE = s.reg R.FSN_MODE ∧ t.fsn.swRound = s.fsn.swRound ∧ t.reg R.FSN_SWROUND = s.reg R.FSN_SWROUND)

/-- What leaves for a frame of the module's own on a ring: the frame with its FCS, by the other port with LOOP set where that ring's port is looped, and nothing where both are (R304, R306). -/
def ringSent (s : State) (start ring type : Nat) (body : Bytes) : List Output :=
  let f := ringFrame s start ring type body
  sent s (if ringLooped s ring = false then [.etlR (BitVec.ofNat 1 ring) (withFcs f)]
    else if ringLooped s (1 - ring) = false then [.etlR (BitVec.ofNat 1 (1 - ring)) (withFcs ((f.headD 0 ||| 4) :: f.drop 1))]
    else [])

/-- A received frame leaves again as R301 says, after whatever events it raised: with HOPS raised by one, a REF also with CORR raised by the link's delay and the residence, its FCS right exactly where it was; a looped port sends it by the other with LOOP set. The module's own frame, one of 80 hops, a probe and a fragment go no further. -/
def RingForwards (l residence : Nat) (b : Bytes) (s t : State) : Prop :=
  let h := ringHdr b
  let r := if l = 1 then 0 else 1
  ∃ pre fw, t.out = s.out ++ pre ++ fw ∧ (∀ x y, Output.etlR x y ∉ pre) ∧
    ((b.length < 36 ∨ (h.src = ownMember s ∧ isStandby s = false) ∨ 79 ≤ h.hops ∨ isProbe h = true) → fw = []) ∧
    (36 ≤ b.length → (h.src ≠ ownMember s ∨ isStandby s = true) → h.hops < 79 → isProbe h = false →
      (ringLooped s r = true → ringLooped s (1 - r) = true → fw = []) ∧
      ∀ x, (ringLooped s r = false ∧ x = r ∨ ringLooped s r = true ∧ ringLooped s (1 - r) = false ∧ x = 1 - r) → ∃ f, fw = sent s [.etlR (BitVec.ofNat 1 x) f] ∧
        f.length = b.length ∧ ringFcsOk f = ringFcsOk b ∧ beAt f 0 1 = (if x = r then beAt b 0 1 else beAt b 0 1 ||| 4) ∧ beAt f 1 1 = beAt b 1 1 ∧
        beAt f 2 1 = h.hops + 1 ∧ (f.drop 3).take 21 = (b.drop 3).take 21 ∧
        beAt f 24 4 = (if h.type = 1 then (h.corr + t.regN (R.FRN_L_DELAY l) + residence) % 2 ^ 32 else h.corr) ∧
        (f.drop 28).take (b.length - 32) = (b.drop 28).take (b.length - 32))

/-- What a frame with a correct FCS leaves of its link (R306, R309), beside what follows from its acceptance: the round it was heard in, unless it is a probe, and of a frame that the neighbour originated the arrival, its ECHO, whether it shows a further arrival of the module's frames, and the link's delay where the two ways of the cable give one. -/
def LinkHears (l arrival : Nat) (b : Bytes) (f : LinkSt → LinkSt) (s t : State) : Prop :=
  let h := ringHdr b
  linkAt t l = f { linkAt s l with
    lastGood := if isProbe h then (linkAt s l).lastGood else s.fsn.round, neigh := if h.hops = 0 then arrival else (linkAt s l).neigh,
    echo := if h.hops = 0 then h.echo else (linkAt s l).echo, echoed := (linkAt s l).echoed || (h.hops == 0 && h.echo != (linkAt s l).echo) } ∧
  (∀ j, j ≠ l → linkAt t j = linkAt s j) ∧ t.regBit (R.FRN_L_STAT l) 0 = true ∧
  t.reg (R.FRN_L_DELAY l) = ((if h.hops = 0 then linkDelay s h arrival else none).map (BitVec.ofNat 32)).getD (s.reg (R.FRN_L_DELAY l))

/-- A frame that its position accepts, and that no copy has served before (R305): counted, kept for the round, and forwarded. A probe is no copy of another frame, and CLAIMs are told apart by their claimants (R307, R315). -/
def RingTakes (l arrival residence : Nat) (b : Bytes) (s t : State) : Prop :=
  LinkHears l arrival b (fun x => { x with probed := true }) s t ∧ RingForwards l residence b s t ∧ t.reg (R.FRN_L_RXCNT l) = s.reg (R.FRN_L_RXCNT l) + 1 ∧
  seenOn t l = frameKey (ringHdr b) :: seenOn s l ∧ t.frn.accepted = (if isProbe (ringHdr b) = true ∨ (ringHdr b).type = 3 then s.frn.accepted else frameKey (ringHdr b) :: s.frn.accepted) ∧
  t.frn.live = s.frn.live ||| (1 : BitVec 32) <<< (ringHdr b).src ∧ t.frn.lastAny = some s.fsn.round

/-- A frame that a receiving link of an enabled ring accepts: a right FCS, of another member, a type that fits its slot, a length that fits the type, and a SRC that counts, not seen on that ring before (R305). -/
def RingAccepts (l : Nat) (b : Bytes) (s : State) : Prop :=
  let h := ringHdr b
  ringOn s = true ∧ receives l = true ∧ ringFcsOk b = true ∧ (h.src ≠ ownMember s ∨ isStandby s = true) ∧ ringTypeFits s h = true ∧ ringLenFits b h = true ∧ srcOk s h = true ∧
  (seenOn s l).contains (frameKey h) = false

/-- A master may grant a Scree number: it is kept as Scree, not granted, and exactly one claimant has asked for it in the round (R315). -/
def canGrant (s : State) (m : Nat) : Prop := isScree s m = true ∧ isGranted s m = false ∧ (s.frn.claims.filter fun c => c.fresh && c.src.toNat == m).length = 1

/-- What the events of one CAN controller may touch: the controller, listed registers, its event bits, the Event Gate and what it sends; no other controller. -/
def CanWork (k : Nat) (l : List Nat) (s t : State) : Prop :=
  t = { s with regs := t.regs, evg := t.evg, hif := t.hif, out := t.out, can := t.can, free := t.free } ∧ RegsBut (l ++ [R.CAN_EVT k] ++ evgCounters) s t ∧
  ∀ j, j ≠ k → canAt t j = canAt s j

/-- The error state of a controller by its counters (ISO 11898-1; log 32): passive from 128 on; bus-off stays (R325). -/
def errState (st : BitVec 2) (tec rec0 : Nat) : BitVec 2 := if st = 2 then 2 else if 128 ≤ tec ∨ 128 ≤ rec0 then 1 else 0

/-- A request that has ended with a result (R330). -/
def endedTx (res : Byte) : TxSt := { pending := false, cancel := false, res := res, rvalid := true }

/-- A request that has begun (R330). -/
def busyTx : TxSt := { pending := true, cancel := false, res := 7, rvalid := true }

/-- What a controller offers for a request. -/
def offerOf : ReqOf → CanTx
  | .buf b => .buf b
  | .obj o => .obj o

/-- The requests that a controller has: three buffers, and its objects. -/
def isReq : ReqOf → Prop
  | .buf b => b < 3
  | .obj _ => True

/-- A frame for one of a controller's requests leaves complete: its identifier, its format, and the data bytes of its data length code (R326, R328). -/
def FrameLeaves (n : BitVec 2) (s : State) (r : ReqOf) (t : State) : Prop :=
  ∀ o ∈ sent s [match r with
    | .buf b => .canFrame n ((s.reg (R.TXB_ID n.toNat b)).setWidth 29) ((s.reg (R.TXB_ID n.toNat b)).getLsbD 29) (s.regBit (R.TXB_CTRL n.toNat b) 4)
        (s.regBit (R.TXB_CTRL n.toNat b) 4 && s.regBit (R.TXB_CTRL n.toNat b) 5)
        ((wordBytes ((List.range 16).map fun w => s.reg (txbData n.toNat b w))).take (dlcLen (s.regF (R.TXB_CTRL n.toNat b) 0 4) (s.regBit (R.TXB_CTRL n.toNat b) 4)))
    | .obj j => .canFrame n ((objAt s n.toNat j).id.setWidth 29) ((objAt s n.toNat j).id.getLsbD 29) (objAt s n.toNat j).fdf ((objAt s n.toNat j).fdf && (objAt s n.toNat j).brs)
        ((wordBytes (objAt s n.toNat j).data).take (dlcLen (objAt s n.toNat j).dlc.toNat (objAt s n.toNat j).fdf))], o ∈ t.out

end Sys2Proof.Machine
end

