-- ==== Sys2Proof/Certificates/Slice0/Obligations.lean ====
section
/-! DEFINITION. The statements for the provers: what the commands of the module do, by the rules of spec/. -/

open Sys2Proof Sys2Proof.Machine

/-! ### The queue, and rules over all commands -/

/-- Taking the front command: a step of a state with a command in front is `exec` of it on the state that holds the rest of the queue. The model's choice for an empty queue (log 16): the block idles. -/
def Obligations.StepRunsTheFrontCommand : Prop :=
  (∀ (c : Instr) (rest : List Instr) (s : State), step { s with pending := c :: rest } = exec c { s with pending := rest }) ∧
  (∀ s : State, s.pending = [] → step s = .next s)

/-- Every command of the table, each of the 199 constructors, completes in every state and with every operand: `exec` of it answers a next state, and no command touches the queue; so a step takes exactly the front command. -/
def Obligations.EveryStepTakesOneCommand : Prop :=
  (∀ (c : Instr) (s : State), ∃ t, exec c s = .next t ∧ t.pending = s.pending) ∧
  ∀ (s : State) (c : Instr) (rest : List Instr), s.pending = c :: rest → ∃ t, step s = .next t ∧ t.pending = rest ∧ exec c { s with pending := rest } = .next t

/-- Every command keeps the register file, the image banks and Shale's flash in canonical form. -/
def Obligations.StepKeepsMemoriesCanonical : Prop :=
  ∀ s t : State, MemoryOk s → step s = .next t → MemoryOk t

/-- The canonical form, the clear latch and the empty queue hold at reset. -/
def Obligations.ResetMeetsTheInvariants : Prop :=
  MemoryOk State.reset ∧ State.reset.sieve.latch = false ∧ LatchSafe State.reset ∧ State.reset.pending = []

/-- Only a module reset clears the BEDROCK latch (R48): whatever command is taken, a set latch stays set, unless the command is one of which a module reset is the effect (R440). While the BEDROCK latch is set no energy output carries energy, in whatever state the lanes and their drive lines stand (R48, R214); with it clear an output carries energy exactly where two counted lanes drive it. -/
def Obligations.LatchHoldsUntilAResetAndGivesNoEnergy : Prop :=
  (∀ (s t : State) (c : Instr) (rest : List Instr), s.pending = c :: rest → mayReset c s = false → s.sieve.latch = true → step s = .next t → t.sieve.latch = true) ∧
  ((∀ s, LatchSafe s) ∧
   ∀ (s : State) (k : Nat), s.sieve.latch = false →
     (energised s k = true ↔ ∃ l m, l ≠ m ∧ (∀ x ∈ [l, m], inSet s.sieve.agree x = true ∧ (s.lanes.get x).rail = false ∧ (s.lanes.get x).drive.getLsbD k = true)))

/-! ### Power, reset and clocks -/

/-- RESET_N and POWER_UP (R437, R440, R441, R445, R451, R452): the lanes, the Sieve, the level, the cycle and every register but the cause, the straps, what the supplies show and what a record counts stand as at reset; the stored regions stay but for that of a session, which is left EMPTY; the BU counts the boot. RESET_N reports cause 2, and in power-on reset it is only remembered. POWER_UP has no effect until every IOI rail is within its range and a tripped die has cooled; then it reports the lowest cause of those that hold and clears them, and VBAT_LOW follows the VBAT that is shown, a free level (the model's choice, log 62); only cause 1 raises GLB_PWRCYC; where the BU has lost its contents its counts restart, the trial ends, the life-cycle state comes from storage and VBAT_LOST is set; where VBAT_LOST is set at a power-up, record 0x0002 is the first, and carries the count that GLB_PWRCYC then reads (R393). -/
def Obligations.ResetLeavesWhatTheRulesKeep : Prop :=
  (∀ (role : Bool) (addr : BitVec 6) (s : State), s.power.por = false → ∃ t, exec (.resetN role addr) s = .next t ∧ AfterReset s t ∧ Strapped role addr s t ∧
    t.reg R.PWR_RSTCAUSE = 2 ∧ t.reg R.PWR_STAT = State.reset.reg R.PWR_STAT ∧ t.reg (R.PWR_VMON 9) = State.reset.reg (R.PWR_VMON 9) ∧
    t.bu = { s.bu with bootcnt := s.bu.bootcnt + 1 } ∧ (s.upd.sess = none → t.shale = s.shale.afterReset) ∧
    t.power = { s.power with addr := addr, pfwAt := 0, booted := false, kilnDone := false, refused := false, retired := false, ioiLost := false }) ∧
  (∀ (role : Bool) (addr : BitVec 6) (s : State), s.power.por = true → exec (.resetN role addr) s = .next { s with power := { s.power with resetN := true } }) ∧
  (∀ (role : Bool) (addr : BitVec 6) (s : State), (s.power.ioiHot = true ∨ ∃ k ∈ [6, 7, 8], railFits k (s.power.rails.getD k 0) = false) → exec (.powerUp role addr) s = .next s) ∧
  (∀ (role : Bool) (addr : BitVec 6) (s : State) (cause : Nat), s.power.ioiHot = false → (∀ k ∈ [6, 7, 8], railFits k (s.power.rails.getD k 0) = true) →
    cause = (if s.power.below = true ∨ (s.power.resetN = false ∧ s.power.railOut = false ∧ s.power.ioiTrip = false) then 1 else if s.power.resetN then 2 else if s.power.railOut then 5 else 6) →
    ∃ t, exec (.powerUp role addr) s = .next t ∧ AfterReset s t ∧ Strapped role addr s t ∧ t.reg R.PWR_RSTCAUSE = BitVec.ofNat 32 cause ∧
    t.power = { s.power with por := false, railOut := false, below := false, ioiTrip := false, resetN := false,
                             addr := addr, pfwAt := 0, booted := false, kilnDone := false, refused := false, retired := false, ioiLost := false } ∧
    (s.bu.valid = true → t.bu = { s.bu with bootcnt := s.bu.bootcnt + 1, onVbat := false, vbatLow := decide ((t.reg (R.PWR_VMON 9)).toNat < 2000),
                                            pwrcyc := if cause = 1 then s.bu.pwrcyc + 1 else s.bu.pwrcyc }) ∧
    (s.bu.valid = false → t.bu = { s.bu with us := 0, tempPeak := 0, trial := none, lcs := s.stored.lcs, valid := true, vbatLost := true, bootcnt := 1, onVbat := false,
                                             vbatLow := decide ((t.reg (R.PWR_VMON 9)).toNat < 2000), pwrcyc := if cause = 1 then 1 else 0 }) ∧
    (s.upd.sess = none →
      if cause = 1 ∧ t.bu.vbatLost = true then ∃ sev : BitVec 3, sev.toNat < 4 ∧
        t.shale.buf = [recordBytes 2 sev.toNat 7 (s.shale.flushed + 1).toNat t.optime t.bu.pwrcyc.toNat []]
      else t.shale = s.shale.afterReset))

/-- The power-on resets (R39, R439, R454): everything that a module reset resets is reset and held so; no lane drives and no energy output carries energy; the level of the rail, or the IOI trip until its die has cooled, is kept for the cause of the reset that follows, and the BU keeps its contents. A reading within the rail's range is its return, and changes nothing but what the monitor shows (R475). A lane whose supply leaves its range or whose die trips is lost with CAUSE 0x5, one whose clock stops with CAUSE 0x3 (R438, R450, R454), in whatever state it stands: it stops, raises its rail and drives nothing; supply and die hold it in reset; a member and a lane in a direct run become OUT with the cause, a returning lane's rejoin and a proof test end (R223, R225), and a lane that is OUT, DEAD or released stays so. The PWR_STAT bit of a lost rail clears, a run of Kiln aborts with WHY 4, or with the lane whose clock stopped (R426), and CYC_PRIV names that lane. The field side, the time base and the BU are untouched, and the stored regions but for that of a session. A reading within the rail's range is its return, which leaves the lane as it is; in power-on reset only the rail and the heat of the die are remembered. -/
def Obligations.PowerOnResetAndLaneLosses : Prop :=
  ((∀ (r : IoiReading) (s : State) (k : Nat), k = (match r.rail with | .vddIo => 6 | .vddq => 7 | .vdd33 => 8) → railFits k r.mv = true →
     ∃ t, exec (.railOutOfRange r) s = .next t ∧ t = { s with regs := t.regs, power := { s.power with rails := setAt s.power.rails k fun _ => r.mv } } ∧ RegsBut [R.PWR_STAT] s t ∧
       (RegsOk s → ∀ j < 9, t.regBit R.PWR_STAT j = railFits j (t.power.rails.getD j 0))) ∧
   (∀ (r : IoiReading) (s : State) (k : Nat), k = (match r.rail with | .vddIo => 6 | .vddq => 7 | .vdd33 => 8) → railFits k r.mv = false →
     ∃ t, exec (.railOutOfRange r) s = .next t ∧ AfterReset s t ∧ (∀ x, energised t x = false) ∧ t.bu = s.bu ∧
     t.power = { s.power with rails := setAt s.power.rails k fun _ => r.mv, por := true, railOut := true,
                              addr := 0, pfwAt := 0, booted := false, kilnDone := false, refused := false, retired := false, ioiLost := false }) ∧
   ∀ s : State, ∃ t, exec .ioiThermalTrip s = .next t ∧ AfterReset s t ∧ (∀ x, energised t x = false) ∧ t.bu = s.bu ∧
     t.power = { s.power with por := true, ioiTrip := true, ioiHot := true,
                              addr := 0, pfwAt := 0, booted := false, kilnDone := false, refused := false, retired := false, ioiLost := false }) ∧
  ((∀ (l : Lane) (r : LaneReading) (s : State) (k : Nat), k = laneNo l + (if r.mem then 3 else 0) → railFits k r.mv = true ∨ s.power.por = true →
     ∃ t, exec (.laneRailLoss l r) s = .next t ∧ t = { s with regs := t.regs, power := { s.power with rails := setAt s.power.rails k fun _ => r.mv } } ∧ RegsBut [R.PWR_STAT] s t ∧
       (RegsOk s → ∀ j < 9, t.regBit R.PWR_STAT j = railFits j (t.power.rails.getD j 0))) ∧
   (∀ (l : Lane) (r : LaneReading) (s : State) (k : Nat), k = laneNo l + (if r.mem then 3 else 0) → railFits k r.mv = false → s.power.por = false →
     ∃ t, exec (.laneRailLoss l r) s = .next t ∧ LaneLost l 5 s t ∧ (t.lanes.get l).inReset = true ∧ t.power = { s.power with rails := setAt s.power.rails k fun _ => r.mv } ∧
     (RegsOk s → (∀ j < 9, t.regBit R.PWR_STAT j = railFits j (t.power.rails.getD j 0)) ∧ (kilnState s = 2 → kilnState t = 7 ∧ t.regF R.KLN_STAT 3 4 = 4))) ∧
   (∀ (l : Lane) (s : State), s.power.por = true → ∃ t, exec (.laneThermalTrip l) s = .next t ∧ t = { s with lanes := t.lanes } ∧ OthersKeep l s t ∧
     t.lanes.get l = { (s.lanes.get l).stopped with inReset := true, hot := true }) ∧
   (∀ (l : Lane) (s : State), s.power.por = false → ∃ t, exec (.laneThermalTrip l) s = .next t ∧ LaneLost l 5 s t ∧ (t.lanes.get l).inReset = true ∧ (t.lanes.get l).hot = true ∧
     (RegsOk s → kilnState s = 2 → kilnState t = 7 ∧ t.regF R.KLN_STAT 3 4 = 4)) ∧
   (∀ (l : Lane) (s : State), ∃ t, exec (.laneClockStop l) s = .next t ∧ LaneLost l 3 s t ∧
     (RegsOk s → t.reg R.CYC_PRIV = BitVec.ofNat 32 (laneNo l + 3 * 4 + s.cyc.cycle % 2 ^ 28 * 16) ∧
       (kilnState s = 2 → kilnState t = 7 ∧ t.regF R.KLN_STAT 3 4 = laneNo l + 1))))

/-- The backup domain (R451, R452, R477): the change-over, which a power-up remembers as a supply that fell, and the level of VBAT at it, which reads low below 2.0 V and loses the contents below 1.5 V while VDD33 is absent; a low battery, which loses them too; and a stopped crystal, which stops OPTIME and clears BUOSC, and with it a run of Kiln, for no lane clock is then within its window (R426, R450): where neither a run nor a direct run is in progress nothing else changes; a lane in a direct run is OUT with CAUSE 0xB and its memory lost (the model's choice, log 81). The power-fail warning (R446, R398, R426): source 70 is asserted while PFW_N is and PFWCNT counts, Shale flushes all that is staged, that of an update session which ends with it too, and a run of Kiln, or a direct run, aborts with WHY 5; a further assertion has no effect; when PFW_N is deasserted the line falls, Shale accepts records again, and the programs of storage that were held are carried out. Temperature (R453, R454): the five sensors are shown, the peak of sensor 4 is kept, source 71 and its PWR_STAT bit follow PWR_TEMPCFG.WARN with 5 °C of hysteresis, and a tripped die, a lane's or the IOI's, has cooled once it is below 140 °C; in power-on reset only that. -/
def Obligations.SuppliesWarningsAndTemperature : Prop :=
  ((∀ (x : BuCross) (s : State), ∃ t, exec (.buThreshold x) s = .next t ∧
     t.bu = { s.bu with onVbat := x.below, vbatLow := decide (x.vbat.toNat < 2000), valid := s.bu.valid && !(x.below && decide (x.vbat.toNat < 1500)) } ∧
     t.power = { s.power with below := s.power.below || x.below } ∧
     t = { s with bu := t.bu, power := t.power } ∧ (x.below = true → ∀ u, (t.at u).bu.us = s.bu.us) ∧
     (x.below = false → s.bu.osc = true → ∀ u, (t.at u).bu.us = s.bu.us + (u - s.cyc.timeBase))) ∧
   (∀ s : State, ∃ t, exec .vbatLoss s = .next t ∧ t.bu = { s.bu with vbatLow := true, valid := s.bu.valid && !s.bu.onVbat } ∧ t = { s with bu := t.bu }) ∧
   (∀ s : State, ∃ t, exec .buCrystalStop s = .next t ∧ t.bu = { s.bu with osc := false } ∧ (∀ u, (t.at u).bu.us = t.bu.us) ∧
     (kilnState s ≠ 2 → s.kiln.direct = none → t = { s with regs := t.regs, bu := t.bu } ∧ RegsBut [R.PWR_STAT] s t) ∧
     (RegsOk s → t.regBit R.PWR_STAT 11 = false ∧ (∀ n < 32, n ≠ 11 → t.regBit R.PWR_STAT n = s.regBit R.PWR_STAT n) ∧
       (kilnState s = 2 ∨ s.kiln.direct.isSome = true → kilnState t = 7 ∧ t.regF R.KLN_STAT 3 4 = 1)) ∧
     ∀ l, s.kiln.direct = some l → t.kiln.direct = none ∧ t.group.directLeave = none ∧ OthersKeep l s t ∧
       (s.group.directLeave = some l → t.lanes = s.lanes) ∧
       (s.group.directLeave ≠ some l → (s.lanes.get l).st = .copy → OutFor (t.lanes.get l) 0xB ∧ (t.lanes.get l).sram = [] ∧ (t.lanes.get l).inReset = true))) ∧
  ((∀ s : State, s.power.pfw = false → ∃ t, exec .pfwNAsserted s = .next t ∧ t.power = { s.power with pfw := true, pfwAt := s.cyc.timeBase } ∧ t.evg.line = withSource s.evg.line 70 ∧
     (RegsOk s → t.reg R.PWR_PFWCNT = s.reg R.PWR_PFWCNT + 1 ∧ t.regBit R.PWR_STAT 10 = true ∧
       (kilnState s = 2 ∨ s.kiln.direct.isSome = true → kilnState t = 7 ∧ t.regF R.KLN_STAT 3 4 = 5) ∧
       (kilnState s ≠ 2 → s.kiln.direct = none → t.reg R.KLN_STAT = s.reg R.KLN_STAT)) ∧
     t.shale.flushing = some t.shale.buf.length ∧ t.upd.sess = none ∧ t.cyc = s.cyc ∧ t.vio = s.vio ∧ t.level = s.level ∧
     (s.kiln.direct = none → t.lanes = s.lanes ∧ t.sieve = s.sieve) ∧ ∀ l, s.kiln.direct = some l → t.kiln.direct = none ∧ OthersKeep l s t) ∧
   (∀ s : State, s.power.pfw = true → exec .pfwNAsserted s = .next s) ∧
   (∀ s : State, ∃ t, exec .pfwNDeasserted s = .next t ∧ t.power = { s.power with pfw := false } ∧ t.evg.line = s.evg.line &&& ~~~(withSource 0 70) ∧
     (RegsOk s → t.regBit R.PWR_STAT 10 = false) ∧ t.shale = { s.shale with pfwStop := false, eraseHeld := false } ∧
     t.lanes = s.lanes ∧ t.sieve = s.sieve ∧ t.cyc = s.cyc ∧ t.upd = { s.upd with held := [] } ∧ t.stored = (s.upd.held.foldl storeMark s).stored)) ∧
  ((∀ (s0 s1 s2 s3 s4 : BitVec 16) (s : State), ∃ t, exec (.temperatureSample s0 s1 s2 s3 s4) s = .next t ∧
     (∀ l, t.lanes.get l = { s.lanes.get l with hot := (s.lanes.get l).hot && decide ((560 : Int) ≤ (match l with | .a => s0 | .b => s1 | .c => s2 : BitVec 16).toInt) }) ∧
     t.power = { s.power with ioiHot := s.power.ioiHot && decide ((560 : Int) ≤ s3.toInt) } ∧ (s.power.por = true → t = { s with lanes := t.lanes, power := t.power })) ∧
   ∀ (s0 s1 s2 s3 s4 : BitVec 16) (s : State) (warn : Int), s.power.por = false → warn = s.regF R.PWR_TEMPCFG 0 8 → ∃ t, exec (.temperatureSample s0 s1 s2 s3 s4) s = .next t ∧
     t.bu = { s.bu with tempPeak := if s.bu.tempPeak.toInt < s4.toInt then s4 else s.bu.tempPeak } ∧
     (RegsOk s → ((t.reg (R.PWR_TEMP 0)).setWidth 16 = s0 ∧ (t.reg (R.PWR_TEMP 1)).setWidth 16 = s1 ∧ (t.reg (R.PWR_TEMP 2)).setWidth 16 = s2 ∧
       (t.reg (R.PWR_TEMP 3)).setWidth 16 = s3 ∧ (t.reg (R.PWR_TEMP 4)).setWidth 16 = s4)) ∧
     (warn * 4 < s4.toInt → t.evg.line = withSource s.evg.line 71 ∧ (RegsOk s → t.regBit R.PWR_STAT 12 = true)) ∧
     (s4.toInt < (warn - 5) * 4 → t.evg.line = s.evg.line &&& ~~~(withSource 0 71) ∧ (RegsOk s → t.regBit R.PWR_STAT 12 = false)) ∧
     (¬ warn * 4 < s4.toInt ∧ ¬ s4.toInt < (warn - 5) * 4 → t.evg = s.evg ∧ t.reg R.PWR_STAT = s.reg R.PWR_STAT) ∧
     t.sieve = s.sieve ∧ t.level = s.level ∧ t.vio = s.vio ∧ t.cyc = s.cyc)

/-! ### Boot, Kiln and the test access port -/

/-- BOOT (R405, R407, R417, R420, R421): from the reset that precedes it the boot ROM fixes the life-cycle state and stops where it is RETIRED, with every secret key erased; otherwise the armed trial bank, or with none the preferred CONFIRMED bank, is checked and booted, and an armed trial is disarmed; a bank that fails a check is marked FAILED with its cause, and the other bank is booted where it is CONFIRMED and passes; with none the module is in recovery. No Loam image is loaded yet (R443): Kiln waits. The boot takes up to 1,300 ms of operating time (a free value, log 15). A booted module, and one in power-on reset, takes no boot. -/
def Obligations.BootFollowsTheSequence : Prop :=
  (∀ (read0 read1 readLoam : Bool) (s : State), (s.power.booted = true ∨ s.power.por = true) → exec (.boot read0 read1 readLoam) s = .next s) ∧
  ∀ (read0 read1 readLoam : Bool) (v : Bool → Bool) (s : State), s.power.booted = false → s.power.por = false → (∀ b, v b = if b then read1 else read0) →
    ((fixLcs s).lcs = 4 → ∃ t, exec (.boot read0 read1 readLoam) s = .next t ∧ t.power = { s.power with booted := true, retired := true } ∧
      t.stored.imageKey = [] ∧ t.stored.storageKey = [] ∧ t.stored.identityPrivate = [] ∧ t.regs = s.regs ∧ t.upd = s.upd ∧ t.loam = s.loam ∧
      t.bu = { s.bu with lcs := 4, us := t.bu.us } ∧ s.bu.us ≤ t.bu.us ∧ t.bu.us ≤ s.bu.us + 1300000) ∧
    ((fixLcs s).lcs ≠ 4 → ∃ t, exec (.boot read0 read1 readLoam) s = .next t ∧ t.power = { s.power with booted := true } ∧
      t.bu = { s.bu with lcs := (fixLcs s).bu.lcs, trial := none, us := t.bu.us } ∧ s.bu.us ≤ t.bu.us ∧ t.bu.us ≤ s.bu.us + 1300000 ∧
      t.lanes = s.lanes ∧ t.sieve = s.sieve ∧ t.cyc = s.cyc ∧ t.loam = s.loam ∧ t.upd.loamRead = readLoam ∧ (RegsOk s → kilnState t = 1) ∧
      (∀ b, s.bu.trial = none → (bankOf s b).fstate = 4 → (bankOf s b).pref = true → (bankOf s (!b)).pref = false →
        if bankCheck s b (v b) = 0 then t.upd.booted = some b ∧ t.upd.trial = none
        else (bankOf t b).fstate = 5 ∧ (bankOf t b).fcause = BitVec.ofNat 3 (bankCheck s b (v b)) ∧
          (if (bankOf s (!b)).fstate ≠ 4 then t.upd.booted = none ∧ t.upd.recovery = true
           else if bankCheck s (!b) (v !b) = 0 then t.upd.booted = some (!b) ∧ t.upd.trial = none
           else t.upd.booted = none ∧ t.upd.recovery = true ∧ (bankOf t (!b)).fstate = 5 ∧ (bankOf t (!b)).fcause = BitVec.ofNat 3 (bankCheck s (!b) (v !b)))) ∧
      (∀ b, s.bu.trial = some b →
        if bankCheck s b (v b) = 0 then t.upd.booted = some b ∧ t.upd.trial = some b ∧ t.upd.trialEnd = s.cyc.timeBase + 120000000
        else (bankOf t b).fstate = 5 ∧ (bankOf t b).fcause = BitVec.ofNat 3 (bankCheck s b (v b)) ∧
          (if (bankOf s (!b)).fstate ≠ 4 then t.upd.booted = none ∧ t.upd.recovery = true
           else if bankCheck s (!b) (v !b) = 0 then t.upd.booted = some (!b) ∧ t.upd.trial = none
           else t.upd.booted = none ∧ t.upd.recovery = true ∧ (bankOf t (!b)).fstate = 5 ∧ (bankOf t (!b)).fcause = BitVec.ofNat 3 (bankCheck s (!b) (v !b)))) ∧
      (s.bu.trial = none → (bankOf s false).fstate ≠ 4 → (bankOf s true).fstate ≠ 4 → t.upd.booted = none ∧ t.upd.recovery = true))

/-- The windows of Kiln's wait (R425, R433, R450, R475): each window takes 31.25 ms and reports what it measures, the clocks only with the BU crystal; in the first window whose conditions hold the run starts with an empty log; a window that fails changes only what it measures, and the last one that fails leaves Kiln not started with the first failing condition in WHY. Where Kiln does not wait, neither command has an effect. The end of a run of Kiln (R196, R420, R428, R429, R433, R443, R454): the compare-path cases find no failure of their own; a run without failures admits every lane that is not DEAD, running with its rail low, but a lane whose die has not cooled since its trip, which is OUT with CAUSE 0x5; then the Loam region with LACT is loaded, or marked FAILED, outside recovery. One failure of a lane: a block beyond the evaluators, save lane memory, makes the lane DEAD with CAUSE 0xA; a row of lane DRAM takes a spare while one is left; the compare path of its first failing evaluator disables that evaluator alone, and a second one makes the lane DEAD; the other lanes are admitted. A failure of the IOI or the Sieve refuses the start, admits none, loads no image and ends a turn of descriptor fetching (R428). Without a run the command has no effect. -/
def Obligations.KilnStartsAndAdmitsOrRefuses : Prop :=
  ((∀ (m : KilnMeas) (s : State) (us : Nat) (rails : List (BitVec 16)), RegsOk s → kilnState s = 1 →
     us = s.bu.us + (if s.bu.onVbat = true ∨ s.bu.osc = false then 0 else 31250) → rails = (List.range 9).map (fun k => m.rails.getD k 0) →
     (kilnWhy s m = 0 ↔ s.bu.osc = true ∧ (∀ d ∈ [m.devA, m.devB, m.devC], -20000 ≤ d.toInt ∧ d.toInt ≤ 20000) ∧ (∀ k < 9, railFits k (m.rails.getD k 0) = true) ∧ s.power.pfw = false) ∧
     (kilnWhy s m = 0 → (∃ t, exec (.kilnStart m) s = .next t ∧ kilnState t = 2 ∧ t.reg R.KLN_LOGCNT = 0 ∧ t.reg R.KLN_CLKA = m.devA ∧ t.reg R.KLN_CLKB = m.devB ∧
         t.reg R.KLN_CLKC = m.devC ∧ t.regF R.KLN_SUPPLY 0 9 = 0 ∧ (∀ k < 9, t.regBit R.PWR_STAT k = true) ∧
         t = { s with regs := t.regs, kiln := { s.kiln with log := [] }, power := { s.power with rails := rails }, bu := { s.bu with us := us } }) ∧
       exec (.kilnWaitExpiry m) s = exec (.kilnStart m) s) ∧
     (kilnWhy s m ≠ 0 → (∃ t, exec (.kilnStart m) s = .next t ∧ kilnState t = 1 ∧ (∀ k < 9, t.regBit R.KLN_SUPPLY k = !railFits k (m.rails.getD k 0)) ∧
         (∀ k < 9, t.regBit R.PWR_STAT k = railFits k (m.rails.getD k 0)) ∧
         (if s.bu.osc then t.reg R.KLN_CLKA = m.devA ∧ t.reg R.KLN_CLKB = m.devB ∧ t.reg R.KLN_CLKC = m.devC
          else t.reg R.KLN_CLKA = s.reg R.KLN_CLKA ∧ t.reg R.KLN_CLKB = s.reg R.KLN_CLKB ∧ t.reg R.KLN_CLKC = s.reg R.KLN_CLKC) ∧
         t = { s with regs := t.regs, power := { s.power with rails := rails }, bu := { s.bu with us := us } }) ∧
       ∃ t, exec (.kilnWaitExpiry m) s = .next t ∧ kilnState t = 6 ∧ t.regF R.KLN_STAT 3 4 = kilnWhy s m ∧ (∀ k < 9, t.regBit R.KLN_SUPPLY k = !railFits k (m.rails.getD k 0)) ∧
         t.lanes = s.lanes ∧ t.kiln = s.kiln ∧ t.power = { s.power with rails := rails } ∧ t.bu = { s.bu with us := us })) ∧
   ∀ (m : KilnMeas) (s : State), kilnState s ≠ 1 → exec (.kilnStart m) s = .next s ∧ exec (.kilnWaitExpiry m) s = .next s) ∧
  ((∀ fs : List KilnFail, foundFailures fs = fs) ∧
   (∀ (ms : BitVec 16) (s : State), kilnState s = 2 → s.power.refused = false → ∃ t, exec (.kilnComplete [] ms) s = .next t ∧
     (∀ l, (s.lanes.get l).st ≠ .dead → (s.lanes.get l).hot = false → (t.lanes.get l).st = .member ∧ (t.lanes.get l).running = true ∧ (t.lanes.get l).rail = false ∧ (t.lanes.get l).inReset = false) ∧
     (∀ l, (s.lanes.get l).st ≠ .dead → (s.lanes.get l).hot = true → t.lanes.get l = { s.lanes.get l with st := .out, cause := 5 }) ∧
     (∀ l, (s.lanes.get l).st = .dead → t.lanes.get l = s.lanes.get l) ∧ (RegsOk s → t.reg R.KLN_RUNTIME = ms.setWidth 32) ∧
     t.power = { s.power with kilnDone := decide (∃ l ∈ allLanes, (s.lanes.get l).st ≠ .dead ∧ (s.lanes.get l).hot = false) } ∧ t.kiln = s.kiln ∧
     t.cyc = { s.cyc with startFrom := s.cyc.timeBase } ∧
     ((s.upd.recovery = true ∨ loamBank s = none) → t.loam = s.loam ∧ t.stored = s.stored) ∧
     (∀ b, s.upd.recovery = false → loamBank s = some b →
       match loadedLoam s b s.upd.loamRead with
       | some m => t.loam = some m ∧ t.stored = s.stored
       | none => t.loam = s.loam ∧ (bankOf t b).lstate = 5 ∧ bankOf t (!b) = bankOf s (!b))) ∧
   (∀ (l : Lane) (f : KilnFail) (ms : BitVec 16) (s : State), kilnState s = 2 → s.power.refused = false → f.unit.toNat = laneNo l → ∃ t, exec (.kilnComplete [f] ms) s = .next t ∧
     (64 ≤ f.block.toNat → f.block ≠ 68 → (t.lanes.get l).st = .dead ∧ Stopped (t.lanes.get l) ∧ ((s.lanes.get l).st ≠ .dead → (t.lanes.get l).cause = 0xA)) ∧
     (f.block = 68 → (f.test = 4 ∨ f.test = 5) → RegsOk s → spareRows s l < 64 → spareRows t l = spareRows s l + 1 ∧
       ((s.lanes.get l).st ≠ .dead → (s.lanes.get l).hot = false → (t.lanes.get l).st = .member ∧ (t.lanes.get l).running = true ∧ (t.lanes.get l).rail = false)) ∧
     (f.block.toNat ≤ 63 → (f.test = 1 ∨ f.test = 2) → (s.lanes.get l).evalOff = none → (t.lanes.get l).evalOff = some (f.block.setWidth 6) ∧
       ((s.lanes.get l).st ≠ .dead → (s.lanes.get l).hot = false → (t.lanes.get l).st = .member ∧ (t.lanes.get l).running = true ∧ (t.lanes.get l).rail = false)) ∧
     (∀ n, f.block.toNat ≤ 63 → (f.test = 1 ∨ f.test = 2) → (s.lanes.get l).evalOff = some n → n ≠ f.block.setWidth 6 → (t.lanes.get l).st = .dead ∧ Stopped (t.lanes.get l)) ∧
     ∀ k, k ≠ l → (s.lanes.get k).st ≠ .dead → (s.lanes.get k).hot = false → (t.lanes.get k).st = .member ∧ (t.lanes.get k).running = true ∧ (t.lanes.get k).rail = false) ∧
   (∀ (f : KilnFail) (ms : BitVec 16) (s : State), kilnState s = 2 → (f.unit = 3 ∨ f.unit = 4) → ∃ t, exec (.kilnComplete [f] ms) s = .next t ∧
     t.power = { s.power with refused := true } ∧ t.lanes = s.lanes ∧ t.loam = s.loam ∧ t.hif.turn = none ∧ (RegsOk s → kilnState t = 5)) ∧
   ∀ (fs : List KilnFail) (ms : BitVec 16) (s : State), kilnState s ≠ 2 → exec (.kilnComplete fs ms) s = .next s)

/-- A direct run (R428, R432, R433): a write of KLN_CMD from PORT_MAINT in MANUFACTURE or DEVELOPMENT whose RUN is 1 is accepted in STOPPED where the two other lanes are members, the named one is not DEAD and none is in progress; it drops the log and takes the lane, a member from the next cycle boundary and any other at once into COPY with CAUSE 0xB, whose rejoin is over; refused, or naming no lane, it sets CMDREF and nothing else; with RUN 0 it does nothing, and neither does any write from elsewhere. Its end makes the lane OUT where it passed and DEAD where a block beyond its evaluators and memory failed, with its memory contents lost. -/
def Obligations.DirectRunTakesAndReturnsOneLane : Prop :=
  (∀ (l : Lane) (s : State), directOk s l = true ↔ s.level = .stopped ∧ s.kiln.direct = none ∧ (s.lanes.get l).st ≠ .dead ∧ ∀ k, k ≠ l → (s.lanes.get k).st = .member) ∧
  (∀ (v : Word) (l : Lane) (s : State), CleanWrite s R.KLN_CMD v → klnOpen s .maint = true → v.getLsbD 0 = true → laneOf (fld v.toNat 1 2) = some l → directOk s l = true → ∃ t,
    exec (.klnCmdRun .maint v) s = .next t ∧ t.kiln = { s.kiln with log := [], direct := some l } ∧
    ((s.lanes.get l).st = .member → t.group = { s.group with directLeave := some l } ∧ t.lanes = s.lanes) ∧
    ((s.lanes.get l).st ≠ .member → (t.lanes.get l).st = .copy ∧ (t.lanes.get l).cause = 0xB ∧ OthersKeep l s t ∧
      t.group = { s.group with rejoin := if (s.group.rejoin.map (·.lane)) = some l then none else s.group.rejoin })) ∧
  (∀ (v : Word) (s : State), CleanWrite s R.KLN_CMD v → klnOpen s .maint = true → v.getLsbD 0 = true → (∀ l, laneOf (fld v.toNat 1 2) = some l → directOk s l = false) → ∃ t,
    exec (.klnCmdRun .maint v) s = .next t ∧ Reports R.KLN_EVT R.KLN_EVTEN 3 64 s t) ∧
  (∀ (v : Word) (s : State), CleanWrite s R.KLN_CMD v → v.getLsbD 0 = false → exec (.klnCmdRun .maint v) s = .next s) ∧
  (∀ (v : Word) (s : State), CleanWrite s R.KLN_CMD v → exec (.klnCmdRun .pcie v) s = .next s) ∧
  (∀ (v : Word) (s : State), klnOpen s .maint = false → exec (.klnCmdRun .maint v) s = .next s) ∧
  (∀ (ms : BitVec 16) (l : Lane) (s : State), s.kiln.direct = some l → (s.lanes.get l).st ≠ .dead → (s.lanes.get l).st ≠ .out → ∃ t,
    exec (.directRunComplete [] ms) s = .next t ∧ t.kiln = { s.kiln with direct := none } ∧ OutFor (t.lanes.get l) 0xB ∧ (t.lanes.get l).sram = [] ∧
    (t.lanes.get l).evalOff = none ∧ ∀ k, k ≠ l → t.lanes.get k = s.lanes.get k) ∧
  (∀ (f : KilnFail) (ms : BitVec 16) (l : Lane) (s : State), s.kiln.direct = some l → (s.lanes.get l).st ≠ .dead → f.unit.toNat = laneNo l → 64 ≤ f.block.toNat → f.block ≠ 68 → ∃ t,
    exec (.directRunComplete [f] ms) s = .next t ∧ t.kiln.direct = none ∧ (t.lanes.get l).st = .dead ∧ (t.lanes.get l).cause = 0xB ∧ Stopped (t.lanes.get l) ∧
    (t.lanes.get l).sram = [] ∧ ∀ k, k ≠ l → t.lanes.get k = s.lanes.get k) ∧
  ∀ (fs : List KilnFail) (ms : BitVec 16) (s : State), s.kiln.direct = none → exec (.directRunComplete fs ms) s = .next s

/-- The test access port (R431): BYPASS and IDCODE in every life-cycle state; the boundary instructions in MANUFACTURE alone, and as BYPASS elsewhere; nothing but the port's own registers and its contacts changes, and in power-on reset nothing leaves it (R461). KILNREG and ELEMACC (R201, R431, R433): a write of KILNREG is the write of that KLN register from PORT_MAINT, and a read the read of it, shifted out; an element read returns lane A's word, and 0 while A is not a member; outside the life-cycle states that open them both act as BYPASS. Debug control (R198 to R201): from PORT_MAINT in DEVELOPMENT EN is written, and a change of it empties the journal and drops a HALT that no snapshot has carried, while what has reached the lanes stays with them (R60); with EN a HALT waits for the next snapshot, and arms halted lanes; RESUME lowers every debug-hold rail and leaves the halted time out of the cycle, and a lane halted at the entry of CONSENSUS that holds what it compares goes on with it; STEP does so with the next halt armed, or waits as a HALT where no lane is halted; without EN a HALT has no effect; a RESUME has none where no lane is halted; from PCI Express or in any other life-cycle state none of the four has an effect. An element write of the debugger (R201, R179): accepted while the lanes are halted, lane A is a member, the journal has room and the image has the element, it enters the journal, and every running lane holds the word with its own check field at the epoch the word carries; what does not run keeps its memory. A write that is not accepted changes nothing but the port's registers. -/
def Obligations.TestAndDebugAccessByLifeCycleState : Prop :=
  ((∀ (tdi : Bool) (s : State), exec (.bypass tdi) s =
     .next { s with jtag := { s.jtag with ir := 0xFF, dr := if tdi then 1 else 0 }, out := s.out ++ if s.power.por then [] else [.tdo 0] }) ∧
   (∀ s : State, exec .idcode s = .next { s with jtag := { s.jtag with ir := 0x01, dr := Config.idcode.setWidth 64 }, out := s.out ++ if s.power.por then [] else [.tdo (Config.idcode.setWidth 64)] }) ∧
   (∀ (a b : List Bool) (s : State), exec (.samplePreload a b) s = if s.lcs = 0 then
     .next { s with jtag := { s.jtag with ir := 0x02, cells := b }, out := s.out ++ if s.power.por then [] else [.scan a] } else exec (.bypass (b.headD false)) s) ∧
   (∀ (a b : List Bool) (s : State), exec (.extest a b) s = if s.lcs = 0 then
     .next { s with jtag := { s.jtag with ir := 0x03, cells := b }, out := s.out ++ if s.power.por then [] else [.pins b, .scan a] } else exec (.bypass (b.headD false)) s)) ∧
  ((∀ (dr : BitVec 40) (s : State), (s.lcs = 0 ∨ s.lcs = 2) → dr.getLsbD 39 = true → ∃ t,
     exec (.kilnReg dr) s = .next t ∧ exec (.registerWrite .maint (BitVec.ofNat 22 (0x110000 + 4 * fld dr.toNat 32 7)) 4 (dr.setWidth 32).toNat)
       { s with jtag := { s.jtag with ir := 0x20, dr := dr.setWidth 64 } } = .next t) ∧
   (∀ (dr : BitVec 40) (s : State), (s.lcs = 0 ∨ s.lcs = 2) → dr.getLsbD 39 = false → ∃ u, exec (.readShadow .maint ⟨BitVec.ofNat 22 (0x110000 + 4 * fld dr.toNat 32 7), 4⟩) s = .next u ∧
     exec (.kilnReg dr) s = .next { u with jtag := { u.jtag with ir := 0x20, dr := u.lastRead.setWidth 64 }, out := u.out ++ sent u [.tdo (u.lastRead.setWidth 64)] }) ∧
   (∀ (dr : BitVec 40) (s : State), (s.lcs = 0 ∨ s.lcs = 2) → s.power.retired = false → dr.getLsbD 39 = false → 0x110000 + 4 * fld dr.toNat 32 7 = R.KLN_EVDIS →
     exec (.kilnReg dr) s = .next { s with
       lastRead := liveReg s R.KLN_EVDIS, jtag := { s.jtag with ir := 0x20, dr := (liveReg s R.KLN_EVDIS).setWidth 64 },
       out := s.out ++ sent s [.tdo ((liveReg s R.KLN_EVDIS).setWidth 64)] }) ∧
   (∀ (dr : BitVec 40) (s : State), s.lcs ≠ 0 → s.lcs ≠ 2 → exec (.kilnReg dr) s = exec (.bypass (dr.getLsbD 39)) s) ∧
   (∀ (dr : BitVec 48) (s : State), s.lcs = 2 → dr.getLsbD 23 = false → ∃ w,
     exec (.elemAcc dr) s = .next { s with jtag := { s.jtag with ir := 0x30, dr := w }, out := s.out ++ sent s [.tdo w] } ∧ fld w.toNat 0 23 = fld dr.toNat 0 23 ∧
     fld w.toNat 24 24 = (if (s.lanes.get .a).st = .member then (sramInfo .a (s.lanes.get .a).sram (fld dr.toNat 0 23)).toNat else 0)) ∧
   (∀ (dr : BitVec 48) (s : State), s.lcs ≠ 2 → exec (.elemAcc dr) s = exec (.bypass (dr.getLsbD 47)) s)) ∧
  ((∀ (en : Bool) (s : State), dbgOpen s .maint = true → ∃ t, exec (.dbgCtrlEn .maint en) s = .next t ∧ (RegsOk s → t.regBit R.DBG_CTRL 0 = en) ∧
     RegsBut [R.DBG_CTRL] s t ∧ t = { s with regs := t.regs, dbg := if en = s.regBit R.DBG_CTRL 0 then s.dbg else { s.dbg with journal := [], haltPend := false } }) ∧
   (∀ s : State, dbgOpen s .maint = true → s.regBit R.DBG_CTRL 0 = false → exec (.halt .maint) s = .next s) ∧
   (∀ s : State, dbgOpen s .maint = true → s.regBit R.DBG_CTRL 0 = true → s.dbg.halted = false → exec (.halt .maint) s = .next { s with dbg := { s.dbg with haltPend := true } }) ∧
   (∀ s : State, dbgOpen s .maint = true → s.regBit R.DBG_CTRL 0 = true → s.dbg.halted = true → ∃ t, exec (.halt .maint) s = .next t ∧
     InEachRunning s t fun _ x y => y = { x with armed := true }) ∧
   (∀ s : State, dbgOpen s .maint = true → s.dbg.halted = true → (∀ l, atConsensus (s.lanes.get l) = true → isNamed s l = true ∧ inMinority (s.lanes.get l) l = false) →
     ∃ t, exec (.resume .maint) s = .next t ∧ t.dbg = { s.dbg with halted := false } ∧
     t.cyc = { s.cyc with halted := s.cyc.halted + (s.cyc.timeBase - s.dbg.haltedAt) } ∧ t.sieve = { s.sieve with suspended := false } ∧
     (∀ l, t.lanes.get l = { s.lanes.get l with
       dbgHold := false
       decided := (s.lanes.get l).decided || (atConsensus (s.lanes.get l) && (s.lanes.get l).running && ((s.lanes.get l).st == .silent || holdsAll (s.lanes.get l) l)) }) ∧
     t = { s with lanes := t.lanes, cyc := t.cyc, dbg := t.dbg, sieve := t.sieve }) ∧
   (∀ s : State, dbgOpen s .maint = true → s.dbg.halted = false → exec (.resume .maint) s = .next s ∧ exec (.stepCmd .maint) s = exec (.halt .maint) s) ∧
   (∀ s : State, dbgOpen s .maint = true → s.dbg.halted = true → ∃ t u, exec (.halt .maint) s = .next t ∧ exec (.resume .maint) t = .next u ∧ exec (.stepCmd .maint) s = .next u ∧
     ((∀ l, atConsensus (s.lanes.get l) = true → isNamed s l = true ∧ inMinority (s.lanes.get l) l = false) → u.dbg = { s.dbg with halted := false } ∧
       ∀ l, (u.lanes.get l).dbgHold = false ∧ (u.lanes.get l).armed = ((s.lanes.get l).armed || ((s.lanes.get l).running && s.regBit R.DBG_CTRL 0)))) ∧
   (∀ (src : Src) (en : Bool) (s : State), dbgOpen s src = false →
     exec (.dbgCtrlEn src en) s = .next s ∧ exec (.halt src) s = .next s ∧ exec (.resume src) s = .next s ∧ exec (.stepCmd src) s = .next s)) ∧
  ((∀ (dr : BitVec 48) (s : State), s.lcs = 2 → dr.getLsbD 23 = true → s.dbg.halted = true → (s.lanes.get .a).st = .member → s.dbg.journal.length < 4096 →
     fld dr.toNat 0 23 < (s.loam.map (·.elems.length)).getD 0 → ∃ t,
     exec (.elemAcc dr) s = .next t ∧ (∃ j, t.dbg.journal = s.dbg.journal ++ [j] ∧ j.elem = fld dr.toNat 0 23 ∧ j.old = sramInfo .a (s.lanes.get .a).sram (fld dr.toNat 0 23) ∧
       j.new = BitVec.ofNat 24 (fld dr.toNat 24 24) ∧ j.cycle = s.cyc.cycle) ∧
     (∀ l, (s.lanes.get l).running = true → Memory.wf (spareByte l) (s.lanes.get l).sram = true →
       (sramInfo l (t.lanes.get l).sram (fld dr.toNat 0 23)).toNat = fld dr.toNat 24 24 ∧
       sramCheck l (t.lanes.get l).sram (fld dr.toNat 0 23) = checkField l (BitVec.ofNat 24 (fld dr.toNat 24 24)) (epochOf (s.lanes.get l) (fld dr.toNat 0 23)) ∧
       ∀ k, k ≠ fld dr.toNat 0 23 → sramWord l (t.lanes.get l).sram k = sramWord l (s.lanes.get l).sram k) ∧
     (∀ l, (s.lanes.get l).running = false → t.lanes.get l = s.lanes.get l) ∧ t.sieve = s.sieve ∧ t.cyc = s.cyc ∧ t.level = s.level) ∧
   ∀ (dr : BitVec 48) (s : State), s.lcs = 2 → dr.getLsbD 23 = true → elemOpen s (fld dr.toNat 0 23) = false →
     exec (.elemAcc dr) s = .next { s with jtag := { s.jtag with ir := 0x30, dr := dr.setWidth 64 } })

/-! ### The host interface -/

/-- Doorbells (R232, R235, R253): to an enabled ring an index that meets the condition of R235 moves the tail or the head and nothing else, and any other is a ring error that moves neither, of a submission ring one that ends its turn of fetching too; to a disabled ring every write is a ring error. A read returns the value last accepted; an access of another offset, width or alignment reads as 0 and writes nothing. A module stopped in RETIRED serves none (R420). -/
def Obligations.DoorbellsMoveAnIndexOrAreRingErrors : Prop :=
  (∀ (n : BitVec 4) (v : Word) (s : State) (q : SqSt) (size : Nat), s.power.retired = false → sqOn s n.toNat = true → q = sqAt s n.toNat → size = 2 ^ s.regF (R.HIF_SQ_CFG n.toNat) 0 4 →
    (v.toNat < size ∧ ((q.tail : Int) - q.head) % size ≤ ((v.toNat : Int) - q.head) % size →
      exec (.submissionTail n (.write v)) s = .next (updSq s n.toNat fun x => { x with tail := v.toNat })) ∧
    (¬ (v.toNat < size ∧ ((q.tail : Int) - q.head) % size ≤ ((v.toNat : Int) - q.head) % size) →
      ∃ t, exec (.submissionTail n (.write v)) s = .next t ∧ RingError n.toNat 0 1
        (updSq { s with hif := { s.hif with turn := if (s.hif.turn.map (·.ring)) = some n then none else s.hif.turn } } n.toNat fun x => { x with err := true }) t)) ∧
  (∀ (n : BitVec 4) (v : Word) (s : State) (c : CqSt) (size : Nat), s.power.retired = false → cqOn s n.toNat = true → c = cqAt s n.toNat → size = 2 ^ s.regF (R.HIF_CQ_CFG n.toNat) 0 4 →
    (v.toNat < size ∧ ((v.toNat : Int) - c.head) % size ≤ ((c.tail : Int) - c.head) % size →
      exec (.completionHead n (.write v)) s = .next (updCq s n.toNat fun x => { x with head := v.toNat })) ∧
    (¬ (v.toNat < size ∧ ((v.toNat : Int) - c.head) % size ≤ ((c.tail : Int) - c.head) % size) →
      ∃ t, exec (.completionHead n (.write v)) s = .next t ∧ RingError n.toNat 1 2 (updCq s n.toNat fun x => { x with err := true }) t)) ∧
  (∀ (n : BitVec 4) (v : Word) (s : State), s.power.retired = false → sqOn s n.toNat = false → ∃ t, exec (.submissionTail n (.write v)) s = .next t ∧ RingError n.toNat 0 5 s t) ∧
  (∀ (n : BitVec 4) (v : Word) (s : State), s.power.retired = false → cqOn s n.toNat = false → ∃ t, exec (.completionHead n (.write v)) s = .next t ∧ RingError n.toNat 1 5 s t) ∧
  (∀ (n : BitVec 4) (x : Bell) (s : State), s.power.retired = true → exec (.submissionTail n x) s = .next s ∧ exec (.completionHead n x) s = .next s) ∧
  ∀ (n : BitVec 4) (r : Bool) (s : State), s.power.retired = false → exec (.submissionTail n .read) s = .next { s with lastRead := BitVec.ofNat 32 (sqAt s n.toNat).tail } ∧
    exec (.completionHead n .read) s = .next { s with lastRead := BitVec.ofNat 32 (cqAt s n.toNat).head } ∧
    exec (.submissionTail n (.other r)) s = .next (if r then { s with lastRead := 0 } else s) ∧ exec (.completionHead n (.other r)) s = exec (.submissionTail n (.other r)) s

/-- Enabling and disabling rings (R233, R234, R254): a ring is enabled empty, a completion ring with the expected phase 1; what R234 refuses sets CFGLOST and nothing else; a disabled submission ring stops fetching at once, with the turn on it; a completion ring stays enabled until it owes nothing. A write that leaves EN as it is does nothing. -/
def Obligations.RingsAreEnabledAndDisabled : Prop :=
  (∀ (n : BitVec 4) (v : Word) (s : State), CleanWrite s (R.HIF_SQ_CTRL n.toNat) v → sqOn s n.toNat = false → v.getLsbD 0 = true → exec (.hifSqEn n v) s =
    .next (if cqOn s (s.regF (R.HIF_SQ_CFG n.toNat) 4 4) then updSq (s.setF (R.HIF_SQ_CTRL n.toNat) 0 1 1) n.toNat fun q => { q with head := 0, tail := 0, err := false }
           else s.orReg (R.HIF_SQ_STAT n.toNat) 0x2000)) ∧
  (∀ (n : BitVec 4) (v : Word) (s : State), CleanWrite s (R.HIF_SQ_CTRL n.toNat) v → sqOn s n.toNat = true → v.getLsbD 0 = false → ∃ t, exec (.hifSqEn n v) s = .next t ∧
    t = { s with regs := t.regs, hif := { s.hif with turn := t.hif.turn } } ∧ RegsBut [R.HIF_SQ_CTRL n.toNat] s t ∧ sqOn t n.toNat = false ∧
    ∀ x, t.hif.turn = some x ↔ s.hif.turn = some x ∧ x.ring ≠ n) ∧
  (∀ (n : BitVec 4) (v : Word) (s : State), CleanWrite s (R.HIF_CQ_CTRL n.toNat) v → cqOn s n.toNat = false → v.getLsbD 0 = true → exec (.hifCqEn n v) s =
    .next (updCq (s.setF (R.HIF_CQ_CTRL n.toNat) 0 1 1) n.toNat fun c => { c with head := 0, tail := 0, phase := true, unsig := 0, oldest := none, err := false })) ∧
  (∀ (n : BitVec 4) (v : Word) (s : State), CleanWrite s (R.HIF_CQ_CTRL n.toNat) v → cqOn s n.toNat = true → v.getLsbD 0 = false →
    ((∃ k < 16, sqOn s k = true ∧ s.regF (R.HIF_SQ_CFG k) 4 4 = n.toNat) → exec (.hifCqEn n v) s = .next (s.orReg (R.HIF_CQ_STAT n.toNat) 0x4000)) ∧
    ((∀ k < 16, sqOn s k = true → s.regF (R.HIF_SQ_CFG k) 4 4 ≠ n.toNat) → exec (.hifCqEn n v) s = .next (updCq s n.toNat fun c => { c with stopping := true }))) ∧
  (∀ (n : BitVec 4) (v : Word) (s : State), (CleanWrite s (R.HIF_SQ_CTRL n.toNat) v → v.getLsbD 0 = sqOn s n.toNat → exec (.hifSqEn n v) s = .next s) ∧
    (CleanWrite s (R.HIF_CQ_CTRL n.toNat) v → v.getLsbD 0 = cqOn s n.toNat → exec (.hifCqEn n v) s = .next s)) ∧
  (∀ (n : BitVec 4) (s : State), (cqAt s n.toNat).stopping = true → (cqAt s n.toNat).credit = 0 → (∀ c ∈ s.hif.held, cqOf s c ≠ n.toNat) → ∃ t,
    exec (.stoppingEnd n) s = .next t ∧ (RegsOk s → cqOn t n.toNat = false) ∧ (cqAt t n.toNat).stopping = false ∧ RegsBut [R.HIF_CQ_CTRL n.toNat] s t ∧
    t = { s with regs := t.regs, hif := { s.hif with cq := t.hif.cq } }) ∧
  ∀ (n : BitVec 4) (s : State), ((cqAt s n.toNat).stopping = false ∨ (cqAt s n.toNat).credit ≠ 0 ∨ ∃ c ∈ s.hif.held, cqOf s c = n.toNat) → exec (.stoppingEnd n) s = .next s

/-- Fetching (R229, R239 to R242, R253): a turn serves the first ring that meets the conditions after the one served before, reads the least of its weight, its entries, its credit and the room in the staging queue, and leaves L1; each read that completes advances the head, takes credit and the next fetch sequence number and stages the descriptor, and the buffer of an UPDATE_WRITE is read in requests of at most 512 bytes, or the less that host software has set, and kept, its failure a ring error with cause 0x4; a failed read ends the turn and stops the ring, a ring error with cause 0x3. Outside a turn, and after a refused start (R428), nothing is read. -/
def Obligations.FetchTurnsServeTheRings : Prop :=
  (∀ (n : Nat) (s : State), nextRing s = some n → ∃ i < 16, n = (s.hif.lastRing.toNat + 1 + i) % 16 ∧ fetchable s n = true ∧
    ∀ j < i, fetchable s ((s.hif.lastRing.toNat + 1 + j) % 16) = false) ∧
  (∀ s : State, nextRing s = none ↔ ∀ n < 16, fetchable s n = false) ∧
  (∀ (n : Nat) (s : State) (q : SqSt), mayRequest s = true → s.power.refused = false → s.regBit R.HIF_CTRL 0 = true → s.hif.turn = none → nextRing s = some n → q = sqAt s n → ∃ t k,
    exec .fetchTurn s = .next t ∧ 0 < k ∧
    k = min (min (s.regF (R.HIF_SQ_CFG n) 8 4 + 1) ((((q.tail : Int) - q.head) % (2 ^ s.regF (R.HIF_SQ_CFG n) 0 4 : Nat)).toNat)) (min (freeCredit s (boundCq s n)) (4096 - s.hif.staging.length)) ∧
    t.hif = { s.hif with lastRing := BitVec.ofNat 4 n, turn := some { ring := BitVec.ofNat 4 n, left := k }, l1 := false } ∧
    t.out = s.out ++ (List.range k).map (fun i => .pcieRead (sqAddr s n (q.head + i)) 64) ∧ t = { s with hif := t.hif, out := t.out }) ∧
  (∀ s : State, (mayRequest s = false ∨ s.power.refused = true ∨ s.regBit R.HIF_CTRL 0 = false ∨ s.hif.turn.isSome = true ∨ nextRing s = none) → exec .fetchTurn s = .next s) ∧
  (∀ (x : Turn) (b : Bytes) (buf : Option Bytes) (p : BitVec 16 × Req) (s : State), s.hif.turn = some x → s.power.refused = false → p = parseDesc x.ring.toNat (sqAt s x.ring.toNat).head s.hif.fetchSeq b → ∃ t u,
    exec (.descriptorRead (.ok b buf)) s = .next t ∧
    u.hif.sq = setAt s.hif.sq x.ring.toNat (fun q => { q with head := (q.head + 1) % 2 ^ s.regF (R.HIF_SQ_CFG x.ring.toNat) 0 4, out := q.out + 1 }) ∧
    u.hif.cq = setAt s.hif.cq (boundCq s x.ring.toNat) (fun c => { c with credit := c.credit + 1 }) ∧
    u.hif.staging = s.hif.staging ++ [(p.1, { p.2 with bufFailed := readsBuffer p && buf.isNone })] ∧ u.hif.fetchSeq = s.hif.fetchSeq + 1 ∧
    u.hif.turn = (if x.left ≤ 1 then none else some { x with left := x.left - 1 }) ∧
    u.hif.bufs = (if readsBuffer p then s.hif.bufs ++ [(s.hif.fetchSeq, padTo p.2.length.toNat (buf.getD []))] else s.hif.bufs) ∧
    u.out = s.out ++ (if readsBuffer p then sent s ((spans (readMax s) p.2.bufaddr.toNat p.2.length.toNat).map fun e => .pcieRead e.1 e.2) else []) ∧
    (RegsOk s → u.reg R.HIF_FETCHCNT = s.reg R.HIF_FETCHCNT + 1) ∧ RegsBut [R.HIF_FETCHCNT] s u ∧ u = { s with regs := u.regs, hif := u.hif, out := u.out } ∧
    (readsBuffer p = true → buf = none → RingError x.ring.toNat 0 4 u t) ∧ ((readsBuffer p = false ∨ buf.isSome = true) → t = u)) ∧
  (∀ (x : Turn) (s : State), s.hif.turn = some x → s.power.refused = false → ∃ t, exec (.descriptorRead .failed) s = .next t ∧
    RingError x.ring.toNat 0 3 (updSq { s with hif := { s.hif with turn := none } } x.ring.toNat fun q => { q with err := true }) t) ∧
  (∀ (r : DescRead) (s : State), (s.hif.turn = none ∨ s.power.refused = true) → exec (.descriptorRead r) s = .next s) ∧
  (∀ s : State, 128 ≤ readMax s ∧ readMax s ≤ 512) ∧
  ∀ m a n : Nat, 0 < m → (∀ e ∈ spans m a n, 0 < e.2 ∧ e.2 ≤ m ∧ e.1 / m = (e.1 + e.2 - 1) / m) ∧
    ∀ i < n, ∃ e ∈ spans m a n, e.1 ≤ a + i ∧ a + i < e.1 + e.2

/-- Completion entries and moderation (R229, R240, R243 to R246, R250, R251): the next held entry is written, after its data in writes of at most 256 bytes, or the less that host software has set, as 32 bytes at the tail of its ring with the head of its submission ring and the ring's phase; the tail moves, the phase changes at the wrap, CREDIT falls, and the ring is signalled once MODCNT entries wait, at once for FLAGS.IMM, or at MODTIME. -/
def Obligations.CompletionEntriesAreWrittenAndSignalled : Prop :=
  (∀ (c : Cmpl) (h : Nat) (p : Bool), (cmplBytes c h p).length = 32 ∧ leAt (cmplBytes c h p) 0 4 = c.tag.toNat ∧ leAt (cmplBytes c h p) 4 2 = h % 65536 ∧
    leAt (cmplBytes c h p) 6 1 = c.sq.toNat ∧ leAt (cmplBytes c h p) 7 1 = c.status.toNat ∧ leAt (cmplBytes c h p) 8 2 = c.opcode.toNat ∧
    leAt (cmplBytes c h p) 10 2 = c.cycle.toNat ∧ ((cmplBytes c h p).drop 12).take 16 = padTo 16 c.result ∧ leAt (cmplBytes c h p) 31 1 = b2n p) ∧
  (∀ (c : Cmpl) (rest : List Cmpl) (n : Nat) (q : CqSt) (b : Bytes) (s : State), mayRequest s = true → s.hif.held = c :: rest → (assoc c.seq s.hif.bound).isSome = true → n = cqOf s c → q = cqAt s n →
    b = (if c.data = [] then (assoc c.seq.toNat s.hif.reads).getD [] else c.data) → ∃ t u, exec .completionWrite s = .next t ∧ u.hif.held = rest ∧
    u.hif.cq = setAt s.hif.cq n (fun x => { x with
      tail := if q.tail + 1 = 2 ^ s.regF (R.HIF_CQ_CFG n) 0 4 then 0 else x.tail + 1, phase := if q.tail + 1 = 2 ^ s.regF (R.HIF_CQ_CFG n) 0 4 then !x.phase else x.phase,
      credit := x.credit - 1, unsig := x.unsig + 1, oldest := some (x.oldest.getD s.cyc.timeBase) }) ∧
    u.hif.sq = setAt s.hif.sq c.sq.toNat (fun x => { x with out := x.out - 1 }) ∧
    128 ≤ payloadMax s ∧ payloadMax s ≤ 256 ∧ u.out = s.out ++ (spans (payloadMax s) c.buf.toNat b.length).map (fun e => .pcieWrite e.1 ((b.drop (e.1 - c.buf.toNat)).take e.2)) ++
      [.pcieWrite ((s.wide (R.HIF_CQ_BASE_LO n)).toNat / 32 * 32 + 32 * q.tail) (cmplBytes c (sqAt s c.sq.toNat).head q.phase)] ∧
    (RegsOk s → u.reg R.HIF_CMPLCNT = s.reg R.HIF_CMPLCNT + 1) ∧ RegsBut [R.HIF_CMPLCNT] s u ∧ u = { s with regs := u.regs, hif := u.hif, out := u.out } ∧
    ((c.imm = true ∨ s.regF (R.HIF_CQ_CFG n) 8 8 ≤ (cqAt u n).unsig) → Raises n (updCq u n fun x => { x with unsig := 0, oldest := none }) t) ∧
    (c.imm = false → (cqAt u n).unsig < s.regF (R.HIF_CQ_CFG n) 8 8 → t = u)) ∧
  (∀ (c : Cmpl) (rest : List Cmpl) (s : State), mayRequest s = true → s.hif.held = c :: rest → (assoc c.seq s.hif.bound).isNone = true →
    exec .completionWrite s = .next { s with hif := { s.hif with held := rest }, out := s.out ++ [.maintCompletion c] }) ∧
  (∀ s : State, (mayRequest s = false ∨ s.hif.held = []) → exec .completionWrite s = .next s) ∧
  (∀ (n : BitVec 4) (s : State), s.regF (R.HIF_CQ_CFG n.toNat) 16 16 ≠ 0 → 0 < (cqAt s n.toNat).unsig → ∃ t,
    exec (.modTime n) s = .next t ∧ Raises n.toNat (updCq { s with hif := { s.hif with l1 := s.hif.l1 && s.hif.d3hot } } n.toNat fun c => { c with unsig := 0, oldest := none }) t) ∧
  ∀ (n : BitVec 4) (s : State), (s.regF (R.HIF_CQ_CFG n.toNat) 16 16 = 0 ∨ (cqAt s n.toNat).unsig = 0) → exec (.modTime n) s = .next s

/-- Power states and messages of the function (R231, R251, R252, R266): a configuration request that finds the function not ready is retried (R487) and has no effect; D3hot ends fetching and holds completions and messages; the return to D0 writes every held entry first and then sends every message that nothing masks; L1 is entered only with nothing to send; a mask that clears, in the table or of the function, sends the held messages; the table keeps its words and the pending bits read in their array; the interlocking never waits on them. The resets of R230: they reset the function, the HIF and EVG registers and the MSI-X state, so every ring is disabled, and the pending bits are those of the level lines (R268); scans of host memory end as read failures after the bytes read by then (R386); no lane, Sieve, time base, level or stored region changes; held completions are discarded and counted, and fetched descriptors keep their place, as do those of PORT_MAINT, whose completions are not lost. Function-ready then permits requests, once the module's own reset has ended. -/
def Obligations.FunctionPowerStatesAndResets : Prop :=
  ((∀ s : State, configOpen s = true ↔ s.hif.ready = true ∧ s.power.por = false ∧ s.power.ioiLost = false) ∧
   (∀ (p : Bool) (s : State), configOpen s = false → exec (.d3Hot p) s = .next s ∧ exec (.msixUnmask (.functionMask p)) s = .next s) ∧
   (∀ (p : Bool) (s : State), configOpen s = true → s.hif.d3hot = false → exec (.d3Hot p) s = .next { s with hif := { s.hif with d3hot := true, pmeSent := false, pmeEn := p, turn := none } }) ∧
   (∀ (p : Bool) (s : State), s.hif.d3hot = true → exec (.d3Hot p) s = .next s ∧ exec .fetchTurn s = .next s ∧ exec .completionWrite s = .next s) ∧
   (∀ s : State, s.hif.d3hot = true → ∃ t l m, exec .d0Return s = .next t ∧ t.hif.d3hot = false ∧ t.hif.held = [] ∧ t.hif.staging = s.hif.staging ∧
     t.lanes = s.lanes ∧ t.sieve = s.sieve ∧ t.cyc = s.cyc ∧ t.level = s.level ∧ t.vio = s.vio ∧ t.out = s.out ++ l ++ m ∧
     (∀ o ∈ l, ∀ v a d, o ≠ .msix v a d) ∧ (∀ o ∈ m, ∃ v, o = vectorMsg s v) ∧ ∀ v : Nat, t.evg.vecPend.getLsbD v = true → s.evg.vecMask.getLsbD v = true ∨ s.evg.fnMask = true) ∧
   (∀ s : State, s.hif.d3hot = false → exec .d0Return s = .next s) ∧
   (∀ s : State, s.hif.turn = none → (s.hif.held = [] ∨ s.hif.d3hot = true) → (s.regBit R.HIF_CTRL 0 = false ∨ mayRequest s = false ∨ nextRing s = none) →
     exec .l1Entry s = .next { s with hif := { s.hif with l1 := true } }) ∧
   (∀ s : State, (s.hif.turn ≠ none ∨ (s.hif.held ≠ [] ∧ s.hif.d3hot = false) ∨ (s.regBit R.HIF_CTRL 0 = true ∧ mayRequest s = true ∧ nextRing s ≠ none)) → exec .l1Entry s = .next s) ∧
   (∀ (on : Bool) (s : State), configOpen s = true → ∃ t, exec (.msixUnmask (.functionMask on)) s = .next t ∧ Masks s.evg.vecMask on s t) ∧
   (∀ (v : BitVec 4) (w : Word) (s : State), s.power.retired = false → ∃ t, exec (.msixUnmask (.write (BitVec.ofNat 13 (16 * v.toNat + 12)) w)) s = .next t ∧
     Masks (if w.getLsbD 0 then s.evg.vecMask ||| (1 : BitVec 16) <<< v.toNat else s.evg.vecMask &&& ~~~((1 : BitVec 16) <<< v.toNat)) s.evg.fnMask s t) ∧
   (∀ (v : BitVec 4) (k : Nat) (w : Word) (s : State), s.power.retired = false → s.evg.table.length = 16 → k < 3 → ∃ t u, exec (.msixUnmask (.write (BitVec.ofNat 13 (16 * v.toNat + 4 * k)) w)) s = .next t ∧
     t = { s with evg := { s.evg with table := t.evg.table } } ∧ exec (.msixUnmask (.read (BitVec.ofNat 13 (16 * v.toNat + 4 * k)))) t = .next u ∧ u.lastRead = w ∧
     ∀ j, j ≠ v.toNat → t.evg.table.getD j (0, 0) = s.evg.table.getD j (0, 0)) ∧
   (∀ (off : BitVec 13) (w : Word) (s : State), 0x100 ≤ off.toNat → exec (.msixUnmask (.write off w)) s = .next s) ∧
   (∀ (off : BitVec 13) (w : Word) (s : State), s.power.retired = true → exec (.msixUnmask (.write off w)) s = .next s ∧ exec (.msixUnmask (.read off)) s = .next s) ∧
   (∀ (off : BitVec 13) (s : State), s.power.retired = false → ∃ w, exec (.msixUnmask (.read off)) s = .next { s with lastRead := w } ∧ (off.toNat / 4 * 4 = 0x1000 → w = s.evg.vecPend.setWidth 32))) ∧
  ((∀ (k : FnReset) (s : State), ∃ t, exec (.functionReset k) s = .next t ∧
     t.lanes = s.lanes ∧ t.sieve = s.sieve ∧ t.cyc = s.cyc ∧ t.level = s.level ∧ t.group = s.group ∧ t.fsn = s.fsn ∧ t.frn = s.frn ∧ t.can = s.can ∧ t.sby = s.sby ∧
     t.vio = s.vio ∧ t.shale = s.shale ∧ t.stored = s.stored ∧ t.upd = s.upd ∧ t.bu = s.bu ∧ t.power = s.power ∧
     t.hif = { HifSt.reset with fetchSeq := s.hif.fetchSeq, bufs := s.hif.bufs, staging := s.hif.staging, maint := s.hif.maint, maintSeq := s.hif.maintSeq, outstanding := s.hif.outstanding,
                                lost := s.hif.lost ++ ((s.hif.staging ++ s.hif.outstanding).filter fun d => !d.2.maint).map (·.2.seq) } ∧
     t.evg = { EvgSt.reset with line := s.evg.line, pend := s.evg.line } ∧
     (∀ off, off / 0x10000 ≠ 1 → off / 0x10000 ≠ 2 → off / 0x10000 ≠ 14 → t.reg off = s.reg off) ∧
     (∀ u < 4, chkBusy s u = true → chkOwned s u = false → chkSrc s u = 4 → RegsOk s → chkBusy t u = false ∧ t.regF (R.CHKU_STAT u) 1 3 = 2 ∧
       t.reg (R.CHKU_LEN u) = s.reg (R.CHKU_LEN u) - BitVec.ofNat 32 (if s.hif.d3hot then 0 else min ((k.scanned.getD u []).length) (s.regN (R.CHKU_LEN u)))) ∧
     (RegsOk s → t.reg R.HIF_DISCCNT = BitVec.ofNat 32 s.hif.held.length ∧ ∀ off, (off / 0x10000 = 1 ∨ off / 0x10000 = 2) → off ≠ R.HIF_DISCCNT → t.reg off = regDefault off)) ∧
   (∀ s : State, s.power.por = false → exec .functionReady s = .next { s with hif := { s.hif with ready := true } }) ∧ ∀ s : State, s.power.por = true → exec .functionReady s = .next s)

/-! ### The Event Gate -/

/-- Delivery conditions and the candidate (R260). -/
def Obligations.CandidateIsTheHighestDeliverableSource : Prop :=
  (∀ (c : EvClass) (k : Nat) (s : State), evgDeliverable s c k = true ↔
    s.evg.pend.getLsbD k = true ∧ evgClassOf s k = c ∧ evgEnabled s c k = true ∧ 1 ≤ evgPrioOf s k ∧
    ∀ top rest, evgStack s c = top :: rest → evgPrioOf s top < evgPrioOf s k) ∧
  (∀ (c : EvClass) (s : State), evgCandidate s c = none ↔ ∀ k < 128, evgDeliverable s c k = false) ∧
  (∀ (c : EvClass) (k : Nat) (s : State), evgCandidate s c = some k → k < 128 ∧ evgDeliverable s c k = true ∧
    ∀ j < 128, evgDeliverable s c j = true → evgPrioOf s j < evgPrioOf s k ∨ (evgPrioOf s j = evgPrioOf s k ∧ k ≤ j))

/-- Claiming (R261, R265): a read of CLAIM returns the candidate with VALID and its priority, clears its pending bit, sets its active bit and pushes it; with none deliverable it returns 0 and leaves pending bits, active bits and stacks; what else changes is delivery's. A module stopped in RETIRED does not serve the read (R420). Completion (R263, R264): the source at the top of the stack is popped and no longer active, an edge source keeps its pending bit and a level source takes it from its line; any other completion changes no stack, active or pending bit but source 69, is recorded with the class, the source and the present top, and is counted. -/
def Obligations.ClaimsAndCompletionsUseTheStack : Prop :=
  ((∀ (c : EvClass) (k : Nat) (s : State), s.power.retired = false → evgCandidate s c = some k → ∃ t, exec (.evgClaim c) s = .next t ∧
     t.lastRead = BitVec.ofNat 32 (k + 256 * evgPrioOf s k + 2 ^ 31) ∧ t.evg.pend = s.evg.pend &&& ~~~(withSource 0 k) ∧ t.evg.active = withSource s.evg.active k ∧
     evgStack t c = k :: evgStack s c ∧ (∀ d, d ≠ c → evgStack t d = evgStack s d) ∧ t.evg.line = s.evg.line ∧ RegsBut evgCounters s t ∧
     t = { s with regs := t.regs, out := t.out, lastRead := t.lastRead, evg := t.evg, hif := t.hif } ∧ t.hif.cq = s.hif.cq ∧ t.hif.sq = s.hif.sq) ∧
   (∀ (c : EvClass) (s : State), s.power.retired = false → evgCandidate s c = none → ∃ t, exec (.evgClaim c) s = .next t ∧
     t.lastRead = 0 ∧ t.evg.pend = s.evg.pend ∧ t.evg.active = s.evg.active ∧ (∀ d, evgStack t d = evgStack s d) ∧ RegsBut evgCounters s t ∧
     t = { s with regs := t.regs, out := t.out, lastRead := t.lastRead, evg := t.evg, hif := t.hif }) ∧
   ∀ (c : EvClass) (s : State), s.power.retired = true → exec (.evgClaim c) s = .next s) ∧
  ((∀ (c : EvClass) (v : Word) (k : Nat) (rest : List Nat) (s : State), CleanWrite s (match c with | .normal => R.EVG_NCOMPLETE | .fast => R.EVG_FCOMPLETE) v →
     evgStack s c = k :: rest → v.toNat % 128 = k → ∃ t, exec (.evgComplete c v) s = .next t ∧
     evgStack t c = rest ∧ (∀ d, d ≠ c → evgStack t d = evgStack s d) ∧ t.evg.active = s.evg.active &&& ~~~(withSource 0 k) ∧
     (evgIsLevel k = false → t.evg.pend = s.evg.pend) ∧
     (evgIsLevel k = true → t.evg.pend.getLsbD k = (s.evg.line.getLsbD k || s.evg.sticky.getLsbD k) ∧ ∀ j, j ≠ k → t.evg.pend.getLsbD j = s.evg.pend.getLsbD j) ∧
     RegsBut evgCounters s t ∧ t = { s with regs := t.regs, out := t.out, evg := t.evg, hif := t.hif }) ∧
   (∀ (c : EvClass) (v : Word) (s : State), CleanWrite s (match c with | .normal => R.EVG_NCOMPLETE | .fast => R.EVG_FCOMPLETE) v →
     (∀ k rest, evgStack s c = k :: rest → v.toNat % 128 ≠ k) → ∃ t, exec (.evgComplete c v) s = .next t ∧
     Raises 69 ((s.setReg R.EVG_FAULTINFO (BitVec.ofNat 32 (v.toNat % 128 + (if c = .fast then 128 else 0) + 256 * (evgStack s c).headD 0 + (if evgStack s c = [] then 32768 else 0)))).bump R.EVG_FAULTCNT 1) t))

/-- Pending bits and lines (R259): SETPEND sets the bits written as 1 and CLRPEND clears them, save that a level source which is not active follows its line; the line of a level source moves its pending bit unless the source is active or SETPEND holds it, and no other source has a line. Classes and priorities (R267): a write takes effect for every source it names that is not active; for an active one nothing changes and CFGLOST is set. -/
def Obligations.PendingBitsAndActiveSources : Prop :=
  ((∀ (k : BitVec 2) (v : Word) (s : State), CleanWrite s (R.EVG_SETPEND k.toNat) v → ∃ t, exec (.evgSetPend k v) s = .next t ∧
     (∀ i < 128, t.evg.pend.getLsbD i = (s.evg.pend.getLsbD i || (decide (i / 32 = k.toNat) && v.getLsbD (i % 32)))) ∧
     t.evg.active = s.evg.active ∧ t.evg.line = s.evg.line ∧ (∀ c, evgStack t c = evgStack s c) ∧ RegsBut evgCounters s t ∧
     t = { s with regs := t.regs, out := t.out, evg := t.evg, hif := t.hif }) ∧
   (∀ (k : BitVec 2) (v : Word) (s : State), CleanWrite s (R.EVG_CLRPEND k.toNat) v → ∃ t, exec (.evgClrPend k v) s = .next t ∧
     (∀ i < 128, t.evg.pend.getLsbD i = if i / 32 = k.toNat ∧ v.getLsbD (i % 32) = true
       then evgIsLevel i && !s.evg.active.getLsbD i && s.evg.line.getLsbD i else s.evg.pend.getLsbD i) ∧
     t.evg.active = s.evg.active ∧ t.evg.line = s.evg.line ∧ (∀ c, evgStack t c = evgStack s c) ∧ RegsBut evgCounters s t ∧
     t = { s with regs := t.regs, out := t.out, evg := t.evg, hif := t.hif }) ∧
   (∀ (k : BitVec 7) (on : Bool) (s : State), evgIsLevel k.toNat = false → exec (.levelLine k on) s = .next s) ∧
   (∀ (k : BitVec 7) (on : Bool) (s : State), evgIsLevel k.toNat = true → ∃ t, exec (.levelLine k on) s = .next t ∧
     t.evg.line.getLsbD k.toNat = on ∧ (∀ i, i ≠ k.toNat → t.evg.line.getLsbD i = s.evg.line.getLsbD i ∧ t.evg.pend.getLsbD i = s.evg.pend.getLsbD i) ∧
     t.evg.pend.getLsbD k.toNat = (if s.evg.active.getLsbD k.toNat then s.evg.pend.getLsbD k.toNat else on || s.evg.sticky.getLsbD k.toNat) ∧
     t.evg.active = s.evg.active ∧ (∀ c, evgStack t c = evgStack s c) ∧ RegsBut evgCounters s t ∧ t = { s with regs := t.regs, out := t.out, evg := t.evg, hif := t.hif })) ∧
  ((∀ (k : BitVec 2) (v : Word) (s : State), CleanWrite s (R.EVG_FAST k.toNat) v → ∃ t, exec (.evgFast k v) s = .next t ∧
     (∀ i < 32, t.regBit (R.EVG_FAST k.toNat) i = if s.evg.active.getLsbD (32 * k.toNat + i) then s.regBit (R.EVG_FAST k.toNat) i else v.getLsbD i) ∧
     t.regBit R.EVG_STAT 0 = (s.regBit R.EVG_STAT 0 || (List.range 32).any fun i => s.evg.active.getLsbD (32 * k.toNat + i)) ∧
     RegsBut ([R.EVG_FAST k.toNat, R.EVG_STAT] ++ evgCounters) s t ∧ t.evg.pend = s.evg.pend ∧ t.evg.active = s.evg.active ∧ (∀ c, evgStack t c = evgStack s c)) ∧
   (∀ (k : BitVec 4) (v : Word) (s : State), CleanWrite s (R.EVG_PRIO k.toNat) v → ∃ t, exec (.evgPrio k v) s = .next t ∧
     (∀ i < 8, t.regF (R.EVG_PRIO k.toNat) (4 * i) 4 = if s.evg.active.getLsbD (8 * k.toNat + i) then s.regF (R.EVG_PRIO k.toNat) (4 * i) 4 else fld v.toNat (4 * i) 4) ∧
     t.regBit R.EVG_STAT 0 = (s.regBit R.EVG_STAT 0 || (List.range 8).any fun i => s.evg.active.getLsbD (8 * k.toNat + i)) ∧
     RegsBut ([R.EVG_PRIO k.toNat, R.EVG_STAT] ++ evgCounters) s t ∧ t.evg.pend = s.evg.pend ∧ t.evg.active = s.evg.active ∧ (∀ c, evgStack t c = evgStack s c)))

/-! ### Register access -/

/-- The four views (R6, R7, R64 to R66, R68): for a register whose writes do nothing beyond its own bits, a plain write replaces the RW bits and clears the W1C bits written as 1, SET sets, CLR clears RW and W1C bits, and MASKED writes the low half under the high half; outside SERVICE and RETIRED a plain write also takes reserved bits; no other bit, register or state changes but a held low word, which is dropped. A field that would take a reserved encoding keeps its value, logged with cause 0x7. CLRCNT (R71, R144): the counters and peaks of the block are 0, and no register of another block and no other state changes, but a low word that HIF holds is dropped. -/
def Obligations.ViewsAndClrCntWriteWhatTheyName : Prop :=
  (∀ (src : Src) (off : BitVec 22) (p : Nat) (r : RegRow) (v : Word) (s : State), RegsOk s → s.power.retired = false → writeOpen s src = true → p = plainOf off.toNat → p % 4 = 0 → rowAt p = some r →
     isWideRw p = false → isWideRw (p - 4) = false → slowOf p r = none → r.rw ||| r.w1c ≠ 0 → (∀ u w, wrReg u src p w = putRw u p w) →
     ((v &&& r.rsvk = s.reg p &&& r.rsvk ∨ (s.lcs ≠ 3 ∧ s.lcs ≠ 4)) → EncOk s p r 0 v → ∃ t, exec (.registerWrite src (BitVec.ofNat 22 p) 4 (v.setWidth 64)) s = .next t ∧
       t.reg p = (s.reg p &&& ~~~(r.rw ||| r.rsvk ||| (v &&& r.w1c))) ||| (v &&& (r.rw ||| r.rsvk)) ∧ RegsBut [p] s t ∧ t = { s with regs := t.regs, wrShadow := t.wrShadow }) ∧
     (EncOk s p r 1 v → ∃ t, exec (.aliasSet src off v) s = .next t ∧ t.reg p = s.reg p ||| (v &&& r.rw) ∧ RegsBut [p] s t ∧ t = { s with regs := t.regs, wrShadow := t.wrShadow }) ∧
     (EncOk s p r 2 v → ∃ t, exec (.aliasClr src off v) s = .next t ∧ t.reg p = s.reg p &&& ~~~(v &&& (r.rw ||| r.w1c)) ∧ RegsBut [p] s t ∧ t = { s with regs := t.regs, wrShadow := t.wrShadow }) ∧
     (r.rsvk &&& 0xFFFF0000 = 0xFFFF0000 → EncOk s p r 3 v → ∃ t, exec (.aliasMasked src off v) s = .next t ∧
       t.reg p = (s.reg p &&& ~~~((v >>> 16) &&& 0xFFFF &&& r.rw)) ||| (v &&& ((v >>> 16) &&& 0xFFFF &&& r.rw)) ∧ RegsBut [p] s t ∧ t = { s with regs := t.regs, wrShadow := t.wrShadow }) ∧
     (v &&& r.rsvk = s.reg p &&& r.rsvk → ¬ EncOk s p r 0 v → r.w1c = 0 → ∃ t, exec (.registerWrite src (BitVec.ofNat 22 p) 4 (v.setWidth 64)) s = .next t ∧
       t.regF R.GLB_ACCERR 24 4 = 7 ∧ t.regF R.GLB_ACCERR 0 22 = p ∧ RegsBut [p, R.GLB_ACCERR, R.GLB_ACCCNT] s t ∧ t = { s with regs := t.regs, wrShadow := t.wrShadow } ∧
       ∀ e ∈ badFields r (liveReg s p) ((liveReg s p &&& ~~~r.rw) ||| (v &&& r.rw)), t.regF p e.lsb e.width = s.regF p e.lsb e.width)) ∧
  ((∀ p ∈ [(ClrBlock.shale, 15, [R.REC_DROPCNT, R.REC_SUPPCNT, R.REC_FLUSHCNT, R.REC_CRCCNT]), (ClrBlock.cyc, 3, [R.CYC_WORKPEAK, R.CYC_OVRCNT, R.CYC_SKIPCNT, R.CYC_DEFERCNT]), (ClrBlock.hif, 1, [R.HIF_FETCHCNT, R.HIF_CMPLCNT, R.HIF_DISCCNT, R.HIF_RINGERRCNT]),
       (ClrBlock.lane, 5, [R.LANE_MSGDROP, R.LANE_EXCNT, R.LANE_RJCNT]), (ClrBlock.sby, 12, [R.SBY_SWCNT, R.SBY_LOSTCNT]), (ClrBlock.vio, 13, [R.VIO_CFCNT, R.VIO_CRCCNT]),
       (ClrBlock.pwr, 18, [R.PWR_PFWCNT]), (ClrBlock.rge, 4, [R.RGE_SETCNT, R.RGE_LOCKCNT, R.RGE_UNSETCNT, R.RGE_RETCNT, R.RGE_EXHCNT, R.RGE_ORPHCNT, R.RGE_ERELCNT])],
     ∀ s : State, RegsOk s → s.power.retired = false → ∃ t, exec (.clrCnt p.1) s = .next t ∧ (∀ off ∈ p.2.2, t.reg off = 0) ∧ (∀ off, off / 0x10000 ≠ p.2.1 → t.reg off = s.reg off) ∧
       (p.1 = .rge → t.regF R.RGE_WAVES 16 9 = 0) ∧ t = { s with regs := t.regs, wrShadow := if p.1 = .hif then t.wrShadow else s.wrShadow }) ∧
   (∀ (i : BitVec 4) (s : State), RegsOk s → s.power.retired = false → ∃ t, exec (.clrCnt .fsn) s = .next t ∧ t.reg (R.FSN_P_RXCNT i.toNat) = 0 ∧ t.reg (R.FSN_P_RXERRCNT i.toNat) = 0 ∧
     t.reg (R.FSN_P_CUTCNT i.toNat) = 0 ∧ t.reg (R.FSN_P_BABCNT i.toNat) = 0 ∧ t.reg (R.FSN_P_LATECNT i.toNat) = 0 ∧
     (∀ off, off / 0x10000 ≠ 6 → t.reg off = s.reg off) ∧ t = { s with regs := t.regs }) ∧
   (∀ (l : BitVec 2) (s : State), RegsOk s → s.power.retired = false → ∃ t, exec (.clrCnt .frn) s = .next t ∧ t.reg (R.FRN_L_RXCNT l.toNat) = 0 ∧ t.reg (R.FRN_L_RXERRCNT l.toNat) = 0 ∧
     t.reg (R.FRN_L_CUTCNT l.toNat) = 0 ∧ (∀ off, off / 0x10000 ≠ 7 → t.reg off = s.reg off) ∧ t = { s with regs := t.regs }) ∧
   (∀ (n : BitVec 2) (s : State), RegsOk s → s.power.retired = false → ∃ t, exec (.clrCnt (.can n)) s = .next t ∧ t.reg (R.CAN_TXCNT n.toNat) = 0 ∧ t.reg (R.CAN_RXCNT n.toNat) = 0 ∧
     t.reg (R.CAN_ERRCNT n.toNat) = 0 ∧ t.reg (R.CAN_DUPCNT n.toNat) = 0 ∧ t.reg (R.CAN_VLATECNT n.toNat) = 0 ∧ t.reg (R.CAN_VRXERRCNT n.toNat) = 0 ∧
     (∀ off, off / 0x10000 ≠ 8 + n.toNat → t.reg off = s.reg off) ∧ t = { s with regs := t.regs }))

/-- Unassigned offsets (R69), for accesses that R50 opens: a read returns 0 and a write has no effect, and each is logged with cause 0x2; every offset beyond 0x13_FFFF is unassigned. -/
def Obligations.UnassignedOffsetsReadZeroAndLog : Prop :=
  (∀ (src : Src) (off : BitVec 22) (s : State), readOpen s src (plainOf off.toNat) = true → off.toNat % 4 = 0 → rowAt (plainOf off.toNat) = none →
    exec (.readShadow src ⟨off, 4⟩) s = .next { s.logAccess off.toNat 2 with lastRead := 0 }) ∧
  (∀ (src : Src) (off : BitVec 22) (v : DWord) (s : State), writeOpen s src = true → off.toNat % 4 = 0 → rowAt (plainOf off.toNat) = none →
    exec (.registerWrite src off 4 v) s = .next (s.logAccess off.toNat 2)) ∧
  (∀ off : BitVec 22, 0x140000 ≤ off.toNat → rowAt (plainOf off.toNat) = none) ∧
  (∀ (off : BitVec 22) (cause : Nat) (s : State), cause < 16 → RegsBut [R.GLB_ACCERR, R.GLB_ACCCNT] s (s.logAccess off.toNat cause) ∧
    (RegsOk s → (s.logAccess off.toNat cause).regF R.GLB_ACCERR 0 22 = off.toNat ∧ (s.logAccess off.toNat cause).regF R.GLB_ACCERR 24 4 = cause ∧
      (s.logAccess off.toNat cause).regF R.GLB_ACCCNT 0 16 = min (s.regF R.GLB_ACCCNT 0 16 + 1) 0xFFFF))

/-- Accesses without effect (R50, R62, R63, R65, R66, R68, R404, R420): a write or a read that the life-cycle state closes to PORT_MAINT does nothing, and of a module stopped in RETIRED only identities are read, and no write takes effect (R420); another width or alignment, an alias write to a register without RW and W1C bits, a MASKED write to one whose upper half is not reserved, and in SERVICE and RETIRED a plain write that would change a reserved bit change nothing, and a read of these returns 0; they are logged with causes 0x1, 0x5, 0x4 and 0x3. An aligned access of 8 bytes is two of 4, the lower address first. Every other row of the table that writes one register is the write of that register's plain view, or of the view it names. -/
def Obligations.RefusedAccessesAreLogged : Prop :=
  (∀ (src : Src) (off : BitVec 22) (w : Nat) (v : DWord) (s : State), writeOpen s src = true → ((w ≠ 4 ∧ w ≠ 8) ∨ (w = 4 ∧ off.toNat % 4 ≠ 0) ∨ (w = 8 ∧ off.toNat % 8 ≠ 0)) →
    exec (.registerWrite src off w v) s = .next (s.logAccess off.toNat 1)) ∧
  (∀ (src : Src) (off : BitVec 22) (w : Nat) (v : DWord) (s : State), writeOpen s src = false → exec (.registerWrite src off w v) s = .next s) ∧
  (∀ s : State, writeOpen s .pcie = true ∧ (writeOpen s .maint = true ↔ s.lcs = 0 ∨ s.lcs = 2)) ∧
  (∀ (src : Src) (off : BitVec 22) (s : State), readOpen s src (plainOf off.toNat) = true →
    (∀ w, (w ≠ 4 ∧ w ≠ 8) ∨ (w = 8 ∧ off.toNat % 8 ≠ 0) → exec (.readShadow src ⟨off, w⟩) s = .next { s.logAccess off.toNat 1 with lastRead := 0, lastLow := 0 }) ∧
    (off.toNat % 4 ≠ 0 → exec (.readShadow src ⟨off, 4⟩) s = .next { s.logAccess off.toNat 1 with lastRead := 0 })) ∧
  (∀ (src : Src) (off : BitVec 22) (w : Nat) (s : State), readOpen s src (plainOf off.toNat) = false → (w ≠ 8 ∨ off.toNat % 8 ≠ 0) → exec (.readShadow src ⟨off, w⟩) s = .next s) ∧
  (∀ (off : Nat) (s : State), s.power.retired = true → readOpen s .pcie off = identityOff off ∧ (readOpen s .maint off = true → identityOff off = true)) ∧
  (∀ (off : Nat) (s : State), s.power.retired = false → readOpen s .pcie off = true ∧ (s.lcs = 4 → (readOpen s .maint off = true ↔ identityOff off = true)) ∧ ((s.lcs = 0 ∨ s.lcs = 2) → readOpen s .maint off = true) ∧
    ((s.lcs = 1 ∨ s.lcs = 3) → (readOpen s .maint off = true ↔ readActs off = false))) ∧
  (∀ (src : Src) (off : BitVec 22) (v : DWord) (s : State), off.toNat % 8 = 0 →
    (∃ t u, exec (.registerWrite src off 8 v) s = .next t ∧ exec (.registerWrite src off 4 (v &&& 0xFFFFFFFF)) s = .next u ∧ exec (.registerWrite src (off + 4) 4 (v >>> 32)) u = .next t) ∧
    ∃ t u, exec (.readShadow src ⟨off, 8⟩) s = .next t ∧ exec (.readShadow src ⟨off, 4⟩) s = .next u ∧ exec (.readShadow src ⟨off + 4, 4⟩) { u with lastLow := u.lastRead } = .next t) ∧
  (∀ (src : Src) (off : BitVec 22) (r : RegRow) (v : Word) (s : State), writeOpen s src = true → plainOf off.toNat % 4 = 0 → rowAt (plainOf off.toNat) = some r →
    (r.rw ||| r.w1c = 0 → (∃ t, exec (.aliasSet src off v) s = .next t ∧ t = { s.logAccess (plainOf off.toNat + 0x4000) 5 with wrShadow := t.wrShadow }) ∧
      ∃ t, exec (.aliasClr src off v) s = .next t ∧ t = { s.logAccess (plainOf off.toNat + 0x8000) 5 with wrShadow := t.wrShadow }) ∧
    (r.rw ||| r.w1c ≠ 0 → r.rsvk &&& 0xFFFF0000 ≠ 0xFFFF0000 →
      ∃ t, exec (.aliasMasked src off v) s = .next t ∧ t = { s.logAccess (plainOf off.toNat + 0xC000) 4 with wrShadow := t.wrShadow }) ∧
    ((s.lcs = 3 ∨ s.lcs = 4) → v &&& r.rsvk ≠ s.reg (plainOf off.toNat) &&& r.rsvk → ∃ t, exec (.writeShadow src off v) s = .next t ∧
      t = { s.logAccess (plainOf off.toNat) 3 with wrShadow := t.wrShadow }) ∧
    (s.power.retired = true → v &&& r.rsvk = s.reg (plainOf off.toNat) &&& r.rsvk → ∃ t, exec (.writeShadow src off v) s = .next t ∧ t = { s with wrShadow := t.wrShadow })) ∧
  (∀ (src : Src) (off : BitVec 22) (v : Word) (s : State), exec (.postedWrite src off v) s = exec (.registerWrite src off 4 (v.setWidth 64)) s ∧
    ∀ e ∈ [(Instr.writeShadow src off v, 0), (.aliasSet src off v, 0x4000), (.aliasClr src off v, 0x8000), (.aliasMasked src off v, 0xC000)],
      exec e.1 s = exec (.registerWrite src (BitVec.ofNat 22 (plainOf off.toNat + e.2)) 4 (v.setWidth 64)) s) ∧
  (∀ (src : Src) (v : Word) (s : State), ∀ e ∈ [(Instr.glbAccCntClear src v, R.GLB_ACCCNT), (.klnCmdRun src v, R.KLN_CMD)], exec e.1 s = exec (.registerWrite src (BitVec.ofNat 22 e.2) 4 (v.setWidth 64)) s) ∧
  ∀ (n : BitVec 4) (k : BitVec 2) (v : Word) (s : State), ∀ e ∈ [(Instr.hifSqEn n v, R.HIF_SQ_CTRL n.toNat), (.hifCqEn n v, R.HIF_CQ_CTRL n.toNat), (.evgComplete .normal v, R.EVG_NCOMPLETE), (.evgComplete .fast v, R.EVG_FCOMPLETE),
      (.evgSetPend k v, R.EVG_SETPEND k.toNat), (.evgClrPend k v, R.EVG_CLRPEND k.toNat), (.evgFast k v, R.EVG_FAST k.toNat), (.evgPrio n v, R.EVG_PRIO n.toNat), (.fsnCtrlEn v, R.FSN_CTRL), (.fsnSchChkGo v, R.FSN_SCHCHK),
      (.fsnModeGo v, R.FSN_MODE), (.canCtrlEn k v, R.CAN_CTRL k.toNat), (.txReq k v, R.CAN_TXREQ k.toNat), (.txCan k v 0, R.CAN_TXCAN k.toNat), (.objReqReq k v, R.CAN_OBJREQ k.toNat), (.objReqCan k v false, R.CAN_OBJREQ k.toNat),
      (.objSel k v, R.CAN_OBJSEL k.toNat), (.chkGo k v true, R.CHKU_CTRL k.toNat), (.bgEn v, R.CHK_CTRL), (.flush v, R.REC_CTRL), (.updLcCmdGo v, R.UPD_LCCMD)],
    exec e.1 s = exec (.registerWrite .pcie (BitVec.ofNat 22 e.2) 4 (v.setWidth 64)) s

/-- Wide values (R70, R71): a read of the low word latches the high word of the same instant, which the next read of the high word returns whatever the live value has become, and an aligned read of 8 bytes returns both; a write of the low word has no effect until the high word commits both. Posted writes and the access log (R73, R76): a write to a slow register sets BUSY and changes nothing else until its domain has taken it, a further one while BUSY is set is lost with LOST and cause 0x6, and once taken the register reads as written. A 1 to GLB_ACCCNT.CLR clears the access log. -/
def Obligations.WideAndPostedAccessesKeepTheirOrder : Prop :=
  ((∀ (src : Src) (low : Nat) (s : State), s.power.retired = false → (src = .pcie ∨ s.lcs ≠ 4) → low ∈ [R.GLB_OPTIME_LO, R.CYC_NUM_LO, R.CYC_T0_LO, R.CYC_TB_LO] → ∃ t,
     exec (.readShadow src ⟨BitVec.ofNat 22 low, 4⟩) s = .next t ∧ t.lastRead = liveReg s low ∧ t = { s with lastRead := t.lastRead, rdShadow := t.rdShadow } ∧
     ∀ x : State, x.rdShadow = t.rdShadow → x.lcs = s.lcs → x.power.retired = false → exec (.readShadow src ⟨BitVec.ofNat 22 (low + 4), 4⟩) x = .next { x with lastRead := liveReg s (low + 4) }) ∧
   (∀ (src : Src) (low : Nat) (s : State), s.power.retired = false → (src = .pcie ∨ s.lcs ≠ 4) → low ∈ [R.GLB_OPTIME_LO, R.CYC_NUM_LO, R.CYC_T0_LO, R.CYC_TB_LO] → ∃ t,
     exec (.readShadow src ⟨BitVec.ofNat 22 low, 8⟩) s = .next t ∧ t.lastLow = liveReg s low ∧ t.lastRead = liveReg s (low + 4)) ∧
   (∀ (src : Src) (u : BitVec 2) (v w : Word) (s : State), RegsOk s → s.power.retired = false → writeOpen s src = true → chkOpen s u.toNat = true → ∃ t,
     exec (.writeShadow src (BitVec.ofNat 22 (R.CHKU_ADDR_LO u.toNat)) v) s = .next t ∧ t = { s with wrShadow := t.wrShadow } ∧ ∃ x,
     exec (.writeShadow src (BitVec.ofNat 22 (R.CHKU_ADDR_HI u.toNat)) w) t = .next x ∧ x.wide (R.CHKU_ADDR_LO u.toNat) = w ++ v ∧
     RegsBut [R.CHKU_ADDR_LO u.toNat, R.CHKU_ADDR_HI u.toNat] s x)) ∧
  ((∀ (src : Src) (v : Word) (s : State), RegsOk s → s.power.retired = false → writeOpen s src = true → s.regBit (R.PSTAT 0x12) 0 = false → v &&& 0xFFFFFF00 = s.reg R.PWR_TEMPCFG &&& 0xFFFFFF00 → s.posted = [] →
     60 ≤ (v &&& 0xFF).toNat → (v &&& 0xFF).toNat ≤ 125 → ∃ t, exec (.postedWrite src (BitVec.ofNat 22 R.PWR_TEMPCFG) v) s = .next t ∧
     t.regBit (R.PSTAT 0x12) 0 = true ∧ RegsBut [R.PSTAT 0x12] s t ∧ t = { s with regs := t.regs, wrShadow := t.wrShadow, posted := [(.pwr, R.PWR_TEMPCFG, v)] } ∧
     (∃ u, exec (.postedWrite src (BitVec.ofNat 22 R.PWR_TEMPCFG) v) t = .next u ∧ u.posted = t.posted ∧ u.regBit (R.PSTAT 0x12) 1 = true ∧ u.regF R.GLB_ACCERR 24 4 = 6 ∧
       u.reg R.PWR_TEMPCFG = s.reg R.PWR_TEMPCFG) ∧
     ∃ u, exec (.postedWriteDone .pwr) t = .next u ∧ u.posted = [] ∧ u.regBit (R.PSTAT 0x12) 0 = false ∧ u.reg R.PWR_TEMPCFG = v) ∧
   (∀ (src : Src) (v : Word) (s : State), CleanWrite s R.GLB_ACCCNT v → writeOpen s src = true → v.getLsbD 16 = true → ∃ t, exec (.glbAccCntClear src v) s = .next t ∧
     t.reg R.GLB_ACCERR = 0 ∧ t.reg R.GLB_ACCCNT = v &&& 0xFFFE0000 ∧ RegsBut [R.GLB_ACCERR, R.GLB_ACCCNT] s t ∧ t = { s with regs := t.regs }) ∧
   (∀ (src : Src) (v : Word) (s : State), CleanWrite s R.GLB_ACCCNT v → v.getLsbD 16 = false → exec (.glbAccCntClear src v) s = .next s) ∧
   ∀ (b : SlowBlock) (s : State), (∀ x ∈ s.posted, x.1 ≠ b) → exec (.postedWriteDone b) s = .next s)

/-! ### Requests on elements and routes -/

/-- Every lane's memory stays in canonical form, no lane controller keeps a step in its delay registers between commands, and the tables of the networks keep their number of entries. -/
def Obligations.StepKeepsLaneMemoriesAndTables : Prop :=
  (SramOk State.reset ∧ ShapeOk State.reset ∧ CtlIdle State.reset) ∧ (∀ s t : State, SramOk s → step s = .next t → SramOk t) ∧
  (∀ s t : State, ShapeOk s → step s = .next t → ShapeOk t) ∧ ∀ s t : State, SramOk s → CtlIdle s → step s = .next t → CtlIdle t

/-- POINT_MOVE and SIGNAL_RESTORE (R138): POINT_MOVE writes CMD and clears MOVET of a field-bound point or crossing whose CLAIM is FREE and STATUS PROVEN, and is turned away with CONFLICT where it is claimed and REJECTED_STATE elsewhere; SIGNAL_RESTORE sets RESTQ of a signal. ELEMENT_BLOCK (R83, R138): block and unblock write BLK of any element that has a type, without reading CLAIM; clear, only with a key that is turned to RESET, ends a wait for a sweep and takes a FAULTED element to UNPROVEN with its counter at 0, and is turned away where there is nothing to clear; an element without a type is turned away. -/
def Obligations.ElementRequestsWriteTheirWords : Prop :=
  ((∀ (q : Req) (m : Loam) (s : State), SramOk s → Ready opPointMove q m s → ∃ t, exec (.pointMove q) s = .next t ∧ InEachRunning s t fun l x y =>
     ((m.elem (reqIndex q)).field = true → ((m.elem (reqIndex q)).ty = tyPnt ∨ (m.elem (reqIndex q)).ty = tyXng) →
       (claimOf (ctxOf s l) x (reqIndex q) = 0 → statusOf (ctxOf s l) x (reqIndex q) = 3 → ElementWork x y ∧ Answers s opPointMove q stAccepted (routeResult (reqIndex q) 0 0 none) x y ∧
         Wrote l (reqIndex q) (iputs (infoOf (ctxOf s l) x (reqIndex q)) [(7, 2, reqArg q 24 1), (0, if (m.elem (reqIndex q)).ty = tyPnt then 7 else 5, 0)]) x y) ∧
       (claimOf (ctxOf s l) x (reqIndex q) ≠ 0 → TurnedAway s opPointMove q stConflict x y) ∧
       (claimOf (ctxOf s l) x (reqIndex q) = 0 → statusOf (ctxOf s l) x (reqIndex q) ≠ 3 → TurnedAway s opPointMove q stState x y)) ∧
     (((m.elem (reqIndex q)).field = false ∨ ((m.elem (reqIndex q)).ty ≠ tyPnt ∧ (m.elem (reqIndex q)).ty ≠ tyXng)) → TurnedAway s opPointMove q stState x y)) ∧
   ∀ (q : Req) (m : Loam) (s : State), SramOk s → Ready opRestore q m s → ∃ t, exec (.signalRestore q) s = .next t ∧ InEachRunning s t fun l x y =>
     ((m.elem (reqIndex q)).ty = tySig → ElementWork x y ∧ Answers s opRestore q stDone (routeResult (reqIndex q) 0 0 none) x y ∧
       Wrote l (reqIndex q) (iput (infoOf (ctxOf s l) x (reqIndex q)) 2 1 1) x y) ∧
     ((m.elem (reqIndex q)).ty ≠ tySig → TurnedAway s opRestore q stState x y)) ∧
  (∀ (q : Req) (m : Loam) (s : State), SramOk s → q.args.length = 44 →
     (Ready opBlock (withAction q 1) m s → ∃ t, exec (.elementBlockBlock q) s = .next t ∧ InEachRunning s t fun l x y =>
       ((m.elem (reqIndex q)).ty ≠ tyNone → ElementWork x y ∧
         (∃ r, Answers s opBlock (withAction q 1) stDone r x y) ∧ Wrote l (reqIndex q) (iput (infoOf (ctxOf s l) x (reqIndex q)) 21 1 1) x y) ∧
       ((m.elem (reqIndex q)).ty = tyNone → TurnedAway s opBlock (withAction q 1) stState x y)) ∧
     (Ready opBlock (withAction q 0) m s → ∃ t, exec (.elementBlockUnblock q) s = .next t ∧ InEachRunning s t fun l x y =>
       ((m.elem (reqIndex q)).ty ≠ tyNone → ElementWork x y ∧
         (∃ r, Answers s opBlock (withAction q 0) stDone r x y) ∧ Wrote l (reqIndex q) (iput (infoOf (ctxOf s l) x (reqIndex q)) 21 1 0) x y) ∧
       ((m.elem (reqIndex q)).ty = tyNone → TurnedAway s opBlock (withAction q 0) stState x y)) ∧
     (Ready opBlock (withAction q 2) m s → LoadsOk m s → ∃ t, exec (.elementBlockClear q) s = .next t ∧ InEachRunning s t fun l x y =>
       (keyAuthority (ctxOf s l) m x (·.reset) = false → TurnedAway s opBlock (withAction q 2) stPort x y) ∧
       (keyAuthority (ctxOf s l) m x (·.reset) = true → (m.elem (reqIndex q)).ty = tyNone → TurnedAway s opBlock (withAction q 2) stState x y) ∧
       (∀ fs, keyAuthority (ctxOf s l) m x (·.reset) = true → (m.elem (reqIndex q)).ty ≠ tyNone →
         fs = (if (m.elem (reqIndex q)).ty = tyTrk ∧ wfld (ctxOf s l) x (reqIndex q) 9 1 = 1 then [(9, 1, 0)] else []) ++
           (if statusOf (ctxOf s l) x (reqIndex q) = 0 then (22, 2, 1) :: (match (m.elem (reqIndex q)).ty with | 1 => [(3, 4, 0)] | 2 => [(0, 7, 0)] | 3 => [(0, 2, 0)] | 4 => [(0, 5, 0)] | _ => []) else []) →
         (fs = [] → TurnedAway s opBlock (withAction q 2) stState x y) ∧
         (fs ≠ [] → ElementWork x y ∧ (∃ r, Answers s opBlock (withAction q 2) stDone r x y) ∧ Wrote l (reqIndex q) (iputs (infoOf (ctxOf s l) x (reqIndex q)) fs) x y))))

/-- Route requests (R113, R114, R127, R131, R132, R137): ROUTE_SET of an IDLE route takes the lowest FREE record and the next age and writes RSTATE SEARCHING, one of a route whose signal has been restored proves it again, and without a record it is turned away with BUSY, in any other state or with a bad row with REJECTED_STATE. ROUTE_CANCEL marks a LOCKING wave and sends any other back, releases a locked route whole, and of a proved one restores the entry signal, starts the approach timer and writes RELEASING_TIMED; ROUTE_RELEASE_EMERGENCY does so with RELEASING_EMERGENCY, only with its key, and releases a chain at its head. -/
def Obligations.RouteRequestsStartAndEndRoutes : Prop :=
  (∀ (q : Req) (m : Loam) (s : State), SramOk s → Ready opRouteSet q m s → LoadsOk m s → ∃ t, exec (.routeSet q) s = .next t ∧ InEachRunning s t fun l x y =>
    (((m.elem (reqIndex q)).ty ≠ tyRte ∨ rowOk m x (reqIndex q) = false ∨ (rstateOf (ctxOf s l) x (reqIndex q) ≠ 0 ∧
      ¬ (rstateOf (ctxOf s l) x (reqIndex q) = 5 ∧ wfld (ctxOf s l) x (reqIndex q) 2 1 = 1))) → TurnedAway s opRouteSet q stState x y) ∧
    ((m.elem (reqIndex q)).ty = tyRte → rowOk m x (reqIndex q) = true →
      ((rstateOf (ctxOf s l) x (reqIndex q) = 0 ∨ (rstateOf (ctxOf s l) x (reqIndex q) = 5 ∧ wfld (ctxOf s l) x (reqIndex q) 2 1 = 1)) → freeRecord x = none → TurnedAway s opRouteSet q stBusy x y) ∧
      (∀ n, freeRecord x = some n → rstateOf (ctxOf s l) x (reqIndex q) = 0 →
        Wrote l (reqIndex q) (iputs (infoOf (ctxOf s l) x (reqIndex q)) [(7, 4, 1), (11, 8, n), (3, 4, 0)]) x y ∧ y.words = x.words ∧
        y.reg.ageCtr = x.reg.ageCtr + 1 ∧ y.rpt.setCnt = x.rpt.setCnt + 1 ∧ y.reg.overrides = x.reg.overrides ∧ y.reg.proposal = x.reg.proposal ∧
        ∃ w, y.reg.waves = x.reg.waves ++ [w] ∧ w.num = BitVec.ofNat 8 n ∧ w.st = .searching ∧ w.rte = reqIndex q ∧ w.age = x.reg.ageCtr ∧ w.trail = [] ∧ w.req = q ∧ w.copied = false ∧
          w.here = (rowOf m x (reqIndex q)).entry ∧ w.accepted = s.cyc.cycle) ∧
      (freeRecord x ≠ none → rstateOf (ctxOf s l) x (reqIndex q) = 5 → wfld (ctxOf s l) x (reqIndex q) 2 1 = 1 → ElementWork x y ∧
        ((∃ r, Answers s opRouteSet q stDone r x y) ∧ ifld (sramInfo l y.sram (reqIndex q)) 7 4 = 6 ∧ 81 ∈ y.rpt.sources ∨ (∃ r, Answers s opRouteSet q stConflict r x y) ∧ y.sram = x.sram)))) ∧
  (∀ (q : Req) (m : Loam) (s : State) (i e : ElemIx), SramOk s → LoadsOk m s → i = reqIndex q →
    (Ready opRouteCancel q m s → ∃ t, exec (.routeCancel q) s = .next t ∧ InEachRunning s t fun l x y =>
      (((m.elem i).ty ≠ tyRte ∨ rstateOf (ctxOf s l) x i = 0 ∨ 7 ≤ rstateOf (ctxOf s l) x i) → TurnedAway s opRouteCancel q stState x y) ∧
      ((m.elem i).ty = tyRte → (rstateOf (ctxOf s l) x i = 1 ∨ rstateOf (ctxOf s l) x i = 2) →
        (waveFor x i = none → (∃ r, Answers s opRouteCancel q stDone r x y) ∧ y.sram = x.sram ∧ y.reg = x.reg) ∧
        ∀ w, waveFor x i = some w → y.words.getLast? = some (.cmpl (mkCmpl opRouteCancel q stDone s.cyc.cycle (routeResult i (ifld (sramInfo l y.sram i) 7 4) (ifld (sramInfo l y.sram i) 3 4) none))) ∧
          (w.st = .locking → y.sram = x.sram ∧ waveFor y i = some { w with cancel := true }) ∧
          (w.st ≠ .locking → w.st ≠ .retreating → w.trail ≠ [] → y.sram = x.sram ∧ waveFor y i = some { w with retreat := .ending 7, flanks := [], st := .retreating }) ∧
          (∀ f, w.st = .retreating → w.retreat = .ending f → y.sram = x.sram ∧ waveFor y i = some w) ∧
          (w.st = .retreating → (∀ f, w.retreat ≠ .ending f) → w.trail ≠ [] → y.sram = x.sram ∧ waveFor y i = some { w with retreat := .ending 7, flanks := [] }) ∧
          (w.st ≠ .locking → w.st ≠ .retreating → w.trail = [] → ifld (sramInfo l y.sram i) 7 4 = 0 ∧ ifld (sramInfo l y.sram i) 3 4 = 7 ∧ 80 ∈ y.rpt.sources ∧ waveOf y w.num.toNat = none ∧
            ∃ c d, y.words = x.words ++ (if w.copied then [] else [.cmpl c]) ++ [.cmpl d] ∧ c.seq = w.req.seq ∧ c.status = BitVec.ofNat 8 stCancelled)) ∧
      ((m.elem i).ty = tyRte → (rstateOf (ctxOf s l) x i = 3 ∨ rstateOf (ctxOf s l) x i = 4 ∨ (rstateOf (ctxOf s l) x i = 5 ∧ wfld (ctxOf s l) x i 2 1 = 0)) →
        ElementWork x y ∧ (∃ r, Answers s opRouteCancel q stDone r x y) ∧ ifld (sramInfo l y.sram i) 7 4 = 0 ∧ ifld (sramInfo l y.sram i) 11 8 = 0 ∧ 83 ∈ y.rpt.sources) ∧
      ((m.elem i).ty = tyRte → (rowOf m x i).entry = e → e < m.elems.length → e ≠ i → (∀ k, timerOf m i = some k → k < m.elems.length ∧ k ≠ i ∧ k ≠ e) →
        (rstateOf (ctxOf s l) x i = 6 ∨ (rstateOf (ctxOf s l) x i = 5 ∧ wfld (ctxOf s l) x i 2 1 = 1)) → ElementWork x y ∧ (∃ r, Answers s opRouteCancel q stDone r x y) ∧
        sramInfo l y.sram i = iput (infoOf (ctxOf s l) x i) 7 4 8 ∧ sramInfo l y.sram e = iput (infoOf (ctxOf s l) x e) 2 1 1 ∧
        (∀ k, timerOf m i = some k → sramInfo l y.sram k = iputs (infoOf (ctxOf s l) x k) [(17, 2, 1), (0, 17, fld (paramOf m x k) 0 17)] ∧ y.timers = insertUp k x.timers) ∧
        ∀ j, j ≠ i → j ≠ e → timerOf m i ≠ some j → sramWord l y.sram j = sramWord l x.sram j)) ∧
    (Ready opEmergency q m s → ∃ t, exec (.routeReleaseEmergency q) s = .next t ∧ InEachRunning s t fun l x y =>
      (keyAuthority (ctxOf s l) m x (·.erelease) = false → TurnedAway s opEmergency q stPort x y) ∧
      (keyAuthority (ctxOf s l) m x (·.erelease) = true → (m.elem i).ty = tyRte → (rstateOf (ctxOf s l) x i < 3 ∨ 8 < rstateOf (ctxOf s l) x i) → TurnedAway s opEmergency q stState x y) ∧
      (keyAuthority (ctxOf s l) m x (·.erelease) = true → (m.elem i).ty = tyRte → (rowOf m x i).entry = e → e < m.elems.length → e ≠ i →
        (∀ k, timerOf m i = some k → k < m.elems.length ∧ k ≠ i ∧ k ≠ e) → 3 ≤ rstateOf (ctxOf s l) x i → rstateOf (ctxOf s l) x i ≤ 8 → ElementWork x y ∧
        (∃ r, Answers s opEmergency q stDone r x y) ∧ sramInfo l y.sram i = iput (infoOf (ctxOf s l) x i) 7 4 9 ∧ sramInfo l y.sram e = iput (infoOf (ctxOf s l) x e) 2 1 1 ∧
        (∀ k, timerOf m i = some k → sramInfo l y.sram k = if rstateOf (ctxOf s l) x i = 8 ∧ wfld (ctxOf s l) x k 17 2 = 1 then infoOf (ctxOf s l) x k
          else iputs (infoOf (ctxOf s l) x k) [(17, 2, 1), (0, 17, fld (paramOf m x k) 0 17)]) ∧ y.rpt.erelCnt = x.rpt.erelCnt + 1 ∧ 86 ∈ y.rpt.sources ∧
        ∀ j, j ≠ i → j ≠ e → timerOf m i ≠ some j → sramWord l y.sram j = sramWord l x.sram j) ∧
      (keyAuthority (ctxOf s l) m x (·.erelease) = true → (m.elem i).ty ≠ tyRte →
        ((rearPort (ctxOf s l) m x i = none ∨ isEntry (ctxOf s l) m x i = true ∨ precursor (ctxOf s l) m x i ≠ none) → TurnedAway s opEmergency q stState x y) ∧
        (rearPort (ctxOf s l) m x i ≠ none → isEntry (ctxOf s l) m x i = false → precursor (ctxOf s l) m x i = none → ElementWork x y ∧ (∃ r, Answers s opEmergency q stDone r x y) ∧
          ifld (sramInfo l y.sram i) 19 2 = 0 ∧ y.rpt.erelCnt = x.rpt.erelCnt + 1 ∧ 86 ∈ y.rpt.sources ∧ 87 ∈ y.rpt.sources))))

/-- Changing a value in service takes two requests (R167, R168): an accepted PARAM_PROPOSE opens the proposal with the cycle's number as its tag, a second one is turned away with BUSY, and a PARAM_CONFIRM of a later cycle that names it closes it as confirmed, while one that names another value discards it; one in the proposal's own cycle and one without a proposal change nothing. ELEMENT_READ (R249) returns the words and changes none. Each is turned away with the status of its first failing check. -/
def Obligations.ParametersChangeByTwoRequests : Prop :=
  (∀ (q : Req) (s : State) (st : Nat), q.maint = false → (∀ l, (s.lanes.get l).cx = none) →
    (paramFirst opPropose q s = some st → ∃ t, exec (.paramPropose q) s = .next t ∧ Refuses opPropose q st s t) ∧
    (paramFirst opConfirm q s = some st → ∃ t, exec (.paramConfirm q) s = .next t ∧ Refuses opConfirm q st s t)) ∧
  (∀ (q : Req) (m : Loam) (s : State) (i v : Nat), i = reqIndex q → v = reqArg q 24 4 → q.maint = false → s.loam = some m → (∀ l, (s.lanes.get l).cx = none) → paramFirst opPropose q s = none →
    ∃ t, exec (.paramPropose q) s = .next t ∧ InEachRunning s t fun _ x y =>
      (changeOk (m.elem i).ty (m.elem i).param0.toNat v = false → (∃ r, Answers s opPropose q stState r x y) ∧ WordsWork x y) ∧
      (changeOk (m.elem i).ty (m.elem i).param0.toNat v = true →
        (∀ p, x.reg.proposal = some p → (∃ r, Answers s opPropose q stBusy r x y) ∧ WordsWork x y) ∧
        (x.reg.proposal = none → assoc i x.reg.overrides = none → 4096 ≤ x.reg.overrides.length → (∃ r, Answers s opPropose q stState r x y) ∧ WordsWork x y) ∧
        (x.reg.proposal = none → (assoc i x.reg.overrides ≠ none ∨ x.reg.overrides.length < 4096) →
          Answers s opPropose q stAccepted (leBytes 4 i ++ leBytes 4 (paramOf m x i) ++ leBytes 4 v ++ leBytes 2 (s.cyc.cycle % 65536)) x y ∧
          y = { x with words := y.words, units := y.units, sigma := y.sigma, reg := { x.reg with
            proposal := some { elem := i, value := BitVec.ofNat 32 v, ptag := BitVec.ofNat 16 s.cyc.cycle, cycle := s.cyc.cycle } } }))) ∧
  (∀ (q : Req) (s : State), q.maint = false → (∀ l, (s.lanes.get l).cx = none) → paramFirst opConfirm q s = none →
    ∃ t, exec (.paramConfirm q) s = .next t ∧ InEachRunning s t fun _ x y =>
      (∀ p, x.reg.proposal = some p → p.cycle ≠ s.cyc.cycle → names q p = true → (∃ r, Answers s opConfirm q stDone r x y) ∧
        y = { x with words := y.words, units := y.units, sigma := y.sigma, reg := { x.reg with proposal := none, confirmed := some p } }) ∧
      (∀ p, x.reg.proposal = some p → p.cycle ≠ s.cyc.cycle → names q p = false → (∃ r, Answers s opConfirm q stState r x y) ∧
        y = { x with words := y.words, units := y.units, sigma := y.sigma, reg := { x.reg with proposal := none } }) ∧
      (∀ p, x.reg.proposal = some p → p.cycle = s.cyc.cycle → (∃ r, Answers s opConfirm q stState r x y) ∧ WordsWork x y) ∧
      (∀ p, x.reg.proposal = none → x.reg.expired = some p → names q p = true → (∃ r, Answers s opConfirm q stTimeout r x y) ∧ WordsWork x y) ∧
      (x.reg.proposal = none → (∀ p, x.reg.expired = some p → names q p = false) → (∃ r, Answers s opConfirm q stState r x y) ∧ WordsWork x y)) ∧
  (∀ (q : Req) (s : State), q.maint = false → (∀ l, (s.lanes.get l).cx = none) →
    (malformed opRead q = true → ∃ t, exec (.elementRead q) s = .next t ∧ Refuses opRead q stMalformed s t) ∧
    (malformed opRead q = false → s.loam = none → ∃ t, exec (.elementRead q) s = .next t ∧ Refuses opRead q stState s t) ∧
    ∀ m, malformed opRead q = false → s.loam = some m → m.elems.length < reqIndex q + reqArg q 24 2 →
      ∃ t, exec (.elementRead q) s = .next t ∧ Refuses opRead q stMalformed s t) ∧
  ∀ (q : Req) (m : Loam) (s : State), q.maint = false → s.loam = some m → (∀ l, (s.lanes.get l).cx = none) → malformed opRead q = false →
    reqIndex q + reqArg q 24 2 ≤ m.elems.length → LoadsOk m s →
    ∃ t, exec (.elementRead q) s = .next t ∧ InEachRunning s t fun l x y => WordsWork x y ∧
      ∃ c, y.words = x.words ++ [.cmpl c] ∧ c.status = 0 ∧ c.seq = q.seq ∧ (q.length = 0 → c.data = []) ∧
        (q.length ≠ 0 → c.data = (List.range (reqArg q 24 2)).flatMap fun k => readEntry (ctxOf s l) m x (reqIndex q + k))

/-- Requests that fail the checks that come first (R47, R50, R138, R238, R359, R421): of the route engine's requests malformed ones and those that name no element complete with MALFORMED, then those of a module in recovery with REJECTED_STATE, those in STOPPED and BEDROCK or without an image with SERVICE_LEVEL, and those at a standby or in a takeover cycle with REJECTED_STATE; FULL and REDUCED turn none away. No word, wave or proposal changes, and the request completes in every running lane with the status of the first check that fails; one that R238 turns away takes no step. A named word that fails its check is a code fault of that lane (R181, R192). A request from PORT_MAINT, whatever it is, only enters the next snapshot (R412), and in the LOGIC that takes it one that acts on elements, or in another state than DEVELOPMENT reads them, completes with PORT. Every request that R238 refuses, a reserved opcode among them, completes with MALFORMED and does nothing else; an opcode that is not reserved acts as its own command. -/
def Obligations.ChecksComeBeforeEffects : Prop :=
  (∀ (q : Req) (s : State) (st : Nat), q.maint = false → (∀ l, (s.lanes.get l).cx = none) →
    ∀ p ∈ [(Instr.routeSet q, opRouteSet, q), (.routeCancel q, opRouteCancel, q), (.routeReleaseEmergency q, opEmergency, q), (.pointMove q, opPointMove, q),
      (.signalRestore q, opRestore, q), (.elementBlockBlock q, opBlock, withAction q 1), (.elementBlockUnblock q, opBlock, withAction q 0), (.elementBlockClear q, opBlock, withAction q 2)],
    engineFirst p.2.1 p.2.2 s = some st → ∃ t, exec p.1 s = .next t ∧ InEachRunning s t (fun _ x y => TurnedAway s p.2.1 p.2.2 st x y) ∧
      (malformed p.2.1 p.2.2 = true → Refuses p.2.1 p.2.2 st s t)) ∧
  (∀ (q : Req) (s : State) (m : Loam) (l : Lane), q.maint = false → (∀ k, (s.lanes.get k).cx = none) → s.loam = some m → (s.lanes.get l).st = .member → (s.lanes.get l).running = true →
    ∀ p ∈ [(Instr.pointMove q, opPointMove, q), (.signalRestore q, opRestore, q), (.elementBlockBlock q, opBlock, withAction q 1), (.elementBlockUnblock q, opBlock, withAction q 0)],
    CtlIdle s → engineFirst p.2.1 p.2.2 s = none → (∀ k, k ≠ l → loadOk (ctxOf s k) m (s.lanes.get k) (reqIndex p.2.2) = true) →
    loadOk (ctxOf s l) m (s.lanes.get l) (reqIndex p.2.2) = false → ∃ t, exec p.1 s = .next t ∧ OutFor (t.lanes.get l) 4 ∧ (t.lanes.get l).sram = (s.lanes.get l).sram) ∧
  (∀ (q : Req) (d : Bytes) (op : BitVec 16) (s : State), q.maint = true →
    (∀ p ∈ [(opRouteSet, Instr.routeSet q), (opRouteCancel, .routeCancel q), (opEmergency, .routeReleaseEmergency q), (opPointMove, .pointMove q), (opRestore, .signalRestore q), (opRead, .elementRead q),
      (opPropose, .paramPropose q), (opConfirm, .paramConfirm q), (opRecord, .recordRead q), (opOpen, .updateOpen q), (opClose, .updateClose q), (opActivate, .updateActivate q),
      (opHealth, .updateConfirmHealth q), (opRelease, .laneRelease q), (opRejoin, .laneRejoin q), (opAttest, .attest q), (opMode, .modeRequest q), (opSwitch, .standbySwitch q),
      (op, .reservedOpcode op q)], ∃ t, exec p.2 s = .next t ∧ Enters p.1 q [] s t) ∧
    (∃ t, exec (.updateWrite q d) s = .next t ∧ Enters opWrite q d s t) ∧
    ∀ p ∈ [((1 : Byte), Instr.elementBlockBlock q), (0, .elementBlockUnblock q), (2, .elementBlockClear q)], ∃ t, exec p.2 s = .next t ∧ Enters opBlock (withAction q p.1) [] s t) ∧
  (∀ (q : Req) (d : Bytes) (l : Lane) (s : State), q.maint = true → ∀ op ∈ [opRouteSet, opRouteCancel, opEmergency, opPointMove, opRestore, opBlock, opPropose, opConfirm, opRead], malformed op q = false →
    LogicHolds l op q d s → (∀ m, s.loam = some m → reqIndex q < m.elems.length ∧ paramRangeOk (m.elem (reqIndex q)).ty (reqArg q 24 4) = true) → (op = opRead → s.lcs ≠ 2) →
    ∃ t c, exec (.logic l none) s = .next t ∧ OutWord.cmpl c ∈ (t.lanes.get l).words ∧ c.seq = q.seq ∧ c.status = BitVec.ofNat 8 stPort) ∧
  (∀ (q : Req) (d : Bytes) (s : State), q.maint = false → ∀ p ∈ [(Instr.recordRead q, opRecord), (.updateOpen q, opOpen), (.updateWrite q d, opWrite), (.updateClose q, opClose), (.updateActivate q, opActivate),
      (.updateConfirmHealth q, opHealth), (.laneRelease q, opRelease), (.laneRejoin q, opRejoin), (.attest q, opAttest), (.modeRequest q, opMode), (.standbySwitch q, opSwitch)],
    malformed p.2 q = true → ∃ t, exec p.1 s = .next t ∧ Refuses p.2 q stMalformed s t) ∧
  (∀ (q : Req) (s : State), ∀ p ∈ [(opRouteSet, q, Instr.routeSet q), (opRouteCancel, q, .routeCancel q), (opEmergency, q, .routeReleaseEmergency q), (opPointMove, q, .pointMove q), (opRestore, q, .signalRestore q),
      (opRead, q, .elementRead q), (opBlock, withAction q 1, .elementBlockBlock q), (opBlock, withAction q 0, .elementBlockUnblock q), (opBlock, withAction q 2, .elementBlockClear q),
      (opPropose, q, .paramPropose q), (opConfirm, q, .paramConfirm q), (opRecord, q, .recordRead q), (opOpen, q, .updateOpen q), (opWrite, q, .updateWrite q []), (opClose, q, .updateClose q),
      (opActivate, q, .updateActivate q), (opHealth, q, .updateConfirmHealth q), (opRelease, q, .laneRelease q), (opRejoin, q, .laneRejoin q), (opAttest, q, .attest q), (opMode, q, .modeRequest q),
      (opSwitch, q, .standbySwitch q)], exec (.reservedOpcode p.1 p.2.1) s = exec p.2.2 s) ∧
  ∀ (op : BitVec 16) (q : Req) (s : State), q.maint = false → op ∉ [opRouteSet, opRouteCancel, opEmergency, opPointMove, opRestore, opRead, opBlock, opPropose, opConfirm, opRecord, opOpen, opWrite,
      opClose, opActivate, opHealth, opRelease, opRejoin, opAttest, opMode, opSwitch] → ∃ t, exec (.reservedOpcode op q) s = .next t ∧ Completes op q stMalformed [] s t

/-! ### Requests that the module judges -/

/-- MODE_REQUEST (R44, R163, R494) and STANDBY_SWITCH (R360): accepted, each only notes what the next boundary or the partner's answer decides; a request that would leave STOPPED names the level that the members support, one that names STOPPED needs the STOP key, one that names BEDROCK or that no transition allows is turned away, and none changes the level itself. LANE_RELEASE (R219) waits for the verdict of its cycle and is turned away outside FULL; LANE_REJOIN (R220), allowed in REDUCED and in STOPPED with two members, takes a lane that is no member into COPY, held in lane reset with its rail raised and its accumulators cleared, with step 1 of R227 shown, while the other lanes hold only the completion; each is turned away with the status of its first failing check. -/
def Obligations.ModeAndLaneRequestsAreJudgedAndCarriedOut : Prop :=
  ((∀ (q : Req) (s : State) (same : Bytes) (key : Bool), malformed opMode q = false → same = [BitVec.ofNat 8 s.level.code, BitVec.ofNat 8 s.level.code] →
     key = ((s.loam.map fun m => keyAuthority (ctxOf s (judgeLane s)) m (s.lanes.get (judgeLane s)) (·.stop)).getD false) →
     (∀ d, q.maint = true → InLogic opMode q d stPort same s) ∧
     (q.maint = false → s.upd.recovery = true → Turns (.modeRequest q) opMode q stState same s) ∧
     (q.maint = false → s.upd.recovery = false → reqArg q 20 1 = 0 → key = false → Turns (.modeRequest q) opMode q stPort same s) ∧
     (q.maint = false → s.upd.recovery = false → reqArg q 20 1 = 0 → key = true → s.level = .stopped → Turns (.modeRequest q) opMode q stState same s) ∧
     (q.maint = false → s.upd.recovery = false → reqArg q 20 1 = 0 → key = true → s.level ≠ .stopped → ∃ t, exec (.modeRequest q) s = .next t ∧
       Completes opMode q stDone [0, BitVec.ofNat 8 s.level.code] { s with group := { s.group with modeTo := some .stopped } } t) ∧
     (q.maint = false → s.upd.recovery = false → reqArg q 20 1 = 1 → Turns (.modeRequest q) opMode q stState same s) ∧
     (q.maint = false → s.upd.recovery = false → 2 ≤ reqArg q 20 1 → mayLeave s = true → ∃ t, exec (.modeRequest q) s = .next t ∧
       Completes opMode q stDone [BitVec.ofNat 8 (supported s).code, BitVec.ofNat 8 s.level.code] { s with group := { s.group with modeTo := some (supported s) } } t) ∧
     (q.maint = false → s.upd.recovery = false → 2 ≤ reqArg q 20 1 → mayLeave s = false → Turns (.modeRequest q) opMode q stState same s)) ∧
   (∀ s : State, mayLeave s = true ↔ (s.lcs = 2 ∨ s.lcs = 3) ∧ s.level = .stopped ∧ s.loam.isSome = true ∧ s.group.upd.loading = false ∧ s.power.kilnDone = true ∧ 8 ≤ s.cyc.cycle ∧
     s.cyc.loadedAt + 8 ≤ s.cyc.cycle ∧ 2 ≤ setSize (memberSet s)) ∧
   (∀ s : State, (setSize (memberSet s) = 3 → supported s = .full) ∧ (setSize (memberSet s) = 2 → supported s = .reduced)) ∧
   (∀ (q : Req) (s : State) (r : Bytes), malformed opSwitch q = false → r = [if s.sby.pairenNow = true ∧ s.sby.role ≠ .active then 0 else 1] →
     (∀ d, q.maint = true → InLogic opSwitch q d stPort r s) ∧
     (q.maint = false → (s.upd.recovery = true ∨ s.sby.pairenNow = false) → Turns (.standbySwitch q) opSwitch q stState r s) ∧
     (q.maint = false → s.upd.recovery = false → s.sby.pairenNow = true → s.level.serves = false → Turns (.standbySwitch q) opSwitch q stLevel r s) ∧
     (q.maint = false → s.upd.recovery = false → s.sby.pairenNow = true → s.level.serves = true →
       (s.sby.acting ≠ .active ∨ (s.sby.partner.map (·.elig)) ≠ some true) → Turns (.standbySwitch q) opSwitch q stState r s) ∧
     (q.maint = false → s.upd.recovery = false → s.sby.pairenNow = true → s.level.serves = true → s.sby.acting = .active → (s.sby.partner.map (·.elig)) = some true →
       (s.sby.handover ≠ none → Turns (.standbySwitch q) opSwitch q stBusy r s) ∧
       (s.sby.handover = none → exec (.standbySwitch q) s = .next { s with sby := { s.sby with handover := some (if s.cyc.committed then s.cyc.cycle + 1 else s.cyc.cycle), switchReq := some q } })))) ∧
  ((∀ (q : Req) (l : Lane) (s : State) (r : Bytes), malformed opRelease q = false → reqArg q 20 1 = laneNo l → r = [BitVec.ofNat 8 (laneNo l), BitVec.ofNat 8 (s.lanes.get l).st.code] →
     (∀ d, q.maint = true → InLogic opRelease q d stPort r s) ∧
     (q.maint = false → s.upd.recovery = true → Turns (.laneRelease q) opRelease q stState r s) ∧
     (q.maint = false → s.upd.recovery = false → s.level ≠ .full → Turns (.laneRelease q) opRelease q stLevel r s) ∧
     (q.maint = false → s.upd.recovery = false → s.level = .full → exec (.laneRelease q) s = .next { s with group := { s.group with release := s.group.release ++ [(l, q)] } })) ∧
   (∀ (q : Req) (l : Lane) (s : State) (r : Bytes), malformed opRejoin q = false → reqArg q 20 1 = laneNo l → r = [BitVec.ofNat 8 (laneNo l), BitVec.ofNat 8 (s.lanes.get l).st.code] →
     (∀ d, q.maint = true → InLogic opRejoin q d stPort r s) ∧
     (q.maint = false → s.upd.recovery = true → Turns (.laneRejoin q) opRejoin q stState r s) ∧
     (q.maint = false → s.upd.recovery = false → (s.level = .bedrock ∨ setSize (memberSet s) < 2) → Turns (.laneRejoin q) opRejoin q stLevel r s) ∧
     (q.maint = false → s.upd.recovery = false → s.level ≠ .bedrock → 2 ≤ setSize (memberSet s) →
       (s.level = .full ∨ (s.lanes.get l).st = .member ∨ (s.lanes.get l).st = .dead) → Turns (.laneRejoin q) opRejoin q stState r s) ∧
     (q.maint = false → s.upd.recovery = false → (s.level = .reduced ∨ s.level = .stopped) → 2 ≤ setSize (memberSet s) → (s.lanes.get l).st ≠ .member → (s.lanes.get l).st ≠ .dead →
       ((s.group.rejoin ≠ none ∨ s.group.proof ≠ none) → Turns (.laneRejoin q) opRejoin q stBusy r s) ∧
       (s.group.rejoin = none → s.group.proof = none →
         ∃ t, exec (.laneRejoin q) s = .next t ∧ (t.lanes.get l).st = .copy ∧ (t.lanes.get l).inReset = true ∧ (t.lanes.get l).rail = true ∧ (t.lanes.get l).running = false ∧
           (t.lanes.get l).units = [] ∧ (t.lanes.get l).words = [] ∧ (t.lanes.get l).sram = (s.lanes.get l).sram ∧ (t.lanes.get l).reg = (s.lanes.get l).reg ∧
           (t.lanes.get l).cause = (s.lanes.get l).cause ∧
           (∃ j, t.group = { s.group with rejoin := some j } ∧ j.lane = l ∧ j.r = s.cyc.cycle ∧ j.step = 1 ∧ j.proof = false ∧
             j.limit = ((s.snap.map (·.set.rjlimit)).getD (s.lanes.get (judgeFrom s)).set.rjlimit)) ∧
           (RegsOk s → t.reg R.LANE_RJSTAT = BitVec.ofNat 32 (laneNo l + 4)) ∧ RegsBut (R.LANE_RJSTAT :: evgCounters) s t ∧
           t.evg.pend = (if (s.lanes.get l).st = .copy then s.evg.pend else withSource s.evg.pend (65 + laneNo l)) ∧
           t.level = s.level ∧ t.sieve = s.sieve ∧ t.cyc = s.cyc ∧ t.vio = s.vio ∧ t.stored = s.stored ∧
           ∀ k, k ≠ l → if (s.lanes.get k).running then Answers s opRejoin q stAccepted [BitVec.ofNat 8 (laneNo l), 2] (s.lanes.get k) (t.lanes.get k) ∧
               WordsWork (s.lanes.get k) (t.lanes.get k)
             else t.lanes.get k = s.lanes.get k))))

/-- RECORD_READ (R400, R401) answers with the first record and the number returned and has those records written as they are stored before the entry; it changes no record, and counts one whose CRC fails. ATTEST (R422) has a report of 640 bytes with its nonce written, sets its event, and is turned away with BUSY while the lanes know one that has not completed, with SERVICE_LEVEL in REDUCED and BEDROCK, from PORT_MAINT, and in RETIRED. -/
def Obligations.RecordReadAndAttestWriteBuffers : Prop :=
  (∀ (q : Req) (d : Bytes) (s : State), malformed opRecord q = false → q.maint = true → s.lcs ≠ 2 → InLogic opRecord q d stPort [] s) ∧
  (∀ (q : Req) (d : Bytes) (no : Word) (n : Nat) (s : State), malformed opRecord q = false → q.maint = true → s.lcs = 2 →
    recordRange ((s.snap.map (·.recOldest)).getD s.shale.oldest) ((s.snap.map (·.recNewest)).getD (newest s)) (BitVec.ofNat 32 (reqArg q 20 4)) (reqArg q 24 2) = some (no, n) →
    InLogic opRecord q d stDone (leBytes 4 no.toNat ++ leBytes 2 n) s) ∧
  (∀ (q : Req) (s : State) (oldest last : Word), malformed opRecord q = false → q.maint = false →
    oldest = ((s.snap.map (·.recOldest)).getD s.shale.oldest) → last = ((s.snap.map (·.recNewest)).getD (newest s)) →
    (∀ (no : Word) (n : Nat), recordRange oldest last (BitVec.ofNat 32 (reqArg q 20 4)) (reqArg q 24 2) = some (no, n) →
      ∃ t u, exec (.recordRead q) s = .next t ∧ Completes opRecord q stDone (leBytes 4 no.toNat ++ leBytes 2 n) u t ∧
        u = { s with regs := u.regs, evg := u.evg, out := u.out, hif := u.hif } ∧
        u.hif.reads = assocPut q.seq.toNat ((List.range n).flatMap fun k => recordAt s (no + BitVec.ofNat 32 k)) s.hif.reads ∧
        RegsBut ([R.REC_CRCCNT, R.REC_EVT] ++ evgCounters) s u ∧
        ((∀ k < n, recordBad (recordAt s (no + BitVec.ofNat 32 k)) = false) → u = { s with hif := { s.hif with reads := u.hif.reads } }) ∧
        (∀ k < n, recordBad (recordAt s (no + BitVec.ofNat 32 k)) = true → RegsOk s → u.regBit R.REC_EVT 4 = true)) ∧
    (recordRange oldest last (BitVec.ofNat 32 (reqArg q 20 4)) (reqArg q 24 2) = none → ∃ t r, exec (.recordRead q) s = .next t ∧
      Completes opRecord q stDone (r ++ [0, 0]) { s with free := s.free + 1 } t ∧ r.length = 4)) ∧
  (∀ (oldest last first : Word) (count : Nat) (no : Word) (n : Nat), recordRange oldest last first count = some (no, n) → n ≤ count ∧
    (no - oldest).toNat ≤ (last - oldest).toNat ∧ (no = first ∨ no = oldest) ∧ n ≤ (last - no).toNat + 1) ∧
  (∀ (q : Req) (s : State), malformed opAttest q = false →
    ((s.level = .reduced ∨ s.level = .bedrock) → Judged (.attest q) opAttest q [] stLevel [] s) ∧
    ((s.level = .stopped ∨ s.level = .full) → q.maint = true → InLogic opAttest q [] stPort [] s) ∧
    ((s.level = .stopped ∨ s.level = .full) → q.maint = false → s.lcs = 4 → Turns (.attest q) opAttest q stState [] s) ∧
    ((s.level = .stopped ∨ s.level = .full) → q.maint = false → s.lcs ≠ 4 → s.group.upd.attesting = true → Turns (.attest q) opAttest q stBusy [] s) ∧
    ((s.level = .stopped ∨ s.level = .full) → q.maint = false → s.lcs ≠ 4 → s.group.upd.attesting = false → ∃ t u r n, exec (.attest q) s = .next t ∧
      Reports R.UPD_EVT R.UPD_EVTEN 6 63 { s with
        free := n, hif := { s.hif with reads := assocPut q.seq.toNat r s.hif.reads }, upd := { s.upd with attest := some q.seq },
        group := { s.group with upd := { s.group.upd with attesting := true } } } u ∧ r.length = 640 ∧
      r.take 4 = [0x41, 0x54, 0x54, 0x53] ∧ (r.drop 8).take 32 = padTo 32 (q.args.take 32) ∧ (r.drop 72).take 32 = padTo 32 (bootedDigest s) ∧
      (r.drop 132).take 32 = padTo 32 (loamDigest s) ∧ Completes opAttest q stDone (leBytes 4 640) u t))

/-! ### Updates -/

/-- The update opcodes (R412, R413, R416, R418), judged by the engine's report in the snapshot: UPDATE_OPEN takes the one session for the region that is not in use, which becomes STAGING; UPDATE_WRITE at the number of bytes received counts at once and waits; UPDATE_CLOSE of a complete session makes its region READY, or ends it; UPDATE_ACTIVATE of a READY firmware arms its trial for the reset at the next t0, and of a READY Loam image starts its load; UPDATE_CONFIRM_HEALTH within its window confirms the booted bank and raises the floor. Each is turned away with the status of its first failing check, UPDATE_WRITE and UPDATE_CLOSE with the bytes received. -/
def Obligations.UpdateRequestsDriveOneSession : Prop :=
  (∀ (q : Req) (s : State) (bad : Prop), malformed opOpen q = false →
    bad = (s.lcs = 4 ∨ (openLoam q = true ∧ s.level ≠ .stopped) ∨ (openLoam q = false ∧ (s.group.upd.trial ≠ none ∨ s.upd.activate = true)) ∨ (openLoam q = true ∧ s.upd.recovery = true)) →
    (totalOk q = false → Judged (.updateOpen q) opOpen q [] stMalformed [] s) ∧
    (totalOk q = true → (s.level = .reduced ∨ s.level = .bedrock) → Judged (.updateOpen q) opOpen q [] stLevel [] s) ∧
    (totalOk q = true → (s.level = .stopped ∨ s.level = .full) →
      (updPort s q = false → Judged (.updateOpen q) opOpen q [] stPort [] s) ∧
      (updPort s q = true → bad → Judged (.updateOpen q) opOpen q [] stState [] s) ∧
      (updPort s q = true → ¬ bad → s.group.upd.sess ≠ none → Judged (.updateOpen q) opOpen q [] stBusy [] s) ∧
      (updPort s q = true → ¬ bad → s.group.upd.sess = none → q.maint = false → s.power.pfw = true → ∃ t b, exec (.updateOpen q) s = .next t ∧ t.upd.sess = none ∧ t.upd.erasing = none ∧
        (if openLoam q then (bankOf t b).lstate = 0 else (bankOf t b).fstate = 0) ∧ bankOf t (!b) = bankOf s (!b) ∧ t.lanes = s.lanes ∧ t.level = s.level ∧
        ∃ n, t.group.due = s.group.due ++ [(opOpen, q, stState, leBytes 2 n)]) ∧
      (updPort s q = true → ¬ bad → s.group.upd.sess = none → q.maint = false → s.power.pfw = false → ∃ t x, exec (.updateOpen q) s = .next t ∧ t.upd.sess = some x ∧
        x.loam = openLoam q ∧ x.total = reqArg q 20 4 ∧ x.recv = 0 ∧ x.erased = false ∧ x.maint = q.maint ∧ x.num = t.upd.opened ∧ x.num ≠ 0 ∧ x.lastAt = s.cyc.timeBase ∧
        x.waiting = [(opOpen, q, [])] ∧ t.group.upd.sess = some { num := x.num, loam := x.loam, maint := x.maint, total := x.total, recv := 0 } ∧
        (∀ b, openLoam q = false → s.upd.booted = some b → x.bank = !b) ∧ (∀ b, openLoam q = true → loamBank s = some b → x.bank = !b) ∧
        (openLoam q = false → (bankOf t x.bank).fstate = 1 ∧ (bankOf t x.bank).lstate = (bankOf s x.bank).lstate ∧ t.upd.readyF = s.upd.readyF.filter (fun y => y.2 != x.bank) ∧ t.upd.readyL = s.upd.readyL) ∧
        (openLoam q = true → (bankOf t x.bank).lstate = 1 ∧ (bankOf t x.bank).fstate = (bankOf s x.bank).fstate ∧ t.upd.readyL = s.upd.readyL.filter (fun y => y.2 != x.bank) ∧ t.upd.readyF = s.upd.readyF) ∧
        bankOf t (!x.bank) = bankOf s (!x.bank) ∧ t.stored.mem0 = s.stored.mem0 ∧ t.stored.mem1 = s.stored.mem1 ∧ t.stored.floor = s.stored.floor ∧
        (RegsOk s → t.regBit R.UPD_EVT 0 = true) ∧ RegsBut (R.UPD_EVT :: evgCounters) s t ∧ t.lanes = s.lanes ∧ t.level = s.level ∧ t.cyc = s.cyc ∧ t.sieve = s.sieve) ∧
      (updPort s q = true → ¬ bad → s.group.upd.sess = none → q.maint = true → s.power.pfw = false → s.level = .stopped → ∀ l, LogicHolds l opOpen q [] s → ∃ t x, exec (.logic l none) s = .next t ∧
        t.upd.sess = some x ∧ x.loam = openLoam q ∧ x.total = reqArg q 20 4 ∧ x.recv = 0 ∧ x.erased = false ∧ x.maint = true ∧ x.lastAt = s.cyc.timeBase ∧ x.waiting = [(opOpen, q, [])]))) ∧
  (∀ (q : Req) (s : State), ((∀ x, s.group.upd.sess = some x → x.num ≠ reqArg q 20 2) → namedSession s q = none ∧ recvBytes s q = leBytes 4 0) ∧
    ∀ x, s.group.upd.sess = some x → x.num = reqArg q 20 2 → namedSession s q = some x ∧ recvBytes s q = leBytes 4 x.recv) ∧
  (∀ (q : Req) (d : Bytes) (s : State), malformed opWrite q = false →
    (∀ x, namedSession s q = some x → x.total < reqArg q 24 4 + q.length.toNat → Judged (.updateWrite q d) opWrite q d stMalformed (recvBytes s q) s) ∧
    ((∀ x, namedSession s q = some x → reqArg q 24 4 + q.length.toNat ≤ x.total) →
      ((s.level = .reduced ∨ s.level = .bedrock) → Judged (.updateWrite q d) opWrite q d stLevel (recvBytes s q) s) ∧
      ((s.level = .stopped ∨ s.level = .full) → updPort s q = false → Judged (.updateWrite q d) opWrite q d stPort (recvBytes s q) s) ∧
      ((s.level = .stopped ∨ s.level = .full) → updPort s q = true →
        (namedSession s q = none → Judged (.updateWrite q d) opWrite q d stState (recvBytes s q) s) ∧
        ∀ x, namedSession s q = some x →
          (x.maint ≠ q.maint → Judged (.updateWrite q d) opWrite q d stBusy (recvBytes s q) s) ∧
          (x.maint = q.maint → reqArg q 24 4 ≠ x.recv → Judged (.updateWrite q d) opWrite q d stState (recvBytes s q) s) ∧
          (x.maint = true → q.maint = true → reqArg q 24 4 = x.recv → s.level = .stopped → ∀ l y, LogicHolds l opWrite q d s → s.upd.sess = some y → y.num = x.num → ∃ t, exec (.logic l none) s = .next t ∧
            t.upd.sess = some { y with recv := y.recv + q.length.toNat, lastAt := s.cyc.timeBase, waiting := y.waiting ++ [(opWrite, q, padTo q.length.toNat d)] }) ∧
          (x.maint = q.maint → q.maint = false → reqArg q 24 4 = x.recv →
            (∀ y, s.upd.sess = some y → y.num = x.num → exec (.updateWrite q d) s = .next { s with
              upd := { s.upd with sess := some { y with recv := y.recv + q.length.toNat, lastAt := s.cyc.timeBase, waiting := y.waiting ++ [(opWrite, q, padTo q.length.toNat d)] } },
              group := { s.group with upd := { s.group.upd with sess := some { x with recv := x.recv + q.length.toNat } } } }) ∧
            ((∀ y, s.upd.sess = some y → y.num ≠ x.num) → exec (.updateWrite q d) s = .next { s with group := { s.group with
              upd := { s.group.upd with sess := some { x with recv := x.recv + q.length.toNat } }, due := s.group.due ++ [(opWrite, q, stState, recvBytes s q)] } }))))) ∧
  (∀ (q : Req) (s : State), malformed opClose q = false →
    ((s.level = .reduced ∨ s.level = .bedrock) → Judged (.updateClose q) opClose q [] stLevel (recvBytes s q) s) ∧
    ((s.level = .stopped ∨ s.level = .full) → updPort s q = false → Judged (.updateClose q) opClose q [] stPort (recvBytes s q) s) ∧
    ((s.level = .stopped ∨ s.level = .full) → updPort s q = true →
      (namedSession s q = none → Judged (.updateClose q) opClose q [] stState (recvBytes s q) s) ∧
      ∀ x, namedSession s q = some x →
        (x.recv < x.total → Judged (.updateClose q) opClose q [] stState (recvBytes s q) s) ∧
        (x.total ≤ x.recv → x.maint ≠ q.maint → Judged (.updateClose q) opClose q [] stBusy (recvBytes s q) s) ∧
        (x.total ≤ x.recv → x.maint = q.maint → (∀ y, s.upd.sess = some y → y.num ≠ x.num) → Judged (.updateClose q) opClose q [] stState (recvBytes s q) s) ∧
        (x.total ≤ x.recv → x.maint = q.maint → q.maint = false →
          ∀ y, s.upd.sess = some y → y.num = x.num →
            (y.waiting ≠ [] → exec (.updateClose q) s = .next { s with upd := { s.upd with sess := some { y with lastAt := s.cyc.timeBase, waiting := y.waiting ++ [(opClose, q, [])] } } }) ∧
            (y.waiting = [] → ∃ t, exec (.updateClose q) s = .next t ∧ t.upd.sess = none ∧ t.group = { s.group with due := s.group.due ++ [(opClose, q, closeCheck s y, leBytes 4 y.recv)] } ∧
              bankOf t (!y.bank) = bankOf s (!y.bank) ∧ t.lanes = s.lanes ∧ bankMem t (!y.bank) = bankMem s (!y.bank) ∧ ((y.loam = false ∨ closeCheck s y ≠ stDone) → bankMem t y.bank = bankMem s y.bank) ∧
              BytesBut erasedByte (regionBase true + y.total + 12) 52 (bankMem s y.bank) (bankMem t y.bank) ∧
              (closeCheck s y = stDone → y.loam = false → t.upd.readyF = s.upd.readyF ++ [(y.num, y.bank)] ∧ (bankOf t y.bank).fstate = 2 ∧
                (bankOf t y.bank).fcrc = crc32c (regionBytes s y.bank false y.total)) ∧
              (closeCheck s y = stDone → y.loam = true → t.upd.readyL = s.upd.readyL ++ [(y.num, y.bank)] ∧ (bankOf t y.bank).lstate = 2 ∧
                (bankOf t y.bank).lcrc = crc32c (regionBytes t y.bank true (y.total + 64))) ∧
              (closeCheck s y ≠ stDone → if y.loam then (bankOf t y.bank).lstate = 0 else (bankOf t y.bank).fstate = 0))))) ∧
  (∀ (q : Req) (s : State), malformed opActivate q = false →
    ((s.level = .reduced ∨ s.level = .bedrock) → Judged (.updateActivate q) opActivate q [] stLevel [] s) ∧
    ((s.level = .stopped ∨ s.level = .full) → updPort s q = false → Judged (.updateActivate q) opActivate q [] stPort [] s) ∧
    ((s.level = .stopped ∨ s.level = .full) → updPort s q = true → ∀ f g, f = s.group.upd.readyF.find? (fun x => x.1 == reqArg q 20 2) → g = s.group.upd.readyL.find? (fun x => x.1 == reqArg q 20 2) →
      (f = none → g = none → Judged (.updateActivate q) opActivate q [] stState [] s) ∧
      ((f ≠ none ∨ g ≠ none) → s.group.upd.sess ≠ none → Judged (.updateActivate q) opActivate q [] stBusy [] s) ∧
      (∀ n b, f = some (n, b) → s.group.upd.sess = none →
        (s.sby.role = .active → s.sby.partner.map (·.elig) = some true → Judged (.updateActivate q) opActivate q [] stState [] s) ∧
        (q.maint = false → (s.sby.role ≠ .active ∨ s.sby.partner.map (·.elig) ≠ some true) → ∃ t u rest, exec (.updateActivate q) s = .next t ∧ Completes opActivate q stDone [BitVec.ofNat 8 (b2n b)] u t ∧
          rest = s.upd.readyF.filter (fun x => x.2 != b) ∧
          u = { (if s.power.pfw then s else setBank s b (fun x => { x with fstate := 3 })) with
            upd := { s.upd with readyF := rest, activate := true, held := if s.power.pfw then s.upd.held ++ [(false, b)] else s.upd.held }, bu := { s.bu with trial := some b },
            group := { s.group with upd := { s.group.upd with readyF := rest } } })) ∧
      (∀ n b, f = none → g = some (n, b) → s.group.upd.sess = none →
        ((s.level ≠ .stopped ∨ s.upd.recovery = true) → Judged (.updateActivate q) opActivate q [] stState [] s) ∧
        (q.maint = false → s.level = .stopped → s.upd.recovery = false → exec (.updateActivate q) s = .next { s with
          upd := { s.upd with readyL := s.upd.readyL.filter (fun x => x.2 != b), load := some (b, q) }, stored := { s.stored with loamKey := s.stored.loamKeyNew },
          group := { s.group with upd := { s.group.upd with readyL := s.upd.readyL.filter (fun x => x.2 != b), loading := true } } })))) ∧
  ∀ (q : Req) (s : State), malformed opHealth q = false →
    (s.upd.recovery = false → s.level ≠ .full → Judged (.updateConfirmHealth q) opHealth q [] stLevel [] s) ∧
    ((s.upd.recovery = true ∨ s.level = .full) → updPort s q = false → Judged (.updateConfirmHealth q) opHealth q [] stPort [] s) ∧
    ((s.upd.recovery = true ∨ s.level = .full) → updPort s q = true →
      (s.group.upd.trial = none → Judged (.updateConfirmHealth q) opHealth q [] stState [] s) ∧
      ∀ b, s.group.upd.trial = some b →
        (s.group.upd.trialEnd ≤ s.cyc.lastT0 → Judged (.updateConfirmHealth q) opHealth q [] stState [] s) ∧
        (s.cyc.lastT0 < s.group.upd.trialEnd → q.maint = false → ∃ t, exec (.updateConfirmHealth q) s = .next t ∧ t.upd.trial = none ∧ t.group.upd.trial = none ∧
          (s.power.pfw = true → t.stored = s.stored ∧ t.upd.held = s.upd.held ++ [(true, b)]) ∧
          (s.power.pfw = false → t.upd.held = s.upd.held ∧
            (bankOf t b).fstate = 4 ∧ (bankOf t b).pref = true ∧ (bankOf t (!b)).pref = false ∧ t.stored.floor.toNat = max s.stored.floor.toNat (bankOf s b).svn.toNat ∧
            (bankOf t (!b)).fstate = (if (bankOf s (!b)).fstate ≠ 0 ∧ (bankOf s (!b)).svn.toNat < t.stored.floor.toNat then 5 else (bankOf s (!b)).fstate)) ∧
          (RegsOk s → t.regBit R.UPD_EVT 3 = true) ∧
          ∀ l, (s.lanes.get l).running = true → Answers s opHealth q stDone [BitVec.ofNat 8 (b2n b)] (s.lanes.get l) (t.lanes.get l)))

/-- The engine's reports (R409, R412, R413, R417, R446, R490): the erase leaves the session's region erased, with a free IV behind a Loam image, and the open completes; an erase that a session left behind completes; the bytes of each waiting write stand at their places in the region, those of a Loam image encrypted, and nowhere else, and a close behind them is judged; at the idle limit the session ends with its region EMPTY; no other bank or region changes. The end of a health window without a confirm is a module reset. A refresh takes place once in 8,760 h of operating time, waits for what holds its region, and changes no stored byte and no CRC. -/
def Obligations.UpdateEngineReportsProgress : Prop :=
  (∀ s : State, s.upd.sess = none → exec .bytesProgrammed s = .next s ∧ exec .idle s = .next s ∧ (s.upd.erasing = none → exec .regionErased s = .next s)) ∧
  (∀ (b loam : Bool) (s : State), MemoryOk s → s.upd.sess = none → s.upd.erasing = some (b, loam) → ∃ t, exec .regionErased s = .next t ∧ t.upd = { s.upd with erasing := none } ∧
    (∀ a, regionBase loam ≤ a → a < regionBase loam + regionSize loam → cellGet erasedByte a (bankMem t b) = 0xFF) ∧
    BytesBut erasedByte (regionBase loam) (regionSize loam) (bankMem s b) (bankMem t b) ∧ bankMem t (!b) = bankMem s (!b) ∧ bankOf t b = bankOf s b ∧ bankOf t (!b) = bankOf s (!b) ∧
    t = { s with upd := t.upd, stored := t.stored }) ∧
  (∀ (x : Sess) (s : State), s.upd.sess = some x → x.erased = true → exec .regionErased s = .next s) ∧
  (∀ (x : Sess) (s : State), MemoryOk s → s.upd.sess = some x → x.erased = false → (x.loam = true → x.total + 64 ≤ regionSize true) → ∃ t, exec .regionErased s = .next t ∧
    t.upd = { s.upd with sess := some { x with erased := true, waiting := x.waiting.filter fun w => w.1 != opOpen }, erasing := none } ∧
    t.group = { s.group with due := s.group.due ++ (x.waiting.filter fun w => w.1 == opOpen).map fun w => (opOpen, w.2.1, stDone, leBytes 2 x.num) } ∧
    (∀ a, regionBase x.loam ≤ a → a < regionBase x.loam + regionSize x.loam → (x.loam = false ∨ a < regionBase true + x.total ∨ regionBase true + x.total + 12 ≤ a) →
      cellGet erasedByte a (bankMem t x.bank) = 0xFF) ∧
    BytesBut erasedByte (regionBase x.loam) (regionSize x.loam) (bankMem s x.bank) (bankMem t x.bank) ∧ bankMem t (!x.bank) = bankMem s (!x.bank) ∧
    bankOf t x.bank = bankOf s x.bank ∧ bankOf t (!x.bank) = bankOf s (!x.bank) ∧ t = { s with upd := t.upd, group := t.group, stored := t.stored, free := t.free }) ∧
  (∀ (x : Sess) (s : State), s.upd.sess = some x → (x.erased = false ∨ s.power.pfw = true ∨ x.waiting = []) → exec .bytesProgrammed s = .next s) ∧
  (∀ (x : Sess) (q : Req) (d : Bytes) (ws : List (BitVec 16 × Req × Bytes)) (s : State), MemoryOk s → s.upd.sess = some x → x.erased = true → s.power.pfw = false → x.waiting = (opWrite, q, d) :: ws →
    ∃ t, exec .bytesProgrammed s = exec .bytesProgrammed t ∧ t.upd = { s.upd with sess := some { x with waiting := ws } } ∧
    t.group = { s.group with due := s.group.due ++ [(opWrite, q, stDone, leBytes 4 (reqArg q 24 4 + q.length.toNat))] } ∧
    bytesGet erasedByte (bankMem t x.bank) (regionBase x.loam + reqArg q 24 4) d.length =
      (if x.loam then gcmText s.stored.storageKey (loamIv s x.bank x.total) (reqArg q 24 4) d else d) ∧
    BytesBut erasedByte (regionBase x.loam + reqArg q 24 4) d.length (bankMem s x.bank) (bankMem t x.bank) ∧ bankMem t (!x.bank) = bankMem s (!x.bank) ∧
    bankOf t x.bank = bankOf s x.bank ∧ bankOf t (!x.bank) = bankOf s (!x.bank) ∧ t = { s with upd := t.upd, group := t.group, stored := t.stored }) ∧
  (∀ (x : Sess) (q : Req) (d : Bytes) (s : State), s.upd.sess = some x → x.erased = true → s.power.pfw = false → x.waiting = [(opClose, q, d)] →
    ∃ t, exec .bytesProgrammed s = .next t ∧ t.upd.sess = none ∧ t.group.due = s.group.due ++ [(opClose, q, closeCheck s x, leBytes 4 x.recv)] ∧
    bankOf t (!x.bank) = bankOf s (!x.bank) ∧ bankMem t (!x.bank) = bankMem s (!x.bank) ∧ ((x.loam = false ∨ closeCheck s x ≠ stDone) → bankMem t x.bank = bankMem s x.bank) ∧
    BytesBut erasedByte (regionBase true + x.total + 12) 52 (bankMem s x.bank) (bankMem t x.bank) ∧ t.lanes = s.lanes ∧ t.level = s.level ∧
    (closeCheck s x = stDone → if x.loam then (bankOf t x.bank).lstate = 2 ∧ t.upd.readyL = s.upd.readyL ++ [(x.num, x.bank)]
      else (bankOf t x.bank).fstate = 2 ∧ t.upd.readyF = s.upd.readyF ++ [(x.num, x.bank)]) ∧
    (closeCheck s x ≠ stDone → if x.loam then (bankOf t x.bank).lstate = 0 else (bankOf t x.bank).fstate = 0)) ∧
  (∀ (x : Sess) (s : State), s.upd.sess = some x →
    (s.cyc.timeBase + 1000 ≤ x.lastAt + s.regF R.UPD_CFG 0 12 * 1000000 → exec .idle s = .next s) ∧
    (x.lastAt + s.regF R.UPD_CFG 0 12 * 1000000 < s.cyc.timeBase + 1000 → ∃ t, exec .idle s = .next t ∧
      t.upd = { s.upd with sess := none, erasing := if x.erased then none else some (x.bank, x.loam) } ∧ bankOf t (!x.bank) = bankOf s (!x.bank) ∧
      (x.loam = false → (bankOf t x.bank).fstate = 0 ∧ (bankOf t x.bank).lstate = (bankOf s x.bank).lstate) ∧
      (x.loam = true → (bankOf t x.bank).lstate = 0 ∧ (bankOf t x.bank).fstate = (bankOf s x.bank).fstate) ∧
      t.stored.mem0 = s.stored.mem0 ∧ t.stored.mem1 = s.stored.mem1 ∧ t.lanes = s.lanes ∧ t.level = s.level)) ∧
  (∀ s : State, s.upd.trial ≠ none → s.upd.trialEnd ≤ s.cyc.lastT0 → s.cyc.committed = true → ∃ t, exec .healthWindowEnd s = .next t ∧ AfterReset s t ∧ Strapped s.sby.strap s.power.addr s t ∧
    t.reg R.PWR_RSTCAUSE = 4 ∧ t.bu.bootcnt = s.bu.bootcnt + 1) ∧
  (∀ s : State, (s.upd.trial = none ∨ s.cyc.lastT0 < s.upd.trialEnd ∨ s.cyc.committed = false) → exec .healthWindowEnd s = .next s) ∧
  (∀ (r : Refresh) (s : State), s.power.booted = true → s.power.pfw = false → r.copyOk = true →
    (∀ b loam, (r.region, b, loam) ∈ [(FlashRegion.firmware0, false, false), (.firmware1, true, false), (.loam0, false, true), (.loam1, true, true)] →
      (∀ x, s.upd.sess = some x → x.bank ≠ b ∨ x.loam ≠ loam) ∧ s.upd.erasing ≠ some (b, loam)) → (r.region = .shale → rangesHeld s = []) →
    s.stored.refreshed.length = 6 → s.stored.refreshed.getD (refreshNo r.region) 0 ≠ s.optime / 31536000000 → ∃ t, exec (.flashRefresh r) s = .next t ∧
    t = { s with stored := { s.stored with refreshed := t.stored.refreshed } } ∧ t.stored.refreshed.getD (refreshNo r.region) 0 = s.optime / 31536000000 ∧
    ∀ k, k ≠ refreshNo r.region → t.stored.refreshed.getD k 0 = s.stored.refreshed.getD k 0) ∧
  ∀ (r : Refresh) (s : State), (s.power.booted = false ∨ s.power.pfw = true ∨ r.copyOk = false ∨ s.stored.refreshed.getD (refreshNo r.region) 0 = s.optime / 31536000000 ∨
      (r.region = .shale ∧ rangesHeld s ≠ []) ∨
      ∃ b loam, (r.region, b, loam) ∈ [(FlashRegion.firmware0, false, false), (.firmware1, true, false), (.loam0, false, true), (.loam1, true, true)] ∧
        ((∃ x, s.upd.sess = some x ∧ x.bank = b ∧ x.loam = loam) ∨ s.upd.erasing = some (b, loam))) → exec (.flashRefresh r) s = .next s

/-- Loading Loam and life-cycle tokens (R106, R173, R406, R407, R419, R446): an image that passes waits for the next t0 and becomes ACTIVE, with one that fails the module has no image and every word holds its spare form; a token stays BUSY until it is processed, which a power-fail warning holds, stores what it carries only where every check passes, and its registers are cleared. -/
def Obligations.ImagesAndTokensAreCheckedBeforeTheyCount : Prop :=
  (∀ (readOk : Bool) (b : Bool) (q : Req) (s : State), s.upd.load = some (b, q) →
    match loadedLoam s b readOk with
    | some m => ∃ t, exec (.loamLoadChecked readOk) s = .next t ∧ t.loamNext = some m ∧ t.loam = s.loam ∧ t.lanes = s.lanes ∧ t.upd = { s.upd with load := none } ∧
      (bankOf t b).lact = true ∧ (bankOf t b).lstate = 4 ∧ (bankOf t (!b)).lact = false ∧
      t.group = { s.group with due := s.group.due ++ [(opActivate, q, stDone, [BitVec.ofNat 8 (b2n b)])] } ∧ t.regs = s.regs
    | none => ∃ t, exec (.loamLoadChecked readOk) s = .next t ∧ t.loam = none ∧ t.loamNext = none ∧ (bankOf t b).lstate = 5 ∧ bankOf t (!b) = bankOf s (!b) ∧
      (∀ l i, sramWord l (t.lanes.get l).sram i = codedWord 0 (baseL l)) ∧ t.upd = { s.upd with load := none } ∧
      t.group = { s.group with due := s.group.due ++ [(opActivate, q, stState, [])] } ∧ t.regs = s.regs) ∧
  (∀ (b : Bool) (s : State), loadedLoam s b false = none) ∧
  (∀ (b : Bool) (s : State) (n : Nat) (text : Bytes), n = (bankOf s b).llen → text = gcmText s.stored.storageKey (loamIv s b n) 0 (regionBytes s b true n) →
    loadedLoam s b true = if gcmTag s.stored.storageKey (loamIv s b n) [] (regionBytes s b true n) = bytesGet erasedByte (bankMem s b) (regionBase true + n + 12) 16 ∧
        pssVerify s.stored.loamKey (sha256 (loamSigned text)) (loamSignature text) = true then loamTables text else none) ∧
  (∀ (readOk : Bool) (s : State), s.upd.load = none → exec (.loamLoadChecked readOk) s = .next s) ∧
  (∀ (v : Word) (s : State), CleanWrite s R.UPD_LCCMD v → v.getLsbD 0 = true → s.upd.tokenBusy = false → ∃ t, exec (.updLcCmdGo v) s = .next t ∧ t.upd = { s.upd with tokenBusy := true } ∧
    t.reg R.UPD_LCSTAT = 0 ∧ RegsBut [R.UPD_LCSTAT] s t ∧ t = { s with regs := t.regs, upd := t.upd }) ∧
  (∀ (v : Word) (s : State), CleanWrite s R.UPD_LCCMD v → (s.upd.tokenBusy = true ∨ v.getLsbD 0 = false) → exec (.updLcCmdGo v) s = .next s) ∧
  (∀ (g : Bool) (s : State), s.upd.tokenBusy = true → s.power.pfw = false → ∃ t, exec (.tokenProcessed g) s = .next t ∧ t.upd = { s.upd with tokenBusy := false } ∧ t.lanes = s.lanes ∧ t.level = s.level ∧
    (RegsOk s → (∀ w < 256, t.reg (R.UPD_TOKEN w) = 0) ∧ t.regBit R.UPD_LCSTAT 1 = true ∧ t.regBit R.UPD_LCSTAT 2 = decide (tokenFail s (tokenBytes s) g = 0) ∧
      t.regF R.UPD_LCSTAT 3 3 = tokenFail s (tokenBytes s) g) ∧
    t.stored = (if tokenFail s (tokenBytes s) g ≠ 0 then s.stored
      else if leAt (tokenBytes s) 4 1 = 1 then { s.stored with pendLcs := BitVec.ofNat 3 (leAt (tokenBytes s) 5 1), ownerKey := if leAt (tokenBytes s) 5 1 = 1 then ((tokenBytes s).drop 0x40).take 384 else s.stored.ownerKey }
      else { s.stored with loamKeyNew := ((tokenBytes s).drop 0x40).take 384, keySeq := BitVec.ofNat 32 (leAt (tokenBytes s) 0x10 4) }) ∧ t.bu = s.bu) ∧
  (∀ (g : Bool) (s : State) (t : Bytes), tokenFail s t g = 0 → s.lcs ≠ 4 ∧ s.level = .stopped ∧ leAt t 8 8 = (s.wide R.GLB_SERIAL_LO).toNat ∧ leAt t 6 1 = s.lcs ∧
    (if leAt t 6 1 = 0 then g = true else pssVerify s.stored.ownerKey (sha256 (t.take 0x280)) ((t.drop 0x280).take 384) = true)) ∧
  ∀ (g : Bool) (s : State), (s.upd.tokenBusy = false ∨ s.power.pfw = true) → exec (.tokenProcessed g) s = .next s

/-! ### The cycle -/

/-- T0 (R145 to R147, R164, R178, R212): none falls while it is not due; a firmware activation resets the module in its place with cause 0x3; otherwise the cycle begins: every lane starts afresh, at the first t0 from the element words of R93 at epoch 0, the Sieve awaits new words of the present members, or has concluded where fewer than two of them have their rails low, and a snapshot of the new cycle and of its instant carries the staged descriptors that have room, and after them the requests of PORT_MAINT. A lane has no words from the cycle before but the completions of waves that the boundary withdraws. Outside STOPPED the t0 follows the last by T_cyc and the halted time in whole rounds, with the next number; a new T_cyc takes effect at its first multiple. -/
def Obligations.BoundaryOpensACycle : Prop :=
  ∀ (ia ib ic : Nat) (pa pb pc : LaneT0) (s : State),
    (t0Due s = true ↔ s.power.por = false ∧ s.power.booted = true ∧ s.power.kilnDone = true ∧ s.power.refused = false ∧ s.power.retired = false ∧ s.power.ioiLost = false ∧
      (∀ l, (s.lanes.get l).dbgHold = false) ∧ (s.cyc.started = true ∨ startupDone s = true)) ∧
    (t0Due s = false → exec (.t0 ia ib ic pa pb pc) s = .next s) ∧
    (t0Due s = true → s.upd.activate = true → ∃ t, exec (.t0 ia ib ic pa pb pc) s = .next t ∧ AfterReset s t ∧ t.reg R.PWR_RSTCAUSE = 3 ∧ Strapped s.sby.strap s.power.addr s t ∧
      t.bu.bootcnt = s.bu.bootcnt + 1 ∧ t.bu.trial = s.bu.trial) ∧
    (t0Due s = true → s.upd.activate = false → ∃ t, exec (.t0 ia ib ic pa pb pc) s = .next t ∧
      t.cyc.started = true ∧ t.cyc.halted = 0 ∧ t.cyc.consensusDone = false ∧ t.cyc.committed = false ∧ t.cyc.housed = false ∧ t.cyc.timeBase = max s.cyc.timeBase t.cyc.lastT0 ∧
      t.cyc.lastT0 = nextT0 s ∧ t.cyc.tcyc = nextTcyc s ∧ t.cyc.cycle = (nextCycle s).1 ∧
      (s.cyc.started = false → t.cyc.cycle = 0) ∧
      (s.cyc.started = false → s.group.release = [] → s.group.rejoin = none → s.group.directLeave = none → s.group.modeTo = none → s.loamNext = none →
        ∀ l, (s.lanes.get l).running = true → (t.lanes.get l).eOld = 0 ∧ (t.lanes.get l).eCur = 0 ∧ (t.lanes.get l).stepped = [] ∧
          (∀ m, s.loam = some m → (t.lanes.get l).sram = initSram (memberNo s) l m 0) ∧ (s.loam = none → (t.lanes.get l).sram = [])) ∧
      t.cyc.tcyc = (if leavesStopped s then (s.snap.map (·.set.tcyc)).getD s.cyc.tcyc else s.cyc.tcycNext) ∧
      (s.cyc.started = true → s.level ≠ .stopped → t.cyc.cycle = s.cyc.cycle + 1) ∧
      (s.cyc.started = true → ∀ u, u = s.cyc.lastT0 + 1000 * s.cyc.tcyc + (s.cyc.halted + 999) / 1000 * 1000 →
        (t.cyc.tcyc = s.cyc.tcyc → t.cyc.lastT0 = u) ∧
        (t.cyc.tcyc ≠ s.cyc.tcyc → 0 < t.cyc.tcyc → t.cyc.lastT0 % (1000 * t.cyc.tcyc) = 0 ∧ u ≤ t.cyc.lastT0 ∧ t.cyc.lastT0 < u + 1000 * t.cyc.tcyc)) ∧
      (∀ l, (t.lanes.get l).snap = none ∧ (t.lanes.get l).place = .entry ∧ (∀ w, w ∈ (t.lanes.get l).words → ∃ c, w = .cmpl c ∧ c.opcode = opRouteSet ∧ c.status = stLevel) ∧
        (t.lanes.get l).decided = false ∧ (t.lanes.get l).closed = false ∧ (t.lanes.get l).digest = none ∧ (t.lanes.get l).set.tcyc = t.cyc.tcyc) ∧
      (t.sieve.latch = s.sieve.latch → t.sieve.members = memberSet t) ∧ t.sieve.digests = ⟨none, none, none⟩ ∧ t.sieve.words = ⟨[], [], []⟩ ∧
      t.sieve.concluded = decide (setSize (railLow t t.sieve.members) < 2) ∧
      (∃ sn, t.snap = some sn ∧ sn.cycle = t.cyc.cycle ∧ sn.tb = t.cyc.timeBase ∧
        ((∀ d ∈ s.hif.staging, d.2.maint = false) → (∀ d ∈ s.hif.maint, d.2.maint = true) →
          ∃ h p, sn.descs = h ++ p ∧ h ++ t.hif.staging = s.hif.staging ∧ p ++ t.hif.maint = s.hif.maint ∧ (p ≠ [] → t.hif.staging = [])) ∧
        sn.verdict.isSome = (!s.cyc.started || (s.sieve.concluded && chanOpen s .agreed))) ∧
      t.bu.bootcnt = s.bu.bootcnt ∧ t.fsn.round = s.fsn.round ∧ t.can.length = s.can.length)

/-- SNAPSHOT, SNAPSHOT_DIGEST and CONSENSUS_DEADLINE (R22, R147, R149, R151, R208, R212): a lane takes the snapshot with its digest and waits for its peers; with every digest there, or silent, a lane that the verdict names and that no two equal ones outvote goes on, and any other stops; at the deadline a cycle that every lane has decided goes on unchanged, a member without its snapshot leaves, and a time base lost beyond holdover is BEDROCK with cause 0x7. -/
def Obligations.ConsensusComparesSnapshots : Prop :=
  (∀ (l : Lane) (sn : Snap) (s : State), NoHalt s → s.snap = some sn → (s.lanes.get l).running = true → (s.lanes.get l).snap = none → snapOpen s l = true →
    ∃ t, exec (.snapshot l) s = .next t ∧ (t.lanes.get l).snap = some sn ∧ (t.lanes.get l).digests = (s.lanes.get l).digests.set l (some (snapDigest sn)) ∧
      (t.lanes.get l).sram = (s.lanes.get l).sram ∧ (t.lanes.get l).words = (s.lanes.get l).words ∧ (t.lanes.get l).prevInputs = (s.lanes.get l).inputs ∧
      (t.lanes.get l).set.dbg = sn.set.dbg ∧ (sn.set.dbg = true → (t.lanes.get l).drive = 0) ∧
      (∀ v k, sn.verdict = some v → (s.lanes.get l).st ≠ .silent → k ≠ l → inSet v.members k = true → (s.lanes.get l).digests.get k = none →
        OthersKeep l s t ∧ t = { s with lanes := t.lanes } ∧ (t.lanes.get l).reg = (s.lanes.get l).reg ∧ (t.lanes.get l).decided = (s.lanes.get l).decided) ∧
      ((s.lanes.get l).decided = false → sn.verdict = none → Stopped (t.lanes.get l)) ∧
      (∀ v, (s.lanes.get l).decided = false → sn.verdict = some v →
        ((s.lanes.get l).st = .silent → inSet v.members l = false → t = { s with lanes := t.lanes } ∧ (t.lanes.get l).decided = true ∧ (t.lanes.get l).running = true) ∧
        ((s.lanes.get l).st ≠ .silent → (∀ k, k ≠ l → inSet v.members k = true → (s.lanes.get l).digests.get k ≠ none) →
          (inSet v.members l = false → Stopped (t.lanes.get l)) ∧
          (inSet v.members l = true → (∃ k, k ≠ l ∧ inSet v.members k = true ∧ (s.lanes.get l).digests.get k = some (snapDigest sn)) →
            OthersKeep l s t ∧ t = { s with lanes := t.lanes } ∧ (t.lanes.get l).decided = true ∧ (t.lanes.get l).running = true) ∧
          (inSet v.members l = true → (∀ j k, j ≠ l → k ≠ l → j ≠ k → inSet v.members j = true → inSet v.members k = true → (s.lanes.get l).digests.get j ≠ (s.lanes.get l).digests.get k) →
            OthersKeep l s t ∧ t = { s with lanes := t.lanes } ∧ (t.lanes.get l).decided = true ∧ (t.lanes.get l).running = true) ∧
          (∀ j k d, inSet v.members l = true → j ≠ l → k ≠ l → j ≠ k → inSet v.members j = true → inSet v.members k = true → (s.lanes.get l).digests.get j = some d →
            (s.lanes.get l).digests.get k = some d → d ≠ snapDigest sn → Stopped (t.lanes.get l))))) ∧
  (∀ (l : Lane) (s : State), (s.snap = none ∨ (s.lanes.get l).running = false ∨ (s.lanes.get l).snap ≠ none ∨ (s.lanes.get l).dbgHold = true ∨ snapOpen s l = false) →
    exec (.snapshot l) s = .next s) ∧
  (∀ (l k : Lane) (d : DWord) (s : State), (k = l ∨ (s.lanes.get l).running = false ∨ (s.lanes.get l).decided = true ∨ chanOpen s (.inter k l) = false) →
    exec (.snapshotDigest l k d) s = .next s) ∧
  (∀ (l k : Lane) (d : DWord) (s : State), k ≠ l → (s.lanes.get l).running = true → (s.lanes.get l).decided = false → chanOpen s (.inter k l) = true →
    ((∃ j, (j = l ∨ inSet (namedMembers (s.lanes.get l)) j = true) ∧ j ≠ k ∧ (s.lanes.get l).digests.get j = none) →
      exec (.snapshotDigest l k d) s = .next (s.updLane l fun x => { x with digests := x.digests.set k (some d) })) ∧
    ∀ sn v e, (s.lanes.get l).snap = some sn → sn.verdict = some v → (s.lanes.get l).digests.get l = some e → (∀ j, j ≠ l → j ≠ k → inSet v.members j = true → (s.lanes.get l).digests.get j ≠ none) →
      (inSet v.members l = true → inSet v.members k = true → d = e → exec (.snapshotDigest l k d) s = .next (s.updLane l fun x => { x with digests := x.digests.set k (some d), decided := true })) ∧
      (∀ j, inSet v.members l = true → inSet v.members k = true → j ≠ l → j ≠ k → inSet v.members j = true → (s.lanes.get l).digests.get j = some d → d ≠ e →
        ∃ t, exec (.snapshotDigest l k d) s = .next t ∧ Stopped (t.lanes.get l)) ∧
      (inSet v.members l = true → inSet v.members k = true → (∀ j, j ≠ l → j ≠ k → inSet v.members j = false) →
        exec (.snapshotDigest l k d) s = .next (s.updLane l fun x => { x with digests := x.digests.set k (some d), decided := true })) ∧
      (inSet v.members l = false → (s.lanes.get l).st ≠ .silent → ∃ t, exec (.snapshotDigest l k d) s = .next t ∧ Stopped (t.lanes.get l))) ∧
  (∀ s : State, (s.cyc.started = false ∨ s.cyc.consensusDone = true ∨ anyHold s = true) → exec .consensusDeadline s = .next s) ∧
  (∀ s : State, s.cyc.started = true → s.cyc.consensusDone = false → anyHold s = false →
    (∃ t, exec .consensusDeadline s = .next t ∧ t.cyc = { s.cyc with consensusDone := true } ∧ t.snap = s.snap) ∧
    (∀ l, s.snap ≠ none → s.sieve.digests = ⟨none, none, none⟩ → s.group.rejoin = none → s.group.proof = none → (s.lanes.get l).st = .member → (s.lanes.get l).running = true → (s.lanes.get l).snap = none →
      ∃ t, exec .consensusDeadline s = .next t ∧ OutFor (t.lanes.get l) 3) ∧
    (Decided s → (∀ l, (s.lanes.get l).st = .member → (s.lanes.get l).running = true) → 2 ≤ setSize (railLow s s.sieve.members) → s.sieve.digests = ⟨none, none, none⟩ →
      (bedrockCauses s = [] → exec .consensusDeadline s = .next { s with cyc := { s.cyc with consensusDone := true } }) ∧
      (∀ sn, s.snap = some sn → sn.holdLost = true → 2 ≤ setSize (memberSet s) → consensusHeld s = true → s.level.serves = true →
        ∃ t, exec .consensusDeadline s = .next t ∧ t.level = .bedrock ∧ t.levelCause = 7 ∧ t.cyc.consensusDone = true)))

/-! ### What LOGIC does (R82 to R99, R108 to R136, R152, R170) -/

/-- Where no halt point stops it, LOGIC of a serving module is, in this order (R99, R108, R152, R161): the changes that wait and the marks, the online changes, ripples of propagation up to PROPMAX, the route and element requests, outside BEDROCK the route-map items and the wave passes, the sweep, the reads, and assembly of the messages. A stratum leaves in each of its elements the step's result with its check at E_CUR, marks the neighbours of a changed word, and touches no other word (R98, R99, R179). At the start of LOGIC the epochs advance and inputs that have changed and KEY elements are dirty; a confirmed change is in force with its adjustment; in BEDROCK every element's word is cleared, and waves end with SERVICE_LEVEL (R47, R170, R178). LOGIC (R152, R161, R192) and the events inside it (R82, R89 to R92): held, in STOPPED, in a takeover cycle or without an image, a lane without requests goes straight to its OUTPUT, whose messages it presents; a disturbance is a code fault with CAUSE 0x4. Of an element that no step of the cycle has counted, a running timer whose REMAIN is no more than the cycle's d becomes expired, a movement that reaches its limit writes FAULTED with MOVET at its maximum, and the third mismatch writes FAULTED with ASPECT 0; each writes that one word, with its check, in every running lane, and nothing elsewhere; a word that fails its check is a code fault. -/
def Obligations.LogicRunsAndItsTimersWriteOneWord : Prop :=
  ((∀ (l : Lane) (m : Loam) (s : State) (x y : LaneSt) (ctx : LaneSt → Ctx), (∀ y, ctx y = ctxOf (s.updLane l fun _ => y) l) → x = s.lanes.get l → y = logicOf ctx m x →
     s.loam = some m → s.level ≠ .stopped → s.sby.takeover ≠ some s.cyc.cycle → isStandby s = false → s.group.shown = [] → consensusOpen s = false → x.decided = true → x.snap.isSome = true →
     x.place = .entry → x.goesOn = true → y.goesOn = true → y.place = .output →
     ∀ ms z, ms = cycleMsgs (s.updLane l fun _ => y) l → z = (if ms.isEmpty then y else assembleElems (ctx y) m (!s.level.serves) y) → z.cx = none →
       exec (.logic l none) s = .next (s.updLane l fun _ => { z.addTerms (messageTerms (ms.map OutWord.msg ++ z.words)) with
         words := ms.map OutWord.msg ++ z.words, place := .done, outNext := if s.level.serves then outputsOn ms else 0 })) ∧
   (∀ (c : Ctx) (m : Loam) (sweep : Bool) (set es : List ElemIx) (x y : LaneSt) (st : Nat), y = runStratum c m sweep set x st → es = set.filter (fun i => (m.elem i).stratum == st) →
     Memory.wf (spareByte c.lane) x.sram = true → x.cx = none → x.drained = true → es.Nodup →
     (∀ i ∈ es, i < m.elems.length ∧ (∀ k ∈ stepLoads m i, loadOk c m x k = true) ∧ (programOf m (m.elem i)).all ruleOk = true ∧ ∀ j ∈ es, j ∉ nbrsOf (m.elem i)) →
     y.cx = none ∧ y.drained = true ∧ ∀ i,
       (i ∈ es → sramInfo c.lane y.sram i = stepWord c m x i ∧ sramCheck c.lane y.sram i = checkField c.lane (stepWord c m x i) x.eCur ∧ i ∈ y.stepped) ∧
       (i ∉ es → sramWord c.lane y.sram i = sramWord c.lane x.sram i ∧ (i ∈ y.stepped ↔ i ∈ x.stepped)) ∧
       (i ∈ y.reg.dirty ↔ i ∈ x.reg.dirty ∨ ∃ j ∈ es, i ∈ nbrsOf (m.elem j) ∧ stepWord c m x j ≠ infoOf c x j) ∧
       (i ∈ y.reg.routeMap ↔ i ∈ x.reg.routeMap ∨ sweep = true ∧ i ∈ es ∧ needsAttention x (m.elem i).ty (stepWord c m x i) = true)) ∧
   ∀ (c : Ctx) (m : Loam) (x y : LaneSt), y = logicBegin c m x →
     y.eOld = x.eCur ∧ y.eCur = c.cycle ∧ y.stepped = [] ∧
     (∀ i, i < m.elems.length → (assoc i x.inputs ≠ assoc i x.prevInputs ∨ (m.elem i).ty = tyKey) → i ∈ y.reg.dirty) ∧
     (c.level ≠ .bedrock → x.reg.confirmed = none → y.sram = x.sram ∧ y.words = x.words ∧ ∀ i, i ∈ y.reg.dirty ↔ i ∈ x.reg.dirty ∨ i ∈ changedInputs m x ∨ i ∈ keyElems m) ∧
     (CtlReady c m (x.startLogic c.cycle) →
       (∀ p, c.level ≠ .bedrock → x.reg.confirmed = some p → p.elem < m.elems.length → y.cx = none ∧ y.reg.confirmed = none ∧ p.elem ∈ y.reg.dirty ∧ paramOf m y p.elem = p.value.toNat ∧
         (∀ j, j ≠ p.elem → paramOf m y j = paramOf m x j) ∧ sramInfo c.lane y.sram p.elem = iputs (infoOf c x p.elem) (adjustFields (m.elem p.elem).ty p.value.toNat (infoOf c x p.elem)) ∧
         ∀ j, j ≠ p.elem → sramWord c.lane y.sram j = sramWord c.lane x.sram j) ∧
       (c.level = .bedrock → x.reg.confirmed = none → y.cx = none ∧ y.reg.waves = [] ∧
         (∀ w ∈ x.reg.waves, w.copied = false → ∃ r, OutWord.cmpl (mkCmpl opRouteSet w.req stLevel c.cycle r) ∈ y.words) ∧
         ∀ i < m.elems.length, (m.elem i).ty ≠ tyNone → ∀ w, w = infoOf c x i → i ∈ y.reg.dirty ∧ sramInfo c.lane y.sram i = iputs w ([(19, 2, 0)] ++
           if (m.elem i).ty = tyTrk then [(11, 8, 0), (7, 2, 0)]
           else if (m.elem i).ty = tySig then [(11, 8, 0), (7, 4, 0), (2, 1, 0)]
           else if (m.elem i).ty = tyPnt ∨ (m.elem i).ty = tyXng then [(11, 8, 0)]
           else if (m.elem i).ty = tyRte then [(7, 4, 0), (11, 8, 0), (2, 1, 0)]
           else if (m.elem i).ty = tyOvl then [(11, 8, 0), (9, 2, 0), (8, 1, 0)]
           else if (m.elem i).ty = tyFlk then [(11, 8, 0), (9, 1, 0), (10, 1, 0)]
           else if (m.elem i).ty = tyKey ∧ ifld w 15 1 = 1 then [(14, 1, 1)] else [])))) ∧
  ((∀ (l : Lane) (sn : Snap) (s : State), NoHalt s → (s.level = .stopped ∨ s.loam = none ∨ s.sby.takeover = some s.cyc.cycle) → consensusOpen s = false →
     (s.lanes.get l).running = true → (s.lanes.get l).decided = true → (s.lanes.get l).cx = none → (s.lanes.get l).snap = some sn → sn.descs = [] → s.group.shown = [] → (s.lanes.get l).place = .entry →
     (cycleMsgs s l = [] ∨ CtlIdle s ∧ ∀ m, s.loam = some m → LoadsOk m s) → ∃ t, exec (.logic l none) s = .next t ∧ t = { s with lanes := t.lanes } ∧ OthersKeep l s t ∧
       t.lanes.get l = { s.lanes.get l with place := .done, outNext := if s.level.serves then outputsOn (cycleMsgs s l) else 0, units := (t.lanes.get l).units,
                                            words := (cycleMsgs s l).map OutWord.msg ++ (s.lanes.get l).words }) ∧
   (∀ (l : Lane) (x : Option Disturb) (s : State), ((s.lanes.get l).running = false ∨ (s.lanes.get l).decided = false ∨ (s.lanes.get l).snap = none ∨ (s.lanes.get l).place = .done ∨
       (s.lanes.get l).dbgHold = true ∨ consensusOpen s = true) → exec (.logic l x) s = .next s) ∧
   (∀ (l : Lane) (d : Disturb) (s : State), (s.lanes.get l).running = true → (s.lanes.get l).decided = true → (s.lanes.get l).snap.isSome = true →
     (s.lanes.get l).place ≠ .done → (s.lanes.get l).dbgHold = false → consensusOpen s = false → ∃ t, exec (.logic l (some d)) s = .next t ∧ LaneFaulted l 4 s t ∧
       (RegsOk s → t.reg R.DBG_CXELEM = d.elem.setWidth 32)) ∧
   (∀ (i : BitVec 23) (m : Loam) (s : State) (p : Nat), SramOk s → s.loam = some m → i.toNat < m.elems.length → logicLive s = true → (∀ l, (s.lanes.get l).cx = none) → CtlIdle s →
     (∀ l, (s.lanes.get l).running = true → loadOk (ctxOf s l) m (s.lanes.get l) i.toNat = true) →
     (∃ t, exec (.timerExpired i) s = .next t ∧ InEachRunning s t fun l x y =>
       (((m.elem i.toNat).ty = tyTmr ∧ wfld (ctxOf s l) x i.toNat 17 2 = 1 ∧ i.toNat ∉ x.timers ∧ countedNow x i.toNat = false ∧
           wfld (ctxOf s l) x i.toNat 0 17 ≤ (if (paramOf m x i.toNat).testBit 17 then b2n (ctxOf s l).newTick else x.set.tcyc)) →
         ElementWork x y ∧ y.words = x.words ∧ Wrote l i.toNat (iputs (infoOf (ctxOf s l) x i.toNat) [(0, 17, 0), (17, 2, 2)]) x y) ∧
       (¬ ((m.elem i.toNat).ty = tyTmr ∧ wfld (ctxOf s l) x i.toNat 17 2 = 1 ∧ i.toNat ∉ x.timers ∧ countedNow x i.toNat = false ∧
           wfld (ctxOf s l) x i.toNat 0 17 ≤ (if (paramOf m x i.toNat).testBit 17 then b2n (ctxOf s l).newTick else x.set.tcyc)) → y = x)) ∧
     (∃ t, exec (.moveMax i) s = .next t ∧ InEachRunning s t fun l x y => p = paramOf m x i.toNat →
       ((m.elem i.toNat).ty = tyPnt → (countedNow x i.toNat = false ∧ (m.elem i.toNat).ruleLen ≠ 0 ∧ wfld (ctxOf s l) x i.toNat 9 2 ≠ wfld (ctxOf s l) x i.toNat 7 2 ∧ s.cyc.cycle % 2 ^ fld p 7 3 = 0 ∧
           fld p 0 7 ≤ wfld (ctxOf s l) x i.toNat 0 7 + 1) →
         ElementWork x y ∧ y.words = x.words ∧ Wrote l i.toNat (iputs (infoOf (ctxOf s l) x i.toNat) [(0, 7, fld p 0 7), (22, 2, 0)]) x y) ∧
       ((m.elem i.toNat).ty = tyPnt → ¬ (countedNow x i.toNat = false ∧ (m.elem i.toNat).ruleLen ≠ 0 ∧ wfld (ctxOf s l) x i.toNat 9 2 ≠ wfld (ctxOf s l) x i.toNat 7 2 ∧ s.cyc.cycle % 2 ^ fld p 7 3 = 0 ∧
           fld p 0 7 ≤ wfld (ctxOf s l) x i.toNat 0 7 + 1) → y = x) ∧
       ((m.elem i.toNat).ty = tyXng → (countedNow x i.toNat = false ∧ (m.elem i.toNat).ruleLen ≠ 0 ∧ takesInput (memberNo s) (m.elem i.toNat) = true ∧
           (wfld (ctxOf s l) x i.toNat 9 2 ≠ wfld (ctxOf s l) x i.toNat 7 2 ∨ wfld (ctxOf s l) x i.toNat 6 1 ≠ wfld (ctxOf s l) x i.toNat 5 1) ∧ s.cyc.cycle % 2 ^ fld p 5 3 = 0 ∧
           fld p 0 5 ≤ wfld (ctxOf s l) x i.toNat 0 5 + 1) →
         ElementWork x y ∧ y.words = x.words ∧ Wrote l i.toNat (iputs (infoOf (ctxOf s l) x i.toNat) [(0, 5, fld p 0 5), (22, 2, 0)]) x y) ∧
       ((m.elem i.toNat).ty = tyXng → ¬ (countedNow x i.toNat = false ∧ (m.elem i.toNat).ruleLen ≠ 0 ∧ takesInput (memberNo s) (m.elem i.toNat) = true ∧
           (wfld (ctxOf s l) x i.toNat 9 2 ≠ wfld (ctxOf s l) x i.toNat 7 2 ∨ wfld (ctxOf s l) x i.toNat 6 1 ≠ wfld (ctxOf s l) x i.toNat 5 1) ∧ s.cyc.cycle % 2 ^ fld p 5 3 = 0 ∧
           fld p 0 5 ≤ wfld (ctxOf s l) x i.toNat 0 5 + 1) → y = x) ∧
       ((m.elem i.toNat).ty ≠ tyPnt → (m.elem i.toNat).ty ≠ tyXng → y = x)) ∧
     (∃ t, exec (.mismLimit i) s = .next t ∧ InEachRunning s t fun l x y =>
       (((m.elem i.toNat).ty = tySig ∧ countedNow x i.toNat = false ∧ (m.elem i.toNat).ruleLen ≠ 0 ∧ takesInput (memberNo s) (m.elem i.toNat) = true ∧
           wfld (ctxOf s l) x i.toNat 3 4 ≠ wfld (ctxOf s l) x i.toNat 7 4 ∧ 2 ≤ wfld (ctxOf s l) x i.toNat 0 2) →
         ElementWork x y ∧ y.words = x.words ∧ Wrote l i.toNat (iputs (infoOf (ctxOf s l) x i.toNat) [(0, 2, 3), (7, 4, 0), (22, 2, 0)]) x y) ∧
       (¬ ((m.elem i.toNat).ty = tySig ∧ countedNow x i.toNat = false ∧ (m.elem i.toNat).ruleLen ≠ 0 ∧ takesInput (memberNo s) (m.elem i.toNat) = true ∧
           wfld (ctxOf s l) x i.toNat 3 4 ≠ wfld (ctxOf s l) x i.toNat 7 4 ∧ 2 ≤ wfld (ctxOf s l) x i.toNat 0 2) → y = x))) ∧
   (∀ (i : BitVec 23) (m : Loam) (l : Lane) (s : State), s.loam = some m → i.toNat < m.elems.length → logicLive s = true → (∀ k, (s.lanes.get k).cx = none) → CtlIdle s →
     (s.lanes.get l).running = true → (s.lanes.get l).st = .member → (∀ k, k ≠ l → loadOk (ctxOf s k) m (s.lanes.get k) i.toNat = true) → loadOk (ctxOf s l) m (s.lanes.get l) i.toNat = false →
     ∀ c ∈ [(Instr.timerExpired i, timerFields i.toNat), (.moveMax i, moveFields i.toNat), (.mismLimit i, mismFields i.toNat)], c.2 (ctxOf s l) m (s.lanes.get l) ≠ [] →
       ∃ t, exec c.1 s = .next t ∧ OutFor (t.lanes.get l) 4) ∧
   ∀ (i : BitVec 23) (s : State), (s.loam = none ∨ logicLive s = false ∨ ∀ m, s.loam = some m → m.elems.length ≤ i.toNat) →
     exec (.timerExpired i) s = .next s ∧ exec (.moveMax i) s = .next s ∧ exec (.mismLimit i) s = .next s)

/-! ### The cycle -/

/-- The limits of the route engine (R99, R110, R118, R124, R169): PROPMAX ends propagation at the barrier after the last stratum of its ripple, WSTEPS ends the passes at the budget, with EXH and source 84 where a wave has a step left; the limit of a free search whose next action is a forward step, and the end of a wave's life, start a retreat with FAIL 0x6, which a wave without claims ends at once with TIMEOUT while a LOCKING wave outlives its life, and a proposal past its window becomes the expired one. Each event changes nothing where its condition does not hold. -/
def Obligations.RouteEngineLimitsEndTheirWork : Prop :=
  (∀ (l : Lane) (s : State),
    (∀ k st set, (s.lanes.get l).place = .ripple k st set → (s.lanes.get l).running = true → (s.lanes.get l).dbgHold = false → (imageOf s).propmax ≤ k → (imageOf s).strata ≤ st →
      exec (.propMax l) s = .next (s.updLane l fun x => { x with place := .requests, passHalt := false })) ∧
    ((∀ k st set, (s.lanes.get l).place = .ripple k st set → (s.lanes.get l).running = false ∨ (s.lanes.get l).dbgHold = true ∨ k < (imageOf s).propmax ∨ st < (imageOf s).strata) →
      exec (.propMax l) s = .next s)) ∧
  (∀ (l : Lane) (s : State),
    (∀ k, (s.lanes.get l).place = .pass k → (s.lanes.get l).running = true → (s.lanes.get l).dbgHold = false → (s.lanes.get l).set.wsteps ≤ (s.lanes.get l).rpt.steps →
      ∃ t, exec (.wSteps l) s = .next t ∧ t = { s with lanes := t.lanes } ∧ OthersKeep l s t ∧
        t.lanes.get l = { s.lanes.get l with place := .sweep 0, passHalt := false, rpt := (t.lanes.get l).rpt, units := (t.lanes.get l).units } ∧
        (t.lanes.get l).rpt.steps = (s.lanes.get l).rpt.steps ∧ (t.lanes.get l).rpt.staged = true ∧ (t.lanes.get l).rpt.exh = (s.lanes.get l).reg.waves.any live ∧
        ((s.lanes.get l).reg.waves.any live = true → 84 ∈ (t.lanes.get l).rpt.sources)) ∧
    ((∀ k, (s.lanes.get l).place = .pass k → (s.lanes.get l).running = false ∨ (s.lanes.get l).dbgHold = true ∨ (s.lanes.get l).rpt.steps < (s.lanes.get l).set.wsteps) →
      exec (.wSteps l) s = .next s)) ∧
  (∀ (n : BitVec 8) (s : State), s.loam = none → exec (.searchMax n) s = .next s ∧ exec (.waveLife n) s = .next s) ∧
  (∀ (n : BitVec 8) (m : Loam) (s : State), SramOk s → s.loam = some m → (∀ l, (s.lanes.get l).cx = none) → CtlIdle s → LoadsOk m s →
    (∃ t, exec (.searchMax n) s = .next t ∧ InEachRunning s t fun l x y =>
      (waveOf x n.toNat = none → y = x) ∧
      (∀ w, waveOf x n.toNat = some w → (w.st ≠ .searching ∨ (rowOf m x w.rte).kind ≠ 1 ∨ w.fwd < x.set.searchmax ∨ stepsNext (ctxOf s l) m x w = false) → y = x) ∧
      (∀ w, waveOf x n.toNat = some w → w.st = .searching → (rowOf m x w.rte).kind = 1 → x.set.searchmax ≤ w.fwd → stepsNext (ctxOf s l) m x w = true → w.trail ≠ [] →
        waveOf y n.toNat = some { w with st := .retreating, retreat := .ending 6, flanks := [] } ∧
        (∀ k, k ≠ n.toNat → waveOf y k = waveOf x k) ∧ y = { x with reg := { x.reg with waves := y.reg.waves }, rpt := { x.rpt with retCnt := x.rpt.retCnt + 1 } }) ∧
      (∀ w, waveOf x n.toNat = some w → w.st = .searching → (rowOf m x w.rte).kind = 1 → x.set.searchmax ≤ w.fwd → stepsNext (ctxOf s l) m x w = true → w.trail = [] →
        waveOf y n.toNat = none ∧ (∀ k, k ≠ n.toNat → waveOf y k = waveOf x k) ∧
        (w.copied = false → ∃ r, Answers s opRouteSet w.req stTimeout r x y) ∧ (w.copied = true → y.words = x.words) ∧ Wrote l w.rte (iputs (infoOf (ctxOf s l) x w.rte) [(7, 4, 0), (11, 8, 0), (3, 4, 6), (2, 1, 0)]) x y ∧
        y.rpt.unsetCnt = x.rpt.unsetCnt + 1 ∧ 80 ∈ y.rpt.sources)) ∧
    (∃ t, exec (.waveLife n) s = .next t ∧ InEachRunning s t fun l x y =>
      (waveOf x n.toNat = none → y = x) ∧
      (∀ w, waveOf x n.toNat = some w → (w.st = .locking ∨ (w.st = .retreating ∧ ∃ f, w.retreat = .ending f) ∨ s.cyc.cycle - w.accepted < x.set.wavelife) → y = x) ∧
      (∀ w, waveOf x n.toNat = some w → w.st ≠ .locking → (w.st = .retreating → ∀ f, w.retreat ≠ .ending f) → x.set.wavelife ≤ s.cyc.cycle - w.accepted →
        (w.trail ≠ [] → waveOf y n.toNat = some { w with st := .retreating, retreat := .ending 6, flanks := [] } ∧ (∀ k, k ≠ n.toNat → waveOf y k = waveOf x k) ∧
          y = { x with reg := { x.reg with waves := y.reg.waves }, rpt := { x.rpt with retCnt := x.rpt.retCnt + if w.st = .retreating then 0 else 1 } }) ∧
        (w.trail = [] → waveOf y n.toNat = none ∧ (∀ k, k ≠ n.toNat → waveOf y k = waveOf x k) ∧ (w.copied = false → ∃ r, Answers s opRouteSet w.req stTimeout r x y) ∧ (w.copied = true → y.words = x.words) ∧
          Wrote l w.rte (iputs (infoOf (ctxOf s l) x w.rte) [(7, 4, 0), (11, 8, 0), (3, 4, 6), (2, 1, 0)]) x y ∧ y.rpt.unsetCnt = x.rpt.unsetCnt + 1 ∧ 80 ∈ y.rpt.sources)))) ∧
  ∀ s : State, ∃ t, exec .confirmWindow s = .next t ∧ InEachRunning s t fun _ x y =>
    (x.reg.proposal = none → y = x) ∧
    (∀ p, x.reg.proposal = some p → s.cyc.cycle ≤ p.cycle + x.set.window → y = x) ∧
    (∀ p, x.reg.proposal = some p → p.cycle + x.set.window < s.cyc.cycle → y = { x with reg := { x.reg with proposal := none, expired := some p } })

/-- SIGNATURE_CLOSE, OUTPUT_COMMIT and HOUSEKEEPING (R150, R154, R194, R195, R204 to R206, R213, R215, R494): a lane whose checks pass rotates its signature and adds the cycle's terms with the canary's; one whose delay registers are not empty, whose steps did not agree, or whose canary word fails its check, has a code fault; the commit presents the digest, the check word unless it demands the latch, the words, with the level of a MODE_REQUEST and the role of a STANDBY_SWITCH as they stand, and the drive lines, of which there are none outside FULL and REDUCED; HOUSEKEEPING follows the commit of every lane, once, and spends the skips that overruns have left. -/
def Obligations.CyclesCloseAndCommit : Prop :=
  (∀ (l : Lane) (s : State), (s.lanes.get l).running = true → (s.lanes.get l).place = .done → (s.lanes.get l).closed = false → (s.lanes.get l).dbgHold = false →
    (loadOk (ctxOf s l) (imageOf s) (s.lanes.get l) (canaryIx s) = true → (s.lanes.get l).drained = true → (∀ u ∈ (s.lanes.get l).units, u.2.issued = u.2.agreed) →
      exec (.signatureClose l none) s = .next (s.updLane l fun x => { x with
        sigma := x.sigma.rotateLeft 1 + x.accSum + sigTerm (canaryIx s) (64 + s.cyc.cycle % 48), units := [], canaryBit := s.cyc.cycle % 48, canaryOk := true, closed := true })) ∧
    ((loadOk (ctxOf s l) (imageOf s) (s.lanes.get l) (canaryIx s) = false ∨ (s.lanes.get l).drained = false ∨ (∃ u ∈ (s.lanes.get l).units, u.2.issued ≠ u.2.agreed)) →
      ∃ t, exec (.signatureClose l none) s = .next t ∧ LaneFaulted l 4 s t) ∧
    (∀ d, ∃ t, exec (.signatureClose l (some d)) s = .next t ∧ LaneFaulted l 4 s t ∧ (RegsOk s → t.reg R.DBG_CXELEM = d.elem.setWidth 32))) ∧
  (∀ (l : Lane) (d : Option Disturb) (s : State), ((s.lanes.get l).running = false ∨ (s.lanes.get l).place ≠ .done ∨ (s.lanes.get l).closed = true ∨ (s.lanes.get l).dbgHold = true) →
    exec (.signatureClose l d) s = .next s) ∧
  (∀ s : State, (commitDue s = true ↔ ∃ l, (s.lanes.get l).commits = true)) ∧
  (∀ s : State, (commitDue s = false ∨ anyHold s = true) → exec .outputCommit s = .next s) ∧
  (∀ s : State, NoHalt s → commitDue s = true → ∃ t, exec .outputCommit s = .next t ∧ t.cyc = { s.cyc with committed := true } ∧ t.level = s.level ∧ t.sieve = s.sieve ∧
    ∀ l, (s.lanes.get l).commits = true → (t.lanes.get l).digest ≠ none ∧ (t.lanes.get l).presented = (t.lanes.get l).words ∧ (t.lanes.get l).outOn = (if s.level.serves then (s.lanes.get l).outNext else 0) ∧
      (t.lanes.get l).sram = (s.lanes.get l).sram ∧
      (t.lanes.get l).checkOut = (if (s.lanes.get l).demand then none else some (checkWordOf l s.cyc.cycle)) ∧
      (t.lanes.get l).drive = (if s.level.serves then (if s.sby.pairenNow = true ∧ t.sby.role ≠ .active then 0 else (s.lanes.get l).outNext.setWidth 18) |||
        (if t.sby.role = .active then 0x10000 else 0) ||| 0x20000 else 0)) ∧
  (∀ s u v : State, NoHalt s → s.sby.pairenNow = false → s.sby.role = .alone → s.sby.acting = .alone → s.sby.plan = 0 → commitDue s = true → u = { s with cyc := { s.cyc with committed := true } } →
    v = u.updLanes (fun _ x => if x.commits then settleMode u x else x) → (∃ t, exec .outputCommit s = .next t ∧ t = { v with lanes := t.lanes } ∧
      ∀ l, (if (s.lanes.get l).commits then t.lanes.get l = { v.lanes.get l with
          digest := some (cycleDigest v l), checkOut := if (s.lanes.get l).demand then none else some (checkWordOf l s.cyc.cycle), outOn := if s.level.serves then (s.lanes.get l).outNext else 0,
          drive := if s.level.serves then (s.lanes.get l).outNext.setWidth 18 ||| 0x20000 else 0, presented := (v.lanes.get l).words }
        else t.lanes.get l = s.lanes.get l)) ∧
    ∀ l, (s.lanes.get l).commits = true → WordsWork (s.lanes.get l) (v.lanes.get l) ∧
      ((∀ c, OutWord.cmpl c ∈ (s.lanes.get l).words → c.opcode ≠ opMode ∧ c.opcode ≠ opSwitch) → v.lanes.get l = s.lanes.get l)) ∧
  (∀ s : State, houseDue s = true ↔ s.cyc.started = true ∧ s.cyc.housed = false ∧ anyHold s = false ∧ s.cyc.committed = true ∧ ∀ l, (s.lanes.get l).running = true → (s.lanes.get l).digest ≠ none) ∧
  (∀ s : State, NoHalt s → houseDue s = true → ∃ t, exec .housekeeping s = .next t ∧ t = { s with regs := t.regs, lanes := t.lanes, cyc := { s.cyc with housed := true } } ∧ RegsBut [R.CYC_SKIPCNT] s t ∧
    (∀ l, t.lanes.get l = if (s.lanes.get l).running then { s.lanes.get l with skip := (s.lanes.get l).skip.filter fun u => !(houseUnits s).contains u } else s.lanes.get l) ∧
    (RegsOk s → t.reg R.CYC_SKIPCNT = s.reg R.CYC_SKIPCNT +
      BitVec.ofNat 32 ((allLanes.filter fun l => (s.lanes.get l).running).map fun l => ((s.lanes.get l).skip.filter fun u => (houseUnits s).contains u).length).sum)) ∧
  ∀ s : State, houseDue s = false → exec .housekeeping s = .next s

/-- Overruns and the lane report (R148, R154, R155, R160, R174, R175): an ordinary overrun is shown and counted, makes the lane skip the unit's next execution and raises its source once in a cycle, and one of the delta copy ends the copy; a privileged one, and a t0 that does not come, are faults of the lane with CAUSE 0x3, and CYC_PRIV names the lane, the unit and the cycle; the report of the lowest-lettered agreeing lane brings the signature and the counts to the registers, and a privileged unit near its bound raises source 79 once. -/
def Obligations.OverrunsAndReportsReachTheRegisters : Prop :=
  (∀ (l : Lane) (u : OrdUnit) (s : State), (s.lanes.get l).running = true → ∃ t v, exec (.ordinaryOverrun l u) s = .next t ∧
    (if allLanes.any fun k => (s.lanes.get k).overran.contains u then t = v else Raises (72 + unitNo u) v t) ∧
    v = { s with regs := v.regs, lanes := v.lanes, sby := if u = .xchg then { s.sby with copy := 0, plan := 0, deltaLost := s.sby.deltaLost || s.sby.copy == 2 } else s.sby } ∧ OthersKeep l s v ∧
    v.lanes.get l = { s.lanes.get l with skip := (s.lanes.get l).skip ++ [u], overran := (s.lanes.get l).overran ++ [u] } ∧
    RegsBut [R.CYC_OVR, R.CYC_OVRCNT, R.CYC_DEFERCNT] s v ∧ (RegsOk s → v.reg R.CYC_OVR = s.reg R.CYC_OVR ||| BitVec.ofNat 32 (2 ^ unitNo u) ∧
      v.reg R.CYC_OVRCNT = s.reg R.CYC_OVRCNT + 1 ∧ v.reg R.CYC_DEFERCNT = s.reg R.CYC_DEFERCNT + BitVec.ofNat 32 (deferred s u).length)) ∧
  (∀ (l : Lane) (u : PrivUnit) (s : State), (s.lanes.get l).running = true → (s.lanes.get l).dbgHold = false →
    (∃ t, exec (.privilegedOverrun l u) s = .next t ∧ LaneFaulted l 3 s t ∧ (RegsOk s → t.reg R.CYC_PRIV = BitVec.ofNat 32 (laneNo l + privNo u * 4 + s.cyc.cycle % 2 ^ 28 * 16))) ∧
    (s.cyc.started = true → ∃ t, exec (.t0WindowEnd l) s = .next t ∧ LaneFaulted l 3 s t ∧ (RegsOk s → t.reg R.CYC_PRIV = BitVec.ofNat 32 (laneNo l + (s.cyc.cycle + 1) % 2 ^ 28 * 16)))) ∧
  (∀ (l : Lane) (s : State), (s.lanes.get l).st = .copy → (s.lanes.get l).inReset = false → (s.group.rejoin.map (·.lane)) = some l → (s.lanes.get l).dbgHold = false → s.cyc.started = true →
    ∃ t, exec (.t0WindowEnd l) s = .next t ∧ LaneFaulted l 3 s t ∧ (RegsOk s → t.reg R.CYC_PRIV = BitVec.ofNat 32 (laneNo l + (s.cyc.cycle + 1) % 2 ^ 28 * 16))) ∧
  (∀ (l : Lane) (u : PrivUnit) (o : OrdUnit) (s : State),
    (((s.lanes.get l).running = false ∨ (s.lanes.get l).dbgHold = true) → exec (.privilegedOverrun l u) s = .next s) ∧
    ((watched s l = false ∨ (s.lanes.get l).dbgHold = true) → exec (.t0WindowEnd l) s = .next s) ∧
    ((s.lanes.get l).running = false → exec (.ordinaryOverrun l o) s = .next s) ∧ (s.cyc.started = false → exec (.t0WindowEnd l) s = .next s)) ∧
  (∀ (l : Lane) (w : BitVec 20) (n : Bool) (s : State), chanOpen s (.report l) = false → exec (.laneReport l w n) s = .next s) ∧
  (∀ (l : Lane) (w : BitVec 20) (s : State), chanOpen s (.report l) = true → ∃ u t, exec (.laneReport l w false) s = .next u ∧ exec (.laneReport l w true) s = .next t ∧
    if s.cyc.near then t = { u.orReg R.CYC_OVR 0x80 with cyc := { s.cyc with near := true } } else Raises 79 { u.orReg R.CYC_OVR 0x80 with cyc := { s.cyc with near := true } } t) ∧
  (∀ (l : Lane) (w : BitVec 20) (s : State), (lanesOf s.sieve.agree).head? ≠ some l → exec (.laneReport l w false) s = .next s) ∧
  ∀ (l : Lane) (w : BitVec 20) (s : State), (lanesOf s.sieve.agree).head? = some l → chanOpen s (.report l) = true → ∃ t, exec (.laneReport l w false) s = .next t ∧
    t = { s with regs := t.regs, lanes := t.lanes, evg := t.evg, hif := t.hif, out := t.out, free := t.free } ∧ OthersKeep l s t ∧
    t.lanes.get l = { s.lanes.get l with rpt := Report.empty } ∧
    (RegsOk s → t.wide R.DBG_SIG_LO = (s.lanes.get l).sigma ∧ t.reg R.RGE_SETCNT = s.reg R.RGE_SETCNT + BitVec.ofNat 32 (s.lanes.get l).rpt.setCnt ∧
      t.reg R.RGE_RETCNT = s.reg R.RGE_RETCNT + BitVec.ofNat 32 (s.lanes.get l).rpt.retCnt ∧
      t.reg R.CYC_WORK = if s.level.serves then BitVec.ofNat 32 w.toNat else s.reg R.CYC_WORK)

/-- Scrubbing and the handshake channels (R13 to R15, R34, R43, R181, R207): a word whose check passes changes nothing and one that fails is a code fault with CAUSE 0x4; a static CRC mismatch is one too, unless another lane has found one in the same scan period, which is BEDROCK with cause 0x6. A channel word raises the request rail; one whose CRC checks raises the acknowledge rail and is delivered where its toggle is new, any other raises the reject rail and counts as a failed attempt, as a time-out does except at the Sieve, unless a reject has counted it; the third failure at a word ends the channel, with CAUSE 0x5 for the lane that it serves, with the loss of the I/O island where that island sends or receives on it, and with VBAT_LOW for the channel to the BU; no other channel is touched, and a channel that has ended takes no word. -/
def Obligations.ScrubsAndChannelsFindFaults : Prop :=
  (∀ (l : Lane) (r : ScrubRead) (s : State), watched s l = false → exec (.scrub l r) s = .next s) ∧
  (∀ (l : Lane) (s : State), watched s l = true ↔ (s.lanes.get l).running = true ∨ ((s.lanes.get l).st = .copy ∧ (s.lanes.get l).inReset = false ∧ (s.group.rejoin.map (·.lane)) = some l)) ∧
  (∀ (l : Lane) (i : BitVec 23) (k : DWord) (s : State), watched s l = true → (s.lanes.get l).running = false →
    exec (.scrub l (.word i)) s = .next s ∧ exec (.scrub l (.kSum k)) s = .next s ∧ (∃ t, exec (.scrub l (.spareEcc i)) s = .next t ∧ LaneFaulted l 4 s t) ∧
    ((s.group.scanBad = 0 ∨ s.group.scanBad = laneBit l ∨ s.group.scanAt + 600000000 < s.cyc.tick) → ∃ t, exec (.scrub l (.crcScan false)) s = .next t ∧ LaneFaulted l 4 s t)) ∧
  (∀ (l : Lane) (i : BitVec 23) (s : State), (s.lanes.get l).running = true →
    (loadOk (ctxOf s l) (imageOf s) (s.lanes.get l) i.toNat = true → exec (.scrub l (.word i)) s = .next s) ∧
    (loadOk (ctxOf s l) (imageOf s) (s.lanes.get l) i.toNat = false → ∃ t, exec (.scrub l (.word i)) s = .next t ∧ LaneFaulted l 4 s t ∧ (RegsOk s → t.reg R.DBG_CXELEM = i.setWidth 32)) ∧
    (∃ t, exec (.scrub l (.spareEcc i)) s = .next t ∧ LaneFaulted l 4 s t ∧ (RegsOk s → t.reg R.DBG_CXELEM = i.setWidth 32)) ∧
    exec (.scrub l (.kSum (regionSum (s.lanes.get l).reg))) s = .next s ∧
    (∀ k, k ≠ regionSum (s.lanes.get l).reg → ∃ t, exec (.scrub l (.kSum k)) s = .next t ∧ LaneFaulted l 4 s t) ∧
    exec (.scrub l (.crcScan true)) s = .next { s with group := { s.group with scanBad := s.group.scanBad &&& ~~~laneBit l } } ∧
    ((s.group.scanBad = 0 ∨ s.group.scanBad = laneBit l ∨ s.group.scanAt + 600000000 < s.cyc.tick) → ∃ t, exec (.scrub l (.crcScan false)) s = .next t ∧ LaneFaulted l 4 s t ∧
      t.group.scanBad = laneBit l) ∧
    (s.cyc.tick ≤ s.group.scanAt + 600000000 → 2 ≤ setSize (s.group.scanBad ||| laneBit l) → ∃ t, exec (.scrub l (.crcScan false)) s = .next t ∧
      t.group.scanBad = s.group.scanBad ||| laneBit l ∧ t.cyc = s.cyc ∧ t.bu = s.bu ∧ (RegsOk s → t.reg R.DBG_CXELEM = 0) ∧
      (s.level.serves = true → t.level = .bedrock ∧ t.levelCause = 6) ∧
      (s.level.serves = false → t = { s with regs := t.regs, group := t.group }))) ∧
  (∀ (ch : Chan) (g : Bool) (p : DWord) (c : BitVec 16) (s : State) (n : Nat), (chanOf s ch).stopped = false → n = (if (chanOf s ch).ack then 0 else (chanOf s ch).attempts) →
    (crc16 (beBytes 8 p.toNat) = c → ∃ t, exec (.handshakeWord ch g p c) s = .next t ∧
      chanOf t ch = { chanOf s ch with chan := ch, req := true, ack := true, rej := false, attempts := n, toggle := g, word := if g = (chanOf s ch).toggle then (chanOf s ch).word else some p } ∧
      (∀ k, k ≠ ch → chanOf t k = chanOf s k) ∧ t = { s with chans := t.chans }) ∧
    (crc16 (beBytes 8 p.toNat) ≠ c →
      (n < 2 → ∃ t, exec (.handshakeWord ch g p c) s = .next t ∧
        chanOf t ch = { chanOf s ch with chan := ch, req := true, ack := false, rej := true, attempts := n + 1 } ∧ (∀ k, k ≠ ch → chanOf t k = chanOf s k) ∧ t = { s with chans := t.chans }) ∧
      (2 ≤ n → ∃ t, exec (.handshakeWord ch g p c) s = .next t ∧ (chanOf t ch).stopped = true ∧ (chanOf t ch).rej = true ∧ (∀ k, k ≠ ch → chanOf t k = chanOf s k) ∧
        (∀ l, ((∃ k, ch = .inter k l) ∨ (∃ k, ch = .snapshot l k) ∨ ch = .laneOut l) → LaneFaulted l 5 s t) ∧
        (((∃ l, ch = .report l) ∨ ch = .agreed ∨ ch = .fromBu) → t = { s with chans := t.chans, power := { s.power with ioiLost := true } }) ∧
        (ch = .toBu → t.lanes = s.lanes ∧ t.level = s.level ∧ t.bu = { s.bu with vbatLow := true }))) ∧
    (ch ≠ .agreed → (chanOf s ch).rej = true → ∃ t, exec (.ackTimeout ch) s = .next t ∧ chanOf t ch = { chanOf s ch with chan := ch, req := false, rej := false } ∧
      (∀ k, k ≠ ch → chanOf t k = chanOf s k) ∧ t = { s with chans := t.chans }) ∧
    (ch ≠ .agreed → (chanOf s ch).rej = false → (chanOf s ch).attempts < 2 → ∃ t, exec (.ackTimeout ch) s = .next t ∧
      chanOf t ch = { chanOf s ch with chan := ch, req := false, ack := false, attempts := (chanOf s ch).attempts + 1 } ∧ (∀ k, k ≠ ch → chanOf t k = chanOf s k) ∧ t = { s with chans := t.chans }) ∧
    (ch ≠ .agreed → (chanOf s ch).rej = false → 2 ≤ (chanOf s ch).attempts → ∃ t, exec (.ackTimeout ch) s = .next t ∧ (chanOf t ch).stopped = true ∧ (∀ k, k ≠ ch → chanOf t k = chanOf s k) ∧
      (∀ l, ((∃ k, ch = .inter k l) ∨ (∃ k, ch = .snapshot l k) ∨ ch = .laneOut l) → LaneFaulted l 5 s t) ∧
      (((∃ l, ch = .report l) ∨ ch = .fromBu) → t = { s with chans := t.chans, power := { s.power with ioiLost := true } }) ∧
      (ch = .toBu → t.lanes = s.lanes ∧ t.level = s.level ∧ t.bu = { s.bu with vbatLow := true }))) ∧
  (∀ s : State, exec (.ackTimeout .agreed) s = .next s) ∧
  ∀ (ch : Chan) (g : Bool) (p : DWord) (c : BitVec 16) (s : State), (chanOf s ch).stopped = true → exec (.ackTimeout ch) s = .next s ∧ exec (.handshakeWord ch g p c) s = .next s

/-! ### The vote and the membership -/

/-- The digest vote (R205, R210 to R212, R223, R226): two equal digests conclude it with that pair, whose common messages take the place of the queues while the agreed channel carries words; a third that is equal joins them and a member's that differs makes it OUT with CAUSE 0x2, which takes FULL to REDUCED; two of three that differ wait for the third, which either decides with its like or, differing from both, sets the BEDROCK latch, as two members that differ do, and so does the rail of one of two members before the vote; the digest of a silent lane is only compared; digests and words of a lane with its rail raised, or whose output channel has ended, count for nothing. -/
def Obligations.TheVoteDecidesByTwoEqualDigests : Prop :=
  (∀ (l k a b : Lane) (d : DWord) (ms : List Msg) (s : State), k ≠ l → (s.lanes.get l).rail = false → (s.lanes.get k).rail = false → inSet s.sieve.members l = true → chanOpen s (.laneOut l) = true →
    inSet s.sieve.members k = true → s.cyc.started = true → s.sieve.concluded = false → s.sieve.digests.get l = none → s.sieve.digests.get k = some d →
    (∀ j, j ≠ l → j ≠ k → s.sieve.digests.get j = none) → lanesOf (laneBit k ||| laneBit l) = [a, b] →
    ms = ((agreedWords (s.sieve.words.get a) (s.sieve.words.get b)).filterMap fun w => match w with | .msg m => some m | .cmpl _ => none) →
    ∃ t, exec (.laneDigest l d) s = .next t ∧ t.sieve.concluded = true ∧ t.sieve.agree = laneBit k ||| laneBit l ∧ t.sieve.value = some d ∧
      t.sieve.latch = s.sieve.latch ∧ t.level = s.level ∧
      (chanOpen s .agreed = true → t.frn.queue = netMsgs .etlR 0 ms ∧ t.vio.ioiCmd = outputsOn ms) ∧ (chanOpen s .agreed = false → t.frn = s.frn ∧ t.vio = s.vio ∧ t.fsn = s.fsn ∧ t.can = s.can)) ∧
  (∀ (l : Lane) (d d' : DWord) (s : State), (s.lanes.get l).rail = false → chanOpen s (.laneOut l) = true → inSet s.sieve.members l = true → s.sieve.concluded = true → s.sieve.digests.get l = none →
    (s.sieve.agree = 0 → ∃ t, exec (.laneDigest l d) s = .next t ∧ t = { s with regs := t.regs, sieve := { s.sieve with digests := s.sieve.digests.set l (some d) } }) ∧
    (s.sieve.agree ≠ 0 → s.sieve.value = some d' →
      (d = d' → ∃ t, exec (.laneDigest l d) s = .next t ∧ t.sieve.agree = s.sieve.agree ||| laneBit l ∧ t = { s with regs := t.regs, sieve := t.sieve }) ∧
      (d ≠ d' → (s.lanes.get l).st = .member → ∃ t, exec (.laneDigest l d) s = .next t ∧ (t.lanes.get l).st = .out ∧ (t.lanes.get l).cause = 2 ∧ t.sieve.agree = s.sieve.agree ∧
        inSet t.sieve.excluded l = true))) ∧
  (∀ (l k : Lane) (d d' : DWord) (s : State), k ≠ l → d ≠ d' → (s.lanes.get l).rail = false → (s.lanes.get k).rail = false → chanOpen s (.laneOut l) = true → s.sieve.members = laneBit k ||| laneBit l →
    s.cyc.started = true → s.sieve.concluded = false → s.sieve.digests.get l = none → s.sieve.digests.get k = some d' → ∃ t, exec (.laneDigest l d) s = .next t ∧
      t.sieve.latch = true ∧ t.sieve.concluded = true ∧ t.sieve.agree = 0 ∧ (s.sieve.latch = false → s.level.serves = true → t.level = .bedrock) ∧ ∀ e, energised t e = false) ∧
  (∀ (l j k : Lane) (d dj dk : DWord) (s : State), j ≠ l → k ≠ l → j ≠ k → dj ≠ dk → (∀ e, (s.lanes.get e).rail = false) → chanOpen s (.laneOut l) = true → s.sieve.members = 7 →
    s.cyc.started = true → s.sieve.concluded = false → s.sieve.digests.get l = none → s.sieve.digests.get j = some dj →
    (s.sieve.digests.get k = none → d ≠ dj → exec (.laneDigest l d) s = .next { s with sieve := { s.sieve with digests := s.sieve.digests.set l (some d) } }) ∧
    (s.sieve.digests.get k = some dk → d ≠ dj → d ≠ dk → ∃ t, exec (.laneDigest l d) s = .next t ∧ t.sieve.latch = true ∧ t.sieve.concluded = true ∧ t.sieve.agree = 0 ∧
      (∀ e, energised t e = false) ∧ (s.sieve.latch = false → s.level.serves = true → t.level = .bedrock ∧ t.levelCause = 5) ∧ (s.level.serves = false → t.level = s.level)) ∧
    (s.sieve.digests.get k = some dk → d = dj → (∀ e, (s.lanes.get e).st = .member) → s.level = .full → ∃ t, exec (.laneDigest l d) s = .next t ∧ t.sieve.concluded = true ∧
      t.sieve.agree = laneBit j ||| laneBit l ∧ t.sieve.value = some d ∧ inSet t.sieve.excluded k = true ∧ (t.lanes.get k).st = .out ∧ (t.lanes.get k).cause = 2 ∧
      t.level = .reduced ∧ t.levelCause = 2 ∧ t.sieve.latch = s.sieve.latch)) ∧
  (∀ (l : Lane) (d : DWord) (s : State), ((s.lanes.get l).rail = true ∨ s.sieve.digests.get l ≠ none ∨ chanOpen s (.laneOut l) = false ∨
      (inSet s.sieve.members l = false ∧ (s.lanes.get l).st ≠ .silent)) → exec (.laneDigest l d) s = .next s) ∧
  (∀ (l : Lane) (d : DWord) (r : Rejoin) (s : State), (s.lanes.get l).rail = false → s.sieve.digests.get l = none → chanOpen s (.laneOut l) = true → inSet s.sieve.members l = false →
    (s.lanes.get l).st = .silent → s.group.rejoin = some r → r.lane = l →
    ((s.sieve.concluded = false ∨ s.sieve.agree = 0) → exec (.laneDigest l d) s = .next { s with sieve := { s.sieve with digests := s.sieve.digests.set l (some d) } }) ∧
    (s.sieve.concluded = true → s.sieve.agree ≠ 0 → s.sieve.value = some d → ∃ t, exec (.laneDigest l d) s = .next t ∧ t.group = { s.group with rejoin := some { r with silOk := r.silOk + 1 } } ∧
      t = { s with regs := t.regs, group := t.group, sieve := t.sieve } ∧ (RegsOk s → t.regF R.LANE_RJSTAT 9 2 = min 3 (r.silOk + 1))) ∧
    (s.sieve.concluded = true → s.sieve.agree ≠ 0 → s.sieve.value ≠ some d → ∃ t, exec (.laneDigest l d) s = .next t ∧ t.group = { s.group with rejoin := none } ∧ OutFor (t.lanes.get l) 9 ∧
      (RegsOk s → t.regF R.LANE_RJSTAT 5 4 = 5))) ∧
  (∀ (l : Lane) (s : State), (s.sieve.concluded = true ∨ s.cyc.started = false) → exec (.withdrawRail l) s = .next { s.updLane l (fun x => { x with rail := true }) with
    sieve := { s.sieve with excluded := if inSet s.sieve.members l then s.sieve.excluded ||| laneBit l else s.sieve.excluded } }) ∧
  (∀ (l k : Lane) (s : State), k ≠ l → s.sieve.members = laneBit k ||| laneBit l → s.cyc.started = true → s.sieve.concluded = false → s.sieve.latch = false → ∃ t, exec (.withdrawRail l) s = .next t ∧
    (t.lanes.get l).rail = true ∧ t.sieve.latch = true ∧ inSet t.sieve.excluded l = true ∧ ∀ e, energised t e = false) ∧
  ∀ (l : Lane) (w : OutWord) (s : State),
    ((s.lanes.get l).rail = false → s.sieve.concluded = false → s.sieve.latch = false → inSet s.sieve.members l = true → chanOpen s (.laneOut l) = true →
      exec (.laneOutputWord l w) s = .next { s with sieve := { s.sieve with words := s.sieve.words.set l (s.sieve.words.get l ++ [w]) } }) ∧
    (((s.lanes.get l).rail = true ∨ s.sieve.concluded = true ∨ s.sieve.latch = true ∨ inSet s.sieve.members l = false ∨ chanOpen s (.laneOut l) = false) → exec (.laneOutputWord l w) s = .next s)

/-- Check words (R205, R215): the first is only held; the second, and a third, give the result of the vote, the lanes whose word another has too, which arms the keep-clear hold where it is the one that the cycle requires; the demand of a second member with its rail low, and the lapse of an armed hold that is not suspended, set the latch. -/
def Obligations.CheckWordsKeepTheLatchClear : Prop :=
  (∀ (l : Lane) (w : DWord) (b : Bool) (s : State), ((s.lanes.get l).rail = true ∨ inSet s.sieve.members l = false ∨ chanOpen s (.laneOut l) = false) → exec (.checkWord l w b) s = .next s) ∧
  (∀ (l k : Lane) (w w' : DWord) (s : State), k ≠ l → (s.lanes.get l).rail = false → (s.lanes.get k).rail = false → inSet s.sieve.members l = true → inSet s.sieve.members k = true →
    chanOpen s (.laneOut l) = true → (∀ j, j ≠ l → j ≠ k → s.sieve.checks.get j = none) →
    (s.sieve.checks.get k = none → exec (.checkWord l w false) s = .next { s with sieve := { s.sieve with checks := s.sieve.checks.set l (some w) } }) ∧
    (s.sieve.checks.get k = some w' → ∃ t, exec (.checkWord l w false) s = .next t ∧ t = { s with sieve := t.sieve } ∧ t.sieve.voted = laneBit k ||| laneBit l ∧
      t.sieve.check = some (if w = w' then laneBit k ||| laneBit l else 0) ∧ t.sieve.latch = s.sieve.latch ∧
      t.sieve.checkOk = (t.sieve.check == some (requiredCheck (laneBit k ||| laneBit l) s.cyc.cycle)) ∧ t.sieve.armed = (s.sieve.armed || t.sieve.checkOk))) ∧
  (∀ (l j k : Lane) (w wj wk : DWord) (s : State), j ≠ l → k ≠ l → j ≠ k → (∀ e, (s.lanes.get e).rail = false) → s.sieve.members = 7 → chanOpen s (.laneOut l) = true →
    s.sieve.checks.get j = some wj → s.sieve.checks.get k = some wk → ∃ t, exec (.checkWord l w false) s = .next t ∧ t = { s with sieve := t.sieve } ∧ t.sieve.voted = 7 ∧
      t.sieve.check = some ((if w = wj ∨ w = wk then laneBit l else 0) ||| (if wj = w ∨ wj = wk then laneBit j else 0) ||| (if wk = w ∨ wk = wj then laneBit k else 0)) ∧
      t.sieve.checkOk = (t.sieve.check == some (requiredCheck 7 s.cyc.cycle)) ∧ t.sieve.armed = (s.sieve.armed || t.sieve.checkOk) ∧ t.sieve.latch = s.sieve.latch) ∧
  (∀ (l k : Lane) (n : Nat), k ≠ l → requiredCheck (laneBit k ||| laneBit l) n = if checkNamed n = some k ∨ checkNamed n = some l then 0 else laneBit k ||| laneBit l) ∧
  (∀ n : Nat, (∀ l, checkNamed n = some l → requiredCheck 7 n = 7 &&& ~~~laneBit l) ∧ (checkNamed n = none → requiredCheck 7 n = 7)) ∧
  (∀ (l k : Lane) (w : DWord) (s : State), k ≠ l → (s.lanes.get l).rail = false → inSet s.sieve.members l = true → chanOpen s (.laneOut l) = true →
    ((s.sieve.demands = 0 ∨ s.sieve.demands = laneBit l) → exec (.checkWord l w true) s = .next { s with sieve := { s.sieve with demands := laneBit l } }) ∧
    (s.sieve.demands = laneBit k → (s.lanes.get k).rail = true → exec (.checkWord l w true) s = .next { s with sieve := { s.sieve with demands := laneBit k ||| laneBit l } }) ∧
    (inSet s.sieve.demands k = true → (s.lanes.get k).rail = false → ∃ t, exec (.checkWord l w true) s = .next t ∧ t.sieve.latch = true ∧ (∀ e, energised t e = false) ∧
      (s.sieve.latch = false → s.level.serves = true → t.level = .bedrock ∧ t.levelCause = 8))) ∧
  (∀ s : State, s.sieve.armed = true → s.sieve.suspended = false → ∃ t, exec .keepClearLapse s = .next t ∧ t.sieve.latch = true ∧ (∀ e, energised t e = false) ∧
    (s.sieve.latch = false → s.level.serves = true → t.level = .bedrock ∧ t.levelCause = 8)) ∧
  ∀ s : State, (s.sieve.armed = false ∨ s.sieve.suspended = true) → exec .keepClearLapse s = .next s

/-- The state copy of a rejoin (R14, R222, R223): an item of one member waits for its like of the other; two equal ones are taken, an element word with the returning lane's own check field at the rejoin's epoch, the regions and the signature as they are; two that differ end the rejoin with RESULT 0x3, and a copy past its limit ends it with RESULT 0x4; the returning lane is then OUT with CAUSE 0x9. The rotating proof test (R224, R225): at a boundary at which it is due and which has not changed the level the next lane in turn leaves the group for PROOF and the level becomes REDUCED, and at any other instant none starts; a management tick on the macrotick of t0 counts from the next boundary on; a lane whose tests have passed begins its rejoin with its rail low, and one that fails is OUT with CAUSE 0x9 and RESULT 2. -/
def Obligations.RejoinsAndProofTestsServeOneLane : Prop :=
  ((∀ (k : Lane) (item : CopyItem) (s : State), s.group.rejoin = none → exec (.stateCopy k item) s = .next s ∧ exec .rjLimit s = .next s) ∧
   (∀ (k : Lane) (item : CopyItem) (r : Rejoin) (s : State), s.group.rejoin = some r →
     (r.step ≠ 2 ∨ (s.lanes.get k).st ≠ .member ∨ (s.lanes.get k).running = false ∨ chanOpen s (.inter k r.lane) = false) → exec (.stateCopy k item) s = .next s) ∧
   (∀ (k : Lane) (item item' : CopyItem) (r : Rejoin) (s : State), s.group.rejoin = some r → r.step = 2 → (s.lanes.get k).st = .member → (s.lanes.get k).running = true →
     chanOpen s (.inter k r.lane) = true →
     ((r.fromA = [] ∨ r.fromB = []) → exec (.stateCopy k .passEnd) s =
       .next { s with group := { s.group with rejoin := some { r with ended := r.ended ||| if isFirstSender s k then 1 else 2 } } }) ∧
     (item ≠ .passEnd → isFirstSender s k = true → r.fromB = [] → exec (.stateCopy k item) s =
       .next { s with group := { s.group with rejoin := some { r with fromA := r.fromA ++ [item] } } }) ∧
     (item ≠ .passEnd → isFirstSender s k = false → r.fromA = [] → exec (.stateCopy k item) s =
       .next { s with group := { s.group with rejoin := some { r with fromB := r.fromB ++ [item] } } }) ∧
     (((isFirstSender s k = false ∧ r.fromA = [item] ∧ r.fromB = []) ∨ (isFirstSender s k = true ∧ r.fromA = [] ∧ r.fromB = [item])) → SramOk s →
       (∀ i w, item = .elem i w → ∃ t, exec (.stateCopy k item) s = .next t ∧
         sramInfo r.lane (t.lanes.get r.lane).sram i.toNat = w ∧ sramCheck r.lane (t.lanes.get r.lane).sram i.toNat = checkField r.lane w r.r ∧
         (∀ j, j ≠ i.toNat → sramWord r.lane (t.lanes.get r.lane).sram j = sramWord r.lane (s.lanes.get r.lane).sram j) ∧
         t.lanes.get r.lane = { s.lanes.get r.lane with sram := (t.lanes.get r.lane).sram } ∧ OthersKeep r.lane s t ∧
         t.group = { s.group with rejoin := some { r with fromA := [], fromB := [] } } ∧ RegsBut [R.LANE_COPYWORDS] s t ∧ t = { s with regs := t.regs, lanes := t.lanes, group := t.group }) ∧
       (∀ g, item = .regions g → ∃ t, exec (.stateCopy k item) s = .next t ∧ t.lanes.get r.lane = { s.lanes.get r.lane with reg := g } ∧ OthersKeep r.lane s t ∧
         t.group = { s.group with rejoin := some { r with fromA := [], fromB := [], gotRegions := true } } ∧ RegsBut [R.LANE_COPYWORDS] s t ∧ t = { s with regs := t.regs, lanes := t.lanes, group := t.group }) ∧
       (∀ w, item = .sigma w → ∃ t, exec (.stateCopy k item) s = .next t ∧ t.lanes.get r.lane = { s.lanes.get r.lane with sigma := w } ∧ OthersKeep r.lane s t ∧
         t.group = { s.group with rejoin := some { r with fromA := [], fromB := [] } } ∧ RegsBut [R.LANE_COPYWORDS] s t ∧ t = { s with regs := t.regs, lanes := t.lanes, group := t.group })) ∧
     (((isFirstSender s k = false ∧ r.fromA = [item'] ∧ r.fromB = []) ∨ (isFirstSender s k = true ∧ r.fromA = [] ∧ r.fromB = [item'])) → item ≠ .passEnd → item ≠ item' →
       (s.lanes.get r.lane).st = .copy → ∃ t, exec (.stateCopy k item) s = .next t ∧
       t.group = { s.group with rejoin := none } ∧ OutFor (t.lanes.get r.lane) 9 ∧ OthersKeep r.lane s t ∧ t.level = s.level ∧ t.sieve = { s.sieve with suspended := t.sieve.suspended } ∧
       (RegsOk s → t.regF R.LANE_RJSTAT 5 4 = 3))) ∧
   ∀ (r : Rejoin) (s : State), s.group.rejoin = some r →
     (r.step = 2 → r.r + 1 + r.limit ≤ s.cyc.cycle → copyDone s r s.cyc.cycle = false → (s.lanes.get r.lane).st = .copy → ∃ t, exec .rjLimit s = .next t ∧ t.group = { s.group with rejoin := none } ∧
       OutFor (t.lanes.get r.lane) 9 ∧ OthersKeep r.lane s t ∧ t.level = s.level ∧ t.sieve = { s.sieve with suspended := t.sieve.suspended } ∧ (RegsOk s → t.regF R.LANE_RJSTAT 5 4 = 4)) ∧
     ((r.step ≠ 2 ∨ s.cyc.cycle < r.r + 1 + r.limit ∨ copyDone s r s.cyc.cycle = true) → exec .rjLimit s = .next s)) ∧
  ((∀ (l : Lane) (s : State), laneOf (s.regF R.LANE_PTSTAT 0 2) = some l → atBoundary s = true → s.cyc.moved = false → proofDue s = true → s.group.rejoin = none →
     (s.sieve.concluded = true ∨ (s.sieve.digests = ⟨none, none, none⟩ ∧ 2 ≤ setSize (railLow s s.sieve.members &&& ~~~laneBit l))) →
     ∃ t, exec .proofTest s = .next t ∧ (t.lanes.get l).st = .proof ∧ (t.lanes.get l).cause = 8 ∧ Stopped (t.lanes.get l) ∧ t.level = .reduced ∧ t.levelCause = 3 ∧ t.group.proof = some l ∧
       (∀ k, k ≠ l → t.lanes.get k = { s.lanes.get k with reg := { (s.lanes.get k).reg with proposal := none } }) ∧ t.cyc = { s.cyc with moved := true } ∧ t.vio = s.vio ∧
       (RegsOk s → t.regF R.LANE_PTSTAT 0 2 = (laneNo l + 1) % 3 ∧ t.regF R.LANE_PTSTAT 2 2 = laneNo l)) ∧
   (∀ s : State, (atBoundary s = false ∨ s.cyc.moved = true ∨ proofDue s = false ∨ laneOf (s.regF R.LANE_PTSTAT 0 2) = none) → exec .proofTest s = .next s) ∧
   (∀ s : State, proofDue s = true ↔ s.regN R.LANE_PTDUE + b2n (tickNow s) ≤ s.regN R.LANE_TICK ∧ s.level = .full ∧ setSize (memberSet s) = 3 ∧ s.upd.sess = none ∧
     ∀ l, (s.lanes.get l).running = true → (s.lanes.get l).reg.proposal = none) ∧
   (∀ s : State, atBoundary s = true ↔ s.cyc.started = true ∧ s.cyc.timeBase = s.cyc.lastT0 ∧ s.cyc.consensusDone = false ∧ ∀ l, (s.lanes.get l).snap = none) ∧
   (∀ (l : Lane) (s : State), s.group.proof = some l → (s.lanes.get l).st = .proof →
     (∃ t, exec (.proofTestComplete true []) s = .next t ∧ (t.lanes.get l).st = .copy ∧ (t.lanes.get l).rail = false ∧ (t.lanes.get l).inReset = false ∧ (t.lanes.get l).units = [] ∧ OthersKeep l s t ∧
       (∃ j, t.group = { s.group with proof := none, rejoin := some j } ∧ j.lane = l ∧ j.r = s.cyc.cycle ∧ j.step = 1 ∧ j.proof = true) ∧ t.level = s.level ∧ t.sieve = s.sieve) ∧
     (∀ p fs, (p = false ∨ fs ≠ []) → ∃ t, exec (.proofTestComplete p fs) s = .next t ∧ OutFor (t.lanes.get l) 9 ∧ OthersKeep l s t ∧ t.group = { s.group with proof := none } ∧ t.level = s.level ∧
       (RegsOk s → t.regF R.LANE_PTSTAT 4 2 = 2 ∧ t.regBit R.LANE_PTSTAT 6 = false))) ∧
   ∀ (p : Bool) (fs : List KilnFail) (s : State), s.group.proof = none → exec (.proofTestComplete p fs) s = .next s)

/-! ### The recorder and the management tick -/

/-- Records (R392, R394 to R399, R401, R402, R446): an entry with a reserved code, severity or unit is none; any other is staged with the next number where its code has a token, suppressed where it has none, dropped where the buffer is full and refused after a power-fail flush; severity 3 and 4 begin a flush, and one of the power-fail warning covers what is staged within its 1 ms; a completed flush leaves each record at its slot in flash and nowhere else and frees its place, in the next block where the present one is full, which sets WRAP where that block still held records and waits where a request wants them; a block that fails to program in a flush, the present or the next one, is marked bad and skipped, with a record; an erase that is due, and of a block that no request wants, removes the block's records, and a failed one marks the block bad. -/
def Obligations.RecordsAreStagedFlushedAndErased : Prop :=
  (∀ (code : BitVec 16) (sev : BitVec 3) (src : Byte) (p : Bytes) (s : State), (code = 0 ∨ 4 < sev.toNat ∨ 11 < src.toNat) → exec (.recordEntry code sev src p) s = .next s) ∧
  (∀ (code : BitVec 16) (sev : BitVec 3) (src : Byte) (p : Bytes) (s : State), code ≠ 0 → sev.toNat ≤ 4 → src.toNat ≤ 11 →
    (s.shale.pfwStop = true → exec (.recordEntry code sev src p) s = .next s) ∧
    (s.shale.pfwStop = false → s.shale.buf.length < 8192 → (sev = 4 ∨ code = 1) → ∃ t, exec (.recordEntry code sev src p) s = .next t ∧ t = { s with shale := { s.shale with
        buf := s.shale.buf ++ [recordBytes code.toNat sev.toNat src.toNat s.shale.next.toNat s.optime s.bu.pwrcyc.toNat p], next := s.shale.next + 1,
        flushing := if 3 ≤ sev.toNat ∨ (s.power.pfw = true ∧ s.shale.flushing.isSome = true ∧ s.cyc.timeBase ≤ s.power.pfwAt + 1000) then some (s.shale.buf.length + 1) else s.shale.flushing } }) ∧
    (s.shale.pfwStop = false → s.shale.buf.length < 8192 → sev ≠ 4 → code ≠ 1 → 0 < recTokens s code → ∃ t, exec (.recordEntry code sev src p) s = .next t ∧
      recTokens t code = recTokens s code - 1 ∧ t.shale.next = s.shale.next + 1 ∧
      t.shale.buf = s.shale.buf ++ [recordBytes code.toNat sev.toNat src.toNat s.shale.next.toNat s.optime s.bu.pwrcyc.toNat p] ∧
      (t.shale.flushing = if 3 ≤ sev.toNat ∨ (s.power.pfw = true ∧ s.shale.flushing.isSome = true ∧ s.cyc.timeBase ≤ s.power.pfwAt + 1000) then some (s.shale.buf.length + 1) else s.shale.flushing) ∧ t = { s with shale := t.shale }) ∧
    (s.shale.pfwStop = false → sev ≠ 4 → code ≠ 1 → recTokens s code = 0 → ∃ (t u : State), exec (.recordEntry code sev src p) s = .next t ∧ Reports R.REC_EVT R.REC_EVTEN 2 62 (u.bump R.REC_SUPPCNT 1) t ∧
      u = { s with shale := { s.shale with supp := u.shale.supp } }) ∧
    (s.shale.pfwStop = false → (sev = 4 ∨ code = 1 ∨ 0 < recTokens s code) → 8192 ≤ s.shale.buf.length → ∃ (t u : State), exec (.recordEntry code sev src p) s = .next t ∧
      Reports R.REC_EVT R.REC_EVTEN 1 62 (u.bump R.REC_DROPCNT 1) t ∧ u = { s with shale := { s.shale with tokens := u.shale.tokens } })) ∧
  (∀ (code sev src no op pw : Nat) (p : Bytes), (recordBytes code sev src no op pw p).length = 32 ∧ recordBad (recordBytes code sev src no op pw p) = false ∧
    leAt (recordBytes code sev src no op pw p) 0 2 = code % 65536 ∧ leAt (recordBytes code sev src no op pw p) 4 4 = no % 2 ^ 32) ∧
  (∀ (v : Word) (s : State), CleanWrite s R.REC_CTRL v →
    (v.getLsbD 1 = false → exec (.flush v) s = .next (if v.getLsbD 0 then { s with shale := { s.shale with flushing := some s.shale.buf.length } } else s)) ∧
    (v.getLsbD 1 = true → ∃ t, exec (.flush v) s = .next t ∧ (∀ r ∈ [R.REC_DROPCNT, R.REC_SUPPCNT, R.REC_FLUSHCNT, R.REC_CRCCNT], t.reg r = 0) ∧
      RegsBut [R.REC_DROPCNT, R.REC_SUPPCNT, R.REC_FLUSHCNT, R.REC_CRCCNT] s t ∧
      t = { s with regs := t.regs, shale := if v.getLsbD 0 then { s.shale with flushing := some s.shale.buf.length } else s.shale })) ∧
  (∀ s : State, s.shale.flushing = none → exec .flushComplete s = .next s) ∧
  (∀ (n : Nat) (s : State), s.shale.flushing = some n → ∃ (t u : State) (k : Nat), exec .flushComplete s = .next t ∧ (t = u ∨ Reports R.REC_EVT R.REC_EVTEN 3 62 u t) ∧ u.shale.buf = s.shale.buf.drop k ∧ k ≤ n ∧
    ((∀ b, blockWanted s b = false) → u.shale.buf = s.shale.buf.drop n) ∧ u.shale.flushing = none ∧ u.shale.pfwStop = (s.shale.pfwStop || s.power.pfw) ∧
    u.reg R.REC_FLUSHCNT = (s.bump R.REC_FLUSHCNT 1).reg R.REC_FLUSHCNT ∧ RegsBut [R.REC_FLUSHCNT] s u ∧ u = { s with regs := u.regs, shale := u.shale }) ∧
  (∀ (b : Bytes) (rest : List Bytes) (s : State), MemoryOk s → s.shale.flushing = some 1 → s.shale.buf = b :: rest → b.length = 32 →
    (s.shale.wslot < 8192 → ∃ t, exec .flushComplete s = .next t ∧ t.shale.buf = rest ∧ t.shale.flushed.toNat = leAt b 4 4 ∧ t.shale.wslot = s.shale.wslot + 1 ∧
      t.shale.wblock = s.shale.wblock ∧ bytesGet flashByte t.shale.flash (slotAddr s.shale.wblock s.shale.wslot) 32 = b ∧
      BytesBut flashByte (slotAddr s.shale.wblock s.shale.wslot) 32 s.shale.flash t.shale.flash) ∧
    (8192 ≤ s.shale.wslot → blockWanted s (eraseTarget s.shale) = true → ∃ t, exec .flushComplete s = .next t ∧ t.reg R.REC_FLUSHCNT = (s.bump R.REC_FLUSHCNT 1).reg R.REC_FLUSHCNT ∧
      t = { s with regs := t.regs, shale := { s.shale with flushing := none, pfwStop := s.shale.pfwStop || s.power.pfw } }) ∧
    (8192 ≤ s.shale.wslot → blockWanted s (eraseTarget s.shale) = false → ∃ t, exec .flushComplete s = .next t ∧ t.shale.buf = rest ∧ (nextHolds s.shale = true → t.regBit R.REC_EVT 3 = true) ∧ t.shale.flushed.toNat = leAt b 4 4 ∧ t.shale.wslot = 1 ∧ t.shale.eraseDue = true ∧
      t.shale.wblock = eraseTarget s.shale ∧ bytesGet flashByte t.shale.flash (slotAddr (eraseTarget s.shale) 0) 32 = b)) ∧
  (∀ (f : Byte) (s : State),
    ((s.shale.flushing = none ∨ s.shale.bad.contains f.toNat = true ∨ (f.toNat ≠ s.shale.wblock ∧ f.toNat ≠ eraseTarget s.shale)) → exec (.blockErase (.programFails f)) s = .next s) ∧
    (s.shale.flushing.isSome = true → s.shale.bad.contains f.toNat = false → (f.toNat = s.shale.wblock ∨ f.toNat = eraseTarget s.shale) →
      ∃ t, exec (.blockErase (.programFails f)) s = .next t ∧ f.toNat ∈ t.shale.bad ∧ t.regBit R.REC_EVT 0 = true ∧ (f.toNat ≠ s.shale.wblock → t.shale.eraseDue = true) ∧ t.lanes = s.lanes ∧
        t.level = s.level ∧ t.shale.flash = s.shale.flash ∧ t.shale.wblock = s.shale.wblock ∧ (t.shale.wslot = if f.toNat = s.shale.wblock then 8192 else s.shale.wslot) ∧
        (s.shale.pfwStop = false → s.shale.buf.length < 8192 → 0 < recTokens s 4 →
          t.shale.buf = s.shale.buf ++ [recordBytes 4 (openSev 4).toNat 0 s.shale.next.toNat s.optime s.bu.pwrcyc.toNat (leBytes 2 f.toNat)]))) ∧
  (∀ (ok : Bool) (s : State), (s.shale.eraseDue = false ∨ s.shale.eraseHeld = true ∨ blockWanted s (eraseTarget s.shale) = true) → exec (.blockErase (if ok then .erased else .failed)) s = .next s) ∧
  (∀ (k : Nat) (s : State), MemoryOk s → k = eraseTarget s.shale → s.shale.eraseDue = true → s.shale.eraseHeld = false → blockWanted s k = false → (s.shale.blocks.map (·.1)).Nodup →
    (∃ t u, exec (.blockErase .erased) s = .next t ∧ Reports R.REC_EVT R.REC_EVTEN 3 62 u t ∧ u = { s with shale := u.shale } ∧
      ((∃ n, (k, n) ∈ s.shale.blocks) → ∀ a, k * 262144 ≤ a → a < k * 262144 + 262144 → cellGet flashByte a u.shale.flash = 0xFF) ∧
      BytesBut flashByte (k * 262144) 262144 s.shale.flash u.shale.flash ∧ (∀ e ∈ u.shale.blocks, e.1 ≠ k) ∧ u.shale.buf = s.shale.buf ∧ u.shale.eraseDue = false) ∧
    ∃ t, exec (.blockErase .failed) s = .next t ∧ k ∈ t.shale.bad ∧ (∀ e ∈ t.shale.blocks, e.1 ≠ k) ∧ t.shale.flash = s.shale.flash ∧ t.lanes = s.lanes ∧ t.level = s.level ∧ t.shale.eraseDue = true)

/-- The management tick (R17, R19, R313, R372, R395 to R397): it falls at the next multiple of 1,000,000 macroticks after the latest, LANE_TICK counts it and PPS_OUT is driven; Shale's buckets are refilled up to the burst, its suppressed entries are summarised and a flush begins; the trips of the vital outputs are released; with SCANPER ticks since the last pass began, or since BGEN was set, a pass of the background scan begins on CHK4 once that is the management plane's and idle; no lane, level or image changes. The background scan (R385, R389, R409): BGEN takes CHK4 over from the host where no scan of the host runs on it and gives it back, which stops a pass at some byte of some stored image, with ADDR, LEN and RUN of CHK4 there; the CRC-32C of every stored image, as its flash reads by then, is held against the one recorded as it was written, and a pass that ends counts itself, up to the counter's limit, and shows each bank that has mismatched; without a pass its end only leaves the bytes that flash has lost. -/
def Obligations.ManagementTickAndBackgroundScan : Prop :=
  (∀ s : State, nextTick s % 1000000 = 0 ∧ s.cyc.tick < nextTick s ∧ nextTick s ≤ s.cyc.tick + 1000000 ∧ ∃ t, exec .managementTick s = .next t ∧
     t.cyc = { s.cyc with timeBase := max s.cyc.timeBase (nextTick s), tick := nextTick s, tickOld := s.shale.oldest, tickNew := newest s } ∧
     (RegsOk s → t.reg R.LANE_TICK = s.reg R.LANE_TICK + 1) ∧ (∃ l, t.out = s.out ++ sent s [.ppsOut] ++ l) ∧
     t.shale.supp = [] ∧ t.shale.flushing = some t.shale.buf.length ∧ t.shale.burst = min (s.regF R.REC_RATECFG 0 8) (s.shale.burst + s.regF R.REC_RATECFG 8 8) ∧
     t.vio = VioSt.settled { s.vio with ovld := 0 } ∧ t.lanes = s.lanes ∧ t.sieve = s.sieve ∧ t.level = s.level ∧ t.group = s.group ∧ t.stored = s.stored ∧ t.upd = s.upd ∧
     t.fsn = s.fsn ∧ t.frn = s.frn ∧ t.can = s.can ∧ t.sby = s.sby ∧ t.power = s.power ∧
     (s.regBit R.CHK_CTRL 0 = false → bgRunning t = bgRunning s ∧ t.chk = s.chk) ∧
     (s.regBit R.CHK_CTRL 0 = true → RegsOk s →
       (s.regF R.CHK_BGCFG 0 16 ≤ s.chk.ticks + 1 → chkOwned s 3 = true → bgRunning s = false → bgRunning t = true ∧ chkBusy t 3 = true ∧ t.chk.ticks = 0) ∧
       ((s.chk.ticks + 1 < s.regF R.CHK_BGCFG 0 16 ∨ chkOwned s 3 = false ∨ bgRunning s = true) → bgRunning t = bgRunning s ∧ t.chk.ticks = s.chk.ticks + 1))) ∧
  ((∀ (v : Word) (s : State), CleanWrite s R.CHK_CTRL v →
     (v.getLsbD 0 = s.regBit R.CHK_CTRL 0 → exec (.bgEn v) s = .next s) ∧
     (v.getLsbD 0 = true → s.regBit R.CHK_CTRL 0 = false → ∃ t, exec (.bgEn v) s = .next t ∧ t.regBit R.CHK_CTRL 0 = true ∧
       chkOwned t 3 = (chkOwned s 3 || !chkBusy s 3) ∧ t.chk.ticks = 0 ∧ RegsBut [R.CHK_CTRL, R.CHKU_STAT 3] s t ∧ t = { s with regs := t.regs, chk := t.chk }) ∧
     (v.getLsbD 0 = false → s.regBit R.CHK_CTRL 0 = true → ∃ t, exec (.bgEn v) s = .next t ∧ t.regBit R.CHK_CTRL 0 = false ∧ chkOwned t 3 = false ∧
       (bgRunning s = true → bgRunning t = false ∧ t.regBit (R.CHKU_EVT 3) 4 = true ∧ (bgRegions s ≠ [] → ∃ r ∈ bgRegions s, ∃ p ≤ r.2.2,
         t.wide (R.CHKU_ADDR_LO 3) = BitVec.ofNat 64 (regionBase r.2.1 + p) ∧ t.reg (R.CHKU_LEN 3) = BitVec.ofNat 32 (r.2.2 - p) ∧
         t.wide (R.CHKU_RUN_LO 3) = algRun 0 (algInit 0) (regionBytes s r.1 r.2.1 p))) ∧
       (bgRunning s = false → RegsBut [R.CHK_CTRL, R.CHKU_STAT 3] s t ∧ t = { s with regs := t.regs }))) ∧
   (∀ (b loam : Bool) (n : Nat) (s : State), (b, loam, n) ∈ bgRegions s ↔ n = storedLen s b loam ∧ n ≠ 0) ∧
   (∀ (b : Bool) (s : State), bankBad s b = true ↔
     (storedLen s b false ≠ 0 ∧ crc32c (regionBytes s b false (storedLen s b false)) ≠ (bankOf s b).fcrc) ∨
     (storedLen s b true ≠ 0 ∧ crc32c (regionBytes s b true (storedLen s b true)) ≠ (bankOf s b).lcrc)) ∧
   ∀ (f g : List (Nat × Byte)) (s : State), RegsOk s → MemoryOk s → ∃ t, exec (.backgroundScan f g) s = .next t ∧
     t.stored = { s.stored with mem0 := t.stored.mem0, mem1 := t.stored.mem1 } ∧ t.lanes = s.lanes ∧ t.level = s.level ∧
     (∀ a, (∀ c ∈ f, c.1 ≠ a) → cellGet erasedByte a t.stored.mem0 = cellGet erasedByte a s.stored.mem0) ∧
     (∀ a, (∀ c ∈ g, c.1 ≠ a) → cellGet erasedByte a t.stored.mem1 = cellGet erasedByte a s.stored.mem1) ∧
     (∀ c, f = [c] → c.1 < 2 ^ 29 → cellGet erasedByte c.1 t.stored.mem0 = c.2) ∧ (∀ c, g = [c] → c.1 < 2 ^ 29 → cellGet erasedByte c.1 t.stored.mem1 = c.2) ∧
     (bgRunning s = false → t = { s with stored := t.stored }) ∧
     (bgRunning s = true → bgRunning t = false ∧ chkBusy t 3 = false ∧ t.regBit R.CHK_BGSTAT 1 = (s.regBit R.CHK_BGSTAT 1 || bankBad t false) ∧
       t.regBit R.CHK_BGSTAT 2 = (s.regBit R.CHK_BGSTAT 2 || bankBad t true) ∧ t.regF R.CHK_BGSTAT 16 16 = min 0xFFFF (s.regF R.CHK_BGSTAT 16 16 + 1) ∧
       ((bankBad t false || bankBad t true) = true → t.regBit (R.CHKU_EVT 3) 2 = true)))

/-! ### The check units -/

/-- The scans of the check units (R382 to R387, R389): a write of CTRL to a unit that the background scan holds is refused; GO on a free unit loads RUN where INIT is 1 and sets BUSY, completes at once a scan of no bytes, and ends with ERR and cause 1 for a range beyond the source, 3 for host memory without bus mastering; GO on a running unit is refused; the last byte gives the result, LEN 0, the compare and DONE; STOP ends at the byte reached and a failed read with cause 2, and both leave ADDR, LEN and RUN as far as the scan has come; a scan of host memory reads it in requests of at most 512 bytes and nothing in D3hot; one of a bank or of Shale flash reads what the state holds there; and CHK4 passes to the background scan as a scan on it ends. -/
def Obligations.CheckUnitsScanTheirRange : Prop :=
  (∀ (s : State) (k n : Nat) (r : Bytes), chkBytes s k n r =
    (if chkSrc s k = 1 then bytesGet erasedByte s.stored.mem0 (s.wide (R.CHKU_ADDR_LO k)).toNat n else if chkSrc s k = 2 then bytesGet erasedByte s.stored.mem1 (s.wide (R.CHKU_ADDR_LO k)).toNat n
      else if chkSrc s k = 3 then bytesGet flashByte s.shale.flash (s.wide (R.CHKU_ADDR_LO k)).toNat n else r.take n)) ∧
  ∀ (u : BitVec 2) (k n a : Nat) (s : State), k = u.toNat → n = s.regN (R.CHKU_LEN k) → a = (s.wide (R.CHKU_ADDR_LO k)).toNat → RegsOk s →
    (∀ (v : Word) (b : Bool) (r : Bytes), CleanWrite s (R.CHKU_CTRL k) v → chkOwned s k = true → exec (.chkGo u v b) s = .next (s.orReg (R.CHKU_STAT k) 0x20) ∧
      exec (.chkStop u v r) s = .next (s.orReg (R.CHKU_STAT k) 0x20)) ∧
    (∀ r : Bytes, (chkBusy s k = false ∨ chkOwned s k = true ∨ (chkSrc s k = 4 ∧ s.hif.d3hot = true)) → exec (.scanComplete u r) s = .next s ∧ exec (.scanReadFailure u r) s = .next s) ∧
    (∀ (v : Word) (b : Bool), CleanWrite s (R.CHKU_CTRL k) v → chkOwned s k = false → chkBusy s k = false →
      (v.getLsbD 0 = false → exec (.chkGo u v b) s = .next s) ∧
      (v.getLsbD 0 = true → srcSize (chkSrc s k) < a + n → ∃ t,
        exec (.chkGo u v b) s = .next t ∧ t.regF (R.CHKU_STAT k) 1 3 = 1 ∧ t.regBit (R.CHKU_STAT k) 0 = false ∧ t.regBit (R.CHKU_EVT k) 3 = true ∧ t.reg (R.CHKU_LEN k) = s.reg (R.CHKU_LEN k)) ∧
      (v.getLsbD 0 = true → a + n ≤ srcSize (chkSrc s k) → chkSrc s k = 4 → b = false → ∃ t,
        exec (.chkGo u v b) s = .next t ∧ t.regF (R.CHKU_STAT k) 1 3 = 3 ∧ t.regBit (R.CHKU_STAT k) 0 = false ∧ t.regBit (R.CHKU_EVT k) 3 = true ∧ t.reg (R.CHKU_LEN k) = s.reg (R.CHKU_LEN k)) ∧
      (v.getLsbD 0 = true → a + n ≤ srcSize (chkSrc s k) → (chkSrc s k ≠ 4 ∨ b = true) → n = 0 → ∃ t,
        exec (.chkGo u v b) s = .next t ∧ chkBusy t k = false ∧ t.regBit (R.CHKU_EVT k) 0 = true ∧
        t.wide (R.CHKU_RES_LO k) = overWidth (chkAlg s k) ((if v.getLsbD 1 then algInit (chkAlg s k) else s.wide (R.CHKU_RUN_LO k)) ^^^ algXor (chkAlg s k))) ∧
      (v.getLsbD 0 = true → a + n ≤ srcSize (chkSrc s k) → (chkSrc s k ≠ 4 ∨ b = true) → n ≠ 0 → ∃ t, exec (.chkGo u v b) s = .next t ∧ chkBusy t k = true ∧
        t.wide (R.CHKU_RUN_LO k) = (if v.getLsbD 1 then algInit (chkAlg s k) else s.wide (R.CHKU_RUN_LO k)) ∧
        RegsBut [R.CHKU_STAT k, R.CHKU_RUN_LO k, R.CHKU_RUN_LO k + 4] s t ∧ t = { s with regs := t.regs })) ∧
    (∀ (v : Word) (b : Bool), CleanWrite s (R.CHKU_CTRL k) v → chkOwned s k = false → chkBusy s k = true → v.getLsbD 2 = false →
      exec (.chkGo u v b) s = .next (if v.getLsbD 0 then s.orReg (R.CHKU_STAT k) 0x20 else s)) ∧
    (∀ (v : Word) (r : Bytes), CleanWrite s (R.CHKU_CTRL k) v → chkOwned s k = false → chkBusy s k = false → v.getLsbD 0 = false → exec (.chkStop u v r) s = .next s) ∧
    (∀ (v : Word) (r q : Bytes), CleanWrite s (R.CHKU_CTRL k) v → chkOwned s k = false → chkBusy s k = true → v.getLsbD 2 = true → q = (if chkSrc s k = 4 ∧ s.hif.d3hot = true then [] else r) →
      (q.length < n → ∃ t, exec (.chkStop u v r) s = .next t ∧
        chkBusy t k = false ∧ t.regBit (R.CHKU_EVT k) 4 = true ∧ t.wide (R.CHKU_ADDR_LO k) = s.wide (R.CHKU_ADDR_LO k) + BitVec.ofNat 64 q.length ∧
        t.reg (R.CHKU_LEN k) = s.reg (R.CHKU_LEN k) - BitVec.ofNat 32 q.length ∧ t.wide (R.CHKU_RUN_LO k) = algRun (chkAlg s k) (s.wide (R.CHKU_RUN_LO k)) (chkBytes s k q.length q) ∧
        (v.getLsbD 0 = true → t.regBit (R.CHKU_STAT k) 5 = true)) ∧
      (n ≤ q.length → ∃ t, exec (.chkStop u v r) s = .next t ∧ chkBusy t k = false ∧ t.regBit (R.CHKU_EVT k) 0 = true ∧ t.reg (R.CHKU_LEN k) = 0)) ∧
    (∀ r c : Bytes, c = chkBytes s k n r → chkOwned s k = false → chkBusy s k = true → (chkSrc s k = 4 → s.hif.d3hot = false) →
      (c.length ≠ n → exec (.scanComplete u r) s = .next s) ∧
      (c.length = n → ∃ t l, exec (.scanComplete u r) s = .next t ∧ chkBusy t k = false ∧ t.regBit (R.CHKU_EVT k) 0 = true ∧ t.reg (R.CHKU_LEN k) = 0 ∧
        t.out = s.out ++ (if chkSrc s k = 4 then sent s ((spans (readMax s) a n).map fun e => .pcieRead e.1 e.2) else []) ++ l ∧
        t.wide (R.CHKU_RES_LO k) = overWidth (chkAlg s k) (algRun (chkAlg s k) (s.wide (R.CHKU_RUN_LO k)) c ^^^ algXor (chkAlg s k)) ∧
        (k = 3 → s.regBit R.CHK_CTRL 0 = true → chkOwned t 3 = true) ∧
        (chkCmpEn s k = true → t.wide (R.CHKU_RES_LO k) = overWidth (chkAlg s k) (s.wide (R.CHKU_EXP_LO k)) → t.regBit (R.CHKU_EVT k) 1 = true) ∧
        (chkCmpEn s k = true → t.wide (R.CHKU_RES_LO k) ≠ overWidth (chkAlg s k) (s.wide (R.CHKU_EXP_LO k)) → t.regBit (R.CHKU_EVT k) 2 = true)) ∧
      (n ≤ r.length → exec (.scanReadFailure u r) s = .next s) ∧
      (r.length < n → ∃ t, exec (.scanReadFailure u r) s = .next t ∧ chkBusy t k = false ∧ t.regBit (R.CHKU_EVT k) 3 = true ∧ t.regF (R.CHKU_STAT k) 1 3 = 2 ∧
        t.wide (R.CHKU_ADDR_LO k) = s.wide (R.CHKU_ADDR_LO k) + BitVec.ofNat 64 r.length ∧ t.reg (R.CHKU_LEN k) = s.reg (R.CHKU_LEN k) - BitVec.ofNat 32 r.length ∧
        t.wide (R.CHKU_RUN_LO k) = algRun (chkAlg s k) (s.wide (R.CHKU_RUN_LO k)) (chkBytes s k r.length r)))

/-! ### Vital inputs and outputs -/

/-- The isolation link (R20, R74, R373 to R375, R379): each refresh the IOI sends the command word of the latest vote with RUN, which a field side that is not in reset takes where its CRC checks, its error ending with the fourth frame in a row; the field side's answer refreshes the IOI's copies, CMD of the latest frame sent among them, and is kept for the next snapshot, with an earlier one where it arrives at the next t0 or later; a wrong CRC is only counted, on either side; in power-on reset, or with the I/O island lost, the logic side sends and takes nothing, and a field side in reset sends nothing; on a silent link the copies stand with LINK 0 and the common fault is held; 100 µs without a frame open every switch. -/
def Obligations.IsolationLinkCarriesCommandsAndStates : Prop :=
  (∀ (b : Bytes) (n : Nat) (s : State), linkOpen s = false → exec (.downFrame b) s = .next s ∧ exec (.upFrame ⟨b, n⟩) s = .next (if s.vio.inReset then s else
    { s with vio := { s.vio with fcnt := s.vio.fcnt + 1 }, out := s.out ++ [.isoUp (upFrame s.vio)] })) ∧
  (∀ s : State, linkOpen s = true ↔ s.power.por = false ∧ s.power.ioiLost = false) ∧
  (∀ (b : Bytes) (s : State), linkOpen s = true → ∃ t, exec (.downFrame b) s = .next t ∧ t = { s with out := s.out ++ [.isoDown (downFrame s)], vio := t.vio } ∧
    t.vio.ioiSeq = s.vio.ioiSeq + 1 ∧ t.vio.sentCmd = s.vio.ioiCmd ∧
    (s.vio.inReset = true → t.vio = { s.vio with ioiSeq := t.vio.ioiSeq, sentCmd := t.vio.sentCmd }) ∧
    (s.vio.inReset = false → crcOk 6 b = true → t.vio.cmd = BitVec.ofNat 16 (beAt b 2 2) ∧ t.vio.run = bitOf (beAt b 1 1) 0 ∧ t.vio.seq = b.headD 0 ∧
      t.vio.downErr = (s.vio.downErr && decide (s.vio.downOk < 3)) ∧ t.vio.s2 = if t.vio.run && !t.vio.downErr && !s.vio.ov then t.vio.cmd &&& ~~~s.vio.ovld else 0) ∧
    (s.vio.inReset = false → crcOk 6 b = false → t.vio = { s.vio with ioiSeq := t.vio.ioiSeq, sentCmd := t.vio.sentCmd, downOk := 0, badDown := s.vio.badDown + 1 })) ∧
  (∀ s : State, (downFrame s).length = 6 ∧ crcOk 6 (downFrame s) = true ∧ beAt (downFrame s) 2 2 = s.vio.ioiCmd.toNat ∧ beAt (downFrame s) 1 1 = b2n (runNow s)) ∧
  (∀ x : VioSt, (upFrame x).length = 14 ∧ crcOk 14 (upFrame x) = true ∧ beAt (upFrame x) 4 4 = x.filt.toNat ∧ bitOf (beAt (upFrame x) 3 1) 0 = x.cf) ∧
  (∀ (n c : Nat) (b : Bytes) (s : State), RegsOk s → linkOpen s = true → s.vio.inReset = false → crcOk 14 b = true → c = max s.cyc.timeBase n → ∃ t, exec (.upFrame ⟨b, n⟩) s = .next t ∧
    t.vio.fcnt = s.vio.fcnt + 1 ∧ (∃ l, t.out = s.out ++ [.isoUp (upFrame s.vio)] ++ l) ∧ t.vio.last = some { frame := b, arrival := c } ∧
    t.vio.prior = (if c < nextT0 s then none else if s.vio.last.any (fun g => decide (g.arrival < nextT0 s)) then s.vio.last else s.vio.prior) ∧ t.vio.linkSilent = false ∧
    t.reg R.VIO_IN = BitVec.ofNat 32 (beAt b 4 4) ∧ t.reg R.VIO_OUT = s.vio.sentCmd.setWidth 32 ∧ t.regF R.VIO_STAT 0 7 = beAt b 3 1 % 128 ∧ t.regBit R.VIO_STAT 7 = true ∧
    t.vio.faulted = bitOf (beAt b 3 1) 0 ∧ t.evg.line.getLsbD 57 = bitOf (beAt b 3 1) 0 ∧ t.vio.filt = s.vio.filt ∧ t.vio.s2 = s.vio.s2 ∧ t.lanes = s.lanes ∧ t.cyc = s.cyc) ∧
  (∀ (n : Nat) (b : Bytes) (s : State), linkOpen s = true → s.vio.inReset = false → crcOk 14 b = false → exec (.upFrame ⟨b, n⟩) s =
    .next (({ s with vio := { s.vio with fcnt := s.vio.fcnt + 1 }, out := s.out ++ [.isoUp (upFrame s.vio)] } : State).bump R.VIO_CRCCNT 1)) ∧
  (∀ (n : Nat) (b : Bytes) (s : State), s.vio.inReset = true → exec (.upFrame ⟨b, n⟩) s = .next s) ∧
  (∀ s : State, RegsOk s → ∃ t, exec .isolationLinkSilent s = .next t ∧ t.regBit R.VIO_STAT 7 = false ∧ t.reg R.VIO_IN = s.reg R.VIO_IN ∧ t.vio.faulted = true ∧
    t.evg.line.getLsbD 57 = true ∧ t.reg R.VIO_CFCNT = s.reg R.VIO_CFCNT + (if s.vio.faulted then 0 else 1) ∧ t.vio.filt = s.vio.filt ∧ t.vio.s2 = s.vio.s2 ∧ t.lanes = s.lanes) ∧
  (∀ s : State, s.vio.inReset = false → exec .downErr s = .next { s with vio := { s.vio with downErr := true, downOk := 0, s2 := 0, darkOn := 0 } }) ∧
  ∀ s : State, s.vio.inReset = true → exec .downErr s = .next s

/-- The field side (R366 to R372, R378): a measurement of VFLD sets undervoltage below 16.5 V and overvoltage above 33.5 V, which opens every switch; each clears by itself, the one first that VFLD came back from first, beyond 17.5 V or below 32.5 V and after 100 ms there; below 12.0 V the field side holds reset and above 14.0 V it leaves it, a trip standing through it; the eighth differing sample in a row changes an input, a sample under test counts for nothing; an output is proven while no cause is present and its readback is as the command and its energy ask, 40 samples allowed; a dark test opens S1 and S2 in turn, is ended by its readback, and sets the output's bit where that does not fall; failed tests clear only by a pass that a reset allows, for an output of both switches; an overload opens its output's switch. -/
def Obligations.FieldSideGuardsInputsAndOutputs : Prop :=
  (∀ (mv : BitVec 16) (s : State),
    (∀ i, (i = Instr.vfldThreshold mv ∨ i = Instr.fieldSideReset mv) →
      (mv.toNat < 12000 → ∃ t, exec i s = .next t ∧ t = { s with vio := t.vio } ∧ t.vio.inReset = true ∧ t.vio.s2 = 0 ∧ t.vio.filt = 0 ∧ (∀ k, outputOn t k = false) ∧
        t.vio.otest = s.vio.otest ∧ t.vio.itest = s.vio.itest ∧ t.vio.ovld = s.vio.ovld) ∧
      (14000 < mv.toNat → s.vio.inReset = true → ∃ t, exec i s = .next t ∧ t = { s with vio := t.vio } ∧ t.vio.inReset = false ∧ t.vio.start = true ∧ t.vio.fcnt = 0 ∧
        t.vio.otest = s.vio.otest ∧ t.vio.otMay = s.vio.otest ∧ t.vio.itMay = s.vio.itest ∧ t.vio.uv = (s.vio.uv || decide (mv.toNat < 16500)) ∧ t.vio.ov = (s.vio.ov || decide (33500 < mv.toNat)))) ∧
    (12000 ≤ mv.toNat → mv.toNat ≤ 14000 → s.vio.inReset = true → exec (.vfldThreshold mv) s = .next { s with vio := { s.vio with mv := mv.toNat } }) ∧
    (12000 ≤ mv.toNat → (mv.toNat ≤ 14000 ∨ s.vio.inReset = false) → exec (.fieldSideReset mv) s = .next s) ∧
    (12000 ≤ mv.toNat → s.vio.inReset = false → ∃ t, exec (.vfldThreshold mv) s = .next t ∧ t.vio.uv = (s.vio.uv || decide (mv.toNat < 16500)) ∧ t.vio.ov = (s.vio.ov || decide (33500 < mv.toNat)) ∧
      t.vio.s2 = (if s.vio.run && !s.vio.downErr && !t.vio.ov then s.vio.cmd &&& ~~~s.vio.ovld else 0) ∧
      (∀ c, c ∈ t.vio.clearing ↔ (c = false ∧ t.vio.uv = true ∧ 17500 < mv.toNat) ∨ (c = true ∧ t.vio.ov = true ∧ mv.toNat < 32500)) ∧
      t = { s with vio := { s.vio with mv := mv.toNat, uv := t.vio.uv, ov := t.vio.ov, s2 := t.vio.s2, darkOn := t.vio.darkOn, clearing := t.vio.clearing } })) ∧
  (∀ s : State, (s.vio.clearing = [] → exec .vfldClear s = .next s) ∧
    ∀ c cs, s.vio.clearing = c :: cs → ∃ t, exec .vfldClear s = .next t ∧ t.vio.uv = (s.vio.uv && c) ∧ t.vio.ov = (s.vio.ov && !c) ∧ t.vio.clearing = cs ∧
      t.vio.s2 = (if s.vio.run && !s.vio.downErr && !t.vio.ov && !s.vio.inReset then s.vio.cmd &&& ~~~s.vio.ovld else 0) ∧
      t = { s with vio := { s.vio with uv := t.vio.uv, ov := t.vio.ov, s2 := t.vio.s2, darkOn := t.vio.darkOn, clearing := t.vio.clearing } }) ∧
  (∀ (levels : BitVec 32) (m : FieldSample) (s : State), s.vio.inReset = false → s.vio.runs.length = 32 → ∃ t, exec (.inputSample levels m) s = .next t ∧
    t = { s with vio := { s.vio with filt := t.vio.filt, runs := t.vio.runs, rbWant := t.vio.rbWant, rbAge := t.vio.rbAge, rbBad := t.vio.rbBad } } ∧
    (∀ j < 32,
      (t.vio.filt.getLsbD j = if !m.testing.getLsbD j && (levels.getLsbD j != s.vio.filt.getLsbD j) && decide (7 ≤ s.vio.runs.getD j 0) then levels.getLsbD j else s.vio.filt.getLsbD j) ∧
      (t.vio.runs.getD j 0 = if m.testing.getLsbD j then s.vio.runs.getD j 0 else if levels.getLsbD j == s.vio.filt.getLsbD j || decide (7 ≤ s.vio.runs.getD j 0) then 0
        else s.vio.runs.getD j 0 + 1)) ∧
    ∀ k < 16, t.vio.rbWant.getLsbD k = (s.vio.run && s.vio.cmd.getLsbD k && energised s k) ∧
      t.vio.rbAge.getD k 0 = (if t.vio.rbWant.getLsbD k = s.vio.rbWant.getLsbD k then min 40 (s.vio.rbAge.getD k 0 + 1) else 0) ∧
      t.vio.rbBad.getLsbD k = (if 40 ≤ t.vio.rbAge.getD k 0 ∧ s.vio.darkOn.getLsbD k = false then t.vio.rbWant.getLsbD k != m.readback.getLsbD k else s.vio.rbBad.getLsbD k)) ∧
  (∀ (x : VioSt), ∀ k < 16, x.proven.getLsbD k = (!x.cf && !x.rbBad.getLsbD k)) ∧
  (∀ (j : BitVec 5) (s : State), s.vio.inReset = false → (∃ t, exec (.inputTest j true) s = .next t ∧ t = { s with vio := { s.vio with itest := t.vio.itest, itMay := t.vio.itMay } } ∧
      t.vio.itest.getLsbD j.toNat = true ∧ (∀ i, i ≠ j.toNat → t.vio.itest.getLsbD i = s.vio.itest.getLsbD i) ∧ t.vio.cf = true) ∧
    ∃ t, exec (.inputTest j false) s = .next t ∧ (t.vio.itest.getLsbD j.toNat = (s.vio.itest.getLsbD j.toNat && !s.vio.itMay.getLsbD j.toNat)) ∧
      (∀ i, i ≠ j.toNat → t.vio.itest.getLsbD i = s.vio.itest.getLsbD i) ∧ t.vio.start = (s.vio.start && t.vio.inTested != 0xFFFFFFFF) ∧ t.vio.inTested.getLsbD j.toNat = true ∧
      t = { s with vio := { s.vio with itest := t.vio.itest, itMay := t.vio.itMay, inTested := t.vio.inTested, start := t.vio.start } }) ∧
  (∀ (k : BitVec 4) (f : Bool) (s : State), outputOn s k.toNat = true →
    (∃ t, exec (.darkTest k false f) s = .next t ∧ t = { s with vio := { s.vio with darkOn := t.vio.darkOn } } ∧ t.vio.darkOn.getLsbD k.toNat = true ∧
      ∀ i, i ≠ k.toNat → t.vio.darkOn.getLsbD i = s.vio.darkOn.getLsbD i) ∧
    (s.vio.darkOn.getLsbD k.toNat = false → exec (.darkTest k true f) s = .next s) ∧
    (s.vio.darkOn.getLsbD k.toNat = true → ∃ t, exec (.darkTest k true f) s = .next t ∧ t = { s with vio := t.vio } ∧ t.vio.darkOn.getLsbD k.toNat = false ∧
      t.vio.darkTurn.getLsbD k.toNat = (!s.vio.darkTurn.getLsbD k.toNat) ∧ (∀ i, i ≠ k.toNat → t.vio.darkTurn.getLsbD i = s.vio.darkTurn.getLsbD i ∧ t.vio.otest.getLsbD i = s.vio.otest.getLsbD i) ∧
      (s.vio.s2 = s.vio.closing → t.vio.s2 = s.vio.s2) ∧ (f = false → t.vio.otest.getLsbD k.toNat = true ∧ t.vio.cf = true) ∧
      (f = true → t.vio.otest.getLsbD k.toNat = (s.vio.otest.getLsbD k.toNat &&
        !(s.vio.otMay.getLsbD k.toNat && if s.vio.darkTurn.getLsbD k.toNat then s.vio.darkS1.getLsbD k.toNat else s.vio.darkS2.getLsbD k.toNat)))) ∧
    ∃ t, exec (.overload k) s = .next t ∧ t.vio.ovld.getLsbD k.toNat = true ∧ outputOn t k.toNat = false ∧ t.vio.cf = true ∧
      t = { s with vio := { s.vio with ovld := t.vio.ovld, s2 := t.vio.s2, darkOn := t.vio.darkOn } }) ∧
  ∀ (k : BitVec 4) (f g : Bool) (j : BitVec 5) (a : BitVec 32) (m : FieldSample) (s : State), (outputOn s k.toNat = false → exec (.overload k) s = .next s ∧
      ∃ t, exec (.darkTest k f g) s = .next t ∧ t = { s with vio := { s.vio with darkOn := t.vio.darkOn } } ∧ t.vio.darkOn.getLsbD k.toNat = false ∧
        ∀ i, i ≠ k.toNat → t.vio.darkOn.getLsbD i = s.vio.darkOn.getLsbD i) ∧
    (s.vio.inReset = true → exec (.inputTest j f) s = .next s ∧ exec (.inputSample a m) s = .next s)

/-! ### The standby pairing -/

/-- The standby link and the interlock lines (R344, R348 to R350, R352, R353, R355, R356, R360): what each frame of the partner, each edge and each limit does in every role. A STATUS gives the partner's report and the offset of the cycle numbers, and eligibility follows; TIME shows the offset, steers a module that took its time from the partner, and loads the time base only before start-up; a VOTE names its cycle, and one with a bad code ends eligibility with cause 0x3; a block waits for the next snapshot, the close block of a delta that has come whole is acknowledged at once, and a block that begins a full copy of an eligible standby ends eligibility with cause 0x2; a malformed one is counted; an acknowledgement counts at the active; a refusal is reported at the active and made at a standby that cannot take an offered handover; the link goes down unless each of the last four rounds brought a STATUS; CPLIMIT gives cause 0x9 and a fresh copy as soon as one may begin; the interlock line reads toggling, static or irregular. At each round start the link follows the last four rounds and the module sends its own STATUS, and TIME as the active and once its cycles have begun. A module that is not paired takes none of it. How the frames of a malformed copy and of the two identical roles are told apart is the model's (logs 46, 68). -/
def Obligations.StandbyTakesThePartnersFrames : Prop :=
  (∀ (p : PartnerStatus) (s : State), s.sby.pairenNow = true → ∃ t, exec (.status p) s = .next t ∧
    EligFollows { s with sby := { s.sby with
      partner := some p, heardNow := true, lastFrame := s.cyc.timeBase,
      coffset := if s.cyc.started = true ∧ p.t0Diff ≤ 2 then (s.cycle : Int) - p.cycle.toNat else s.sby.coffset } } t) ∧
  (∀ (tb d : Nat) (done : Bool) (s u : State) (off : Int), s.sby.pairenNow = true → off = (1024 * s.cyc.timeBase : Nat) - (tb + d : Nat) →
    u = ({ s with sby := { s.sby with lastFrame := s.cyc.timeBase } } : State).setReg R.SBY_TOFFSET (BitVec.ofInt 32 off) →
    (s.regBit R.FRN_CTRL 0 = true → exec (.time tb d done) s = .next { s with sby := { s.sby with lastFrame := s.cyc.timeBase } }) ∧
    (s.regBit R.FRN_CTRL 0 = false → s.sby.timeDone = true → done = true → s.sby.role ≠ .active → ∃ t, exec (.time tb d done) s = .next t ∧ Steered off u t) ∧
    (s.regBit R.FRN_CTRL 0 = false → (done = false ∨ (s.sby.timeDone = true ∧ s.sby.role = .active) ∨ (s.sby.timeDone = false ∧ s.cyc.started = true)) →
      exec (.time tb d done) s = .next u) ∧
    (s.regBit R.FRN_CTRL 0 = false → done = true → s.sby.timeDone = false → s.cyc.started = false → ∃ t v, exec (.time tb d done) s = .next t ∧
      TimeLoads ((tb + d) / 1024) u v ∧ t = { v with sby := { v.sby with timeDone := true } })) ∧
  (∀ (b : CopyBlock) (s : State), s.sby.pairenNow = true →
    exec (.vote false b) s = .next { s with sby := { s.sby with malformed := s.sby.malformed + 1 } } ∧
    (blockKind b.body ≠ 4 → exec (.vote true b) s = .next { s with sby := { s.sby with lastFrame := s.cyc.timeBase, malformed := s.sby.malformed + 1 } }) ∧
    (blockKind b.body = 4 → blockOk b = true → exec (.vote true b) s = .next { s with sby := { s.sby with lastFrame := s.cyc.timeBase, vote := some b.cycle } }) ∧
    (blockKind b.body = 4 → blockOk b = false → s.sby.role = .standby → ∃ t, exec (.vote true b) s = .next t ∧ EligEnds 3 { s with sby := { s.sby with lastFrame := s.cyc.timeBase } } t) ∧
    (blockKind b.body = 4 → blockOk b = false → s.sby.role ≠ .standby → exec (.vote true b) s = .next { s with sby := { s.sby with lastFrame := s.cyc.timeBase } })) ∧
  (∀ (b : CopyBlock) (n : Nat) (s u : State), s.sby.pairenNow = true → n = (if s.sby.rxCycle = b.cycle then s.sby.rxCount + 1 else 1) →
    u = { s with sby := { s.sby with lastFrame := s.cyc.timeBase, inbox := s.sby.inbox ++ [b], rxCycle := b.cycle, rxCount := n },
                 out := s.out ++ if isClose b = true ∧ n = b.number.toNat + 1 then sent s [.pairAck b.cycle] else [] } →
    exec (.copy none) s = .next { s with sby := { s.sby with malformed := s.sby.malformed + 1 } } ∧
    (s.sby.role ≠ .standby → exec (.copy (some b)) s = .next { s with sby := { s.sby with lastFrame := s.cyc.timeBase } }) ∧
    (s.sby.role = .standby → s.sby.elig = true → blockOk b = true → (∃ ws, b.body = .fullRun 0 ws) → ∃ t, exec (.copy (some b)) s = .next t ∧ EligEnds 2 u t) ∧
    (s.sby.role = .standby → (s.sby.elig = false ∨ blockOk b = false ∨ ∀ ws, b.body ≠ .fullRun 0 ws) → exec (.copy (some b)) s = .next u)) ∧
  (∀ (n : BitVec 48) (s : State), s.sby.pairenNow = true →
    (s.sby.role = .active → exec (.ack n) s = .next { s with sby := { s.sby with lastFrame := s.cyc.timeBase, acked := some (max (s.sby.acked.getD 0) n.toNat) } }) ∧
    (s.sby.role ≠ .active → exec (.ack n) s = .next { s with sby := { s.sby with lastFrame := s.cyc.timeBase } })) ∧
  (∀ s : State, s.sby.pairenNow = true →
    (s.sby.role ≠ .standby → ∃ t, exec .refuse s = .next t ∧ Reports R.SBY_EVT R.SBY_EVTEN 5 56 { s with sby := { s.sby with lastFrame := s.cyc.timeBase } } t) ∧
    (s.sby.role = .standby → s.sby.offered = true → (s.sby.elig = false ∨ s.sby.min ≠ 1 ∨ ∃ v, s.sby.vote = some v ∧ ∀ h, s.sby.held = some h → h < v) → ∃ t u, exec .refuse s = .next t ∧
      EligEnds 8 { s with out := s.out ++ sent s [.pairRefuse], sby := { s.sby with refused := true, offered := false } } u ∧ Reports R.SBY_EVT R.SBY_EVTEN 5 56 u t) ∧
    (s.sby.role = .standby → (s.sby.offered = false ∨ (s.sby.elig = true ∧ s.sby.min = 1 ∧ ∀ v, s.sby.vote = some v → ∃ h, s.sby.held = some h ∧ v ≤ h)) → exec .refuse s = .next s)) ∧
  (∀ s : State, s.sby.pairenNow = true → exec .mshipInStatic s = .next { s with sby := { s.sby with min := 1 } } ∧
    ∀ ns, exec (.mshipInEdge ns) s = .next { s with sby := { s.sby with min := if 4000 ≤ ns ∧ ns ≤ 6000 then 0 else 2 } }) ∧
  (∀ (s u : State), s.sby.pairenNow = true → u = { s with sby := { s.sby with heard := s.sby.heard &&& 14 } } →
    (s.sby.heardNow = true → s.sby.heard &&& 7 = 7 → exec .standbyLinkDown s = .next s) ∧
    ((s.sby.heardNow = false ∨ s.sby.heard &&& 7 ≠ 7) →
      (s.sby.link = false → exec .standbyLinkDown s = .next u) ∧
      (s.sby.link = true → ∃ t v, exec .standbyLinkDown s = .next t ∧ Reports R.SBY_EVT R.SBY_EVTEN 3 56 { u with sby := { u.sby with link := false } } v ∧
        (s.sby.role = .standby → s.sby.elig = true → EligEnds 1 v t) ∧ ((s.sby.role ≠ .standby ∨ s.sby.elig = false) → t = v)))) ∧
  (∀ s : State, s.sby.pairenNow = true →
    (s.sby.role = .active → s.sby.copy = 1 → s.sby.copyStart + 1 + s.sby.cpLimit ≤ s.cyc.cycle → exec .cpLimit s =
      .next (if copyWanted s then ({ s with sby := { s.sby with lost := 9, copy := 1, copyStart := s.cyc.cycle, base := [], baseReg := none, deltaLost := false } } : State).setReg R.SBY_COPYWORDS 0
        else { s with sby := { s.sby with lost := 9, copy := 0 } })) ∧
    (copyWanted s = true ↔ s.sby.link = true ∧ (∃ p, s.sby.partner = some p ∧ p.role = 2 ∧ (p.elig = false ∨ s.sby.deltaLost = true) ∧ 2 ≤ p.level.toNat) ∧ ImageShared s ∧ CycleShared s ∧
      s.level.serves = true ∧ s.group.rejoin = none ∧ s.group.proof = none) ∧
    (s.sby.role = .active → (s.sby.copy ≠ 1 ∨ s.cyc.cycle < s.sby.copyStart + 1 + s.sby.cpLimit) → exec .cpLimit s = .next s) ∧
    (s.sby.role ≠ .active → s.sby.link = true → s.sby.fullDone = false → exec .cpLimit s = .next { s with sby := { s.sby with lost := 9 } }) ∧
    (s.sby.role ≠ .active → (s.sby.link = false ∨ s.sby.fullDone = true) → exec .cpLimit s = .next s)) ∧
  (∀ s : State, s.sby.pairenNow = true →
    (s.sby.strap = false → s.cyc.started = false → s.regBit R.FRN_CTRL 0 = false → exec .waitExpiry s = .next { s with sby := { s.sby with waitOver := true } }) ∧
    ((s.sby.strap = true ∨ s.cyc.started = true ∨ s.regBit R.FRN_CTRL 0 = true) → exec .waitExpiry s = .next s)) ∧
  (∀ (s : State) (h : BitVec 4), s.sby.pairenNow = true → s.power.por = false → s.power.ioiLost = false → h = (s.sby.heard <<< 1) ||| (if s.sby.heardNow then 1 else 0) → ∃ t, exec .roundStart s = .next t ∧
    t.sby.heard = h ∧ t.sby.heardNow = false ∧ t.sby.link = decide (h = 15) ∧
    (∃ p, Output.pairStatus p ∈ t.out ∧ p.cycle = BitVec.ofNat 48 s.cyc.cycle ∧ p.elig = t.sby.elig) ∧ ((s.sby.role = .active ∨ s.cyc.started = true) → Output.pairTime (t.cyc.timeBase * 1024) ∈ t.out)) ∧
  ∀ (p : PartnerStatus) (tb d n : Nat) (f : Bool) (c : BitVec 48) (o : Option CopyBlock) (b : CopyBlock) (s : State), s.sby.pairenNow = false → ∀ i ∈ [Instr.status p, .time tb d f, .vote f b, .copy o, .ack c,
    .refuse, .mshipInStatic, .mshipInEdge n, .standbyLinkDown, .cpLimit, .waitExpiry], exec i s = .next s

/-! ### The field star -/

/-- Frames of the star (R276 to R285, R287, R290, R293, R296), whatever arrives: a frame that starts in no uplink window, one of another node than the slot's owner, one that sends too long and one that the guardian cuts for any reason are cut and charged; of the others one that fails a check of acceptance is only counted, one for a Scree slot without an owner asks for it, and one of the owner is counted, its entries take the place of earlier ones for their objects, an ABSENT node enters START, and its acknowledgement counts while a switch is collected; every start is measured. A downlink slot sends the next entries of the queue with the cycle they are of, or NULL where there are none. A port that takes no part takes and sends nothing. -/
def Obligations.StarFramesPassTheGuardian : Prop :=
  (∀ (p : BitVec 4) (start k : Nat) (b : Bytes) (s : State), ShapeOk s → RegsOk s → portOn s p.toNat = true → k = frameNode b →
    (windowSlot s p.toNat start = none → ∃ t, exec (.etlFFrame p start b) s = .next t ∧ FrameIsCut p.toNat start k s t) ∧
    ∀ i x, windowSlot s p.toNat start = some (i, x) →
      (((slotOwner s p.toNat x ≠ none ∧ slotOwner s p.toNat x ≠ some k) ∨ tooLong s start x b.length = true) → ∃ t, exec (.etlFFrame p start b) s = .next t ∧ FrameIsCut p.toNat start k s t) ∧
      ((slotOwner s p.toNat x = none ∨ slotOwner s p.toNat x = some k) → tooLong s start x b.length = false →
        (frameOk s b (slotOwner s p.toNat x).isSome x = false → ∃ t, exec (.etlFFrame p start b) s = .next t ∧
          t.reg (R.FSN_P_RXERRCNT p.toNat) = s.reg (R.FSN_P_RXERRCNT p.toNat) + 1 ∧ RegsBut [R.FSN_P_RXERRCNT p.toNat] s t ∧
          t = { s with regs := t.regs, fsn := { s.fsn with ports := t.fsn.ports } } ∧ portAt t p.toNat = { portAt s p.toNat with nodes := (portAt t p.toNat).nodes } ∧
          (∀ j < 8, nodeAt t p.toNat j = afterStart s p.toNat start k j) ∧ ∀ j, j ≠ p.toNat → portAt t j = portAt s j) ∧
        (frameOk s b true x = true → slotOwner s p.toNat x = some k → ∃ t, exec (.etlFFrame p start b) s = .next t ∧ StarWork p.toNat [R.FSN_P_RXCNT p.toNat] s t ∧ Announces s t ∧
          t.reg (R.FSN_P_RXCNT p.toNat) = s.reg (R.FSN_P_RXCNT p.toNat) + 1 ∧
          (∀ j < 8, j ≠ k → nodeAt t p.toNat j = nodeAt s p.toNat j) ∧
          ((nodeAt s p.toNat k).st ≠ 0 → t = { s with regs := t.regs, fsn := t.fsn } ∧ t.reg (R.FSN_P_EVT p.toNat) = s.reg (R.FSN_P_EVT p.toNat) ∧
            nodeAt t p.toNat k = { afterStart s p.toNat start k k with heard := true, mack := (nodeAt s p.toNat k).mack || (bitOf (beAt b 1 1) 5 && modeState s == 1) }) ∧
          ((nodeAt s p.toNat k).st = 0 → t.regBit (R.FSN_P_EVT p.toNat) 0 = true ∧
            nodeAt t p.toNat k = { afterStart s p.toNat start k k with
              st := 1, startEnd := s.fsn.round + 64, good := 0, heard := true, mack := (nodeAt s p.toNat k).mack || (bitOf (beAt b 1 1) 5 && modeState s == 1) }) ∧
          portAt t p.toNat = { portAt s p.toNat with
            nodes := (portAt t p.toNat).nodes
            rx := if frameType b = 2 then ((List.range (beAt b 8 2 / 13)).map (entryAt p.toNat b)).foldl (fun l e => l.filter (fun f => f.obj != e.obj) ++ [e]) (portAt s p.toNat).rx
              else (portAt s p.toNat).rx }) ∧
        (frameOk s b false x = true → slotOwner s p.toNat x = none → ∃ t, exec (.etlFFrame p start b) s = .next t ∧
          t.reg (R.FSN_P_RXCNT p.toNat) = s.reg (R.FSN_P_RXCNT p.toNat) + 1 ∧ RegsBut [R.FSN_P_RXCNT p.toNat] s t ∧
          t = { s with regs := t.regs, fsn := { s.fsn with ports := t.fsn.ports } } ∧
          portAt t p.toNat = { portAt s p.toNat with nodes := (portAt t p.toNat).nodes, asked := (portAt s p.toNat).asked ++ [(BitVec.ofNat 4 x.scree, BitVec.ofNat 3 k)] } ∧
          (∀ j < 8, nodeAt t p.toNat j = afterStart s p.toNat start k j) ∧ ∀ j, j ≠ p.toNat → portAt t j = portAt s j))) ∧
  (∀ (p : BitVec 4) (start : Nat) (k : BitVec 3) (w : CutWhy) (s : State), ShapeOk s → RegsOk s → portOn s p.toNat = true → ∃ t, exec (.frameCut p start k w) s = .next t ∧
    FrameIsCut p.toNat start k.toNat s t) ∧
  (∀ (p : BitVec 4) (i : BitVec 6) (x : Slot) (s : State), ShapeOk s → portOn s p.toNat = true → x = slotAt s (curMode s) p.toNat i.toNat →
    ((i = 0 ∨ x.kind ≠ 1 ∨ x.down = false) → exec (.downlinkSlot p i) s = .next s) ∧
    (i ≠ 0 → x.kind = 1 → x.down = true → ∀ n, n = min ((capacity (accw s) x.len - 4) / 13) (portAt s p.toNat).queue.length →
      (n = 0 → exec (.downlinkSlot p i) s = .next { s with out := s.out ++ sent s [.etlF p (downFrameOf s 4 i.toNat [])] }) ∧
      (0 < n → ∃ t b, exec (.downlinkSlot p i) s = .next t ∧
        t = { s with out := s.out ++ sent s [.etlF p (downFrameOf s 2 i.toNat b)], fsn := t.fsn } ∧ b.length = 4 + 13 * n ∧ beAt b 0 4 = (portAt s p.toNat).qcycle % 2 ^ 32 ∧
        (∀ j m, j < n → (portAt s p.toNat).queue[((portAt s p.toNat).pos + j) % (portAt s p.toNat).queue.length]? = some m →
          beAt b (4 + 13 * j) 3 = m.obj.toNat ∧ beAt b (7 + 13 * j) 2 = m.record.toNat ∧ beAt b (9 + 13 * j) 4 = m.code1.toNat ∧ beAt b (13 + 13 * j) 4 = m.code2.toNat) ∧
        portAt t p.toNat = { portAt s p.toNat with
          pos := ((portAt s p.toNat).pos + n) % (portAt s p.toNat).queue.length, sent := min (portAt s p.toNat).queue.length ((portAt s p.toNat).sent + n) } ∧
        ∀ j, j ≠ p.toNat → portAt t j = portAt s j))) ∧
  (∀ (s : State) (ty i : Nat) (b : Bytes), (downFrameOf s ty i b).length = b.length + 14 ∧ beAt (downFrameOf s ty i b) 2 4 = s.fsn.round % 2 ^ 32 ∧
    beBytes 4 (crc32iso ((downFrameOf s ty i b).take (b.length + 10))).toNat = (downFrameOf s ty i b).drop (b.length + 10)) ∧
  ∀ (p : BitVec 4) (start : Nat) (k : BitVec 3) (i : BitVec 6) (w : CutWhy) (b : Bytes) (s : State), portOn s p.toNat = false →
    ∀ c ∈ [Instr.etlFFrame p start b, .frameCut p start k w, .downlinkSlot p i, .absentTimeout p k, .startPeriod p k], exec c s = .next s

/-- Nodes, claims and rounds of the star (R272, R273, R281, R283 to R286, R292, R294 to R297): a node silent too long becomes ABSENT, one that ends START becomes ADMITTED, or starts another 64 rounds after a late start, each with its event, and one that is not due changes nothing; a claim whose node has been ABSENT for SCREEREL whole rounds is released; a link's change waits for the round start, and a loss makes every node ABSENT though the link has returned. A round start ends the round before and begins the next: the time base reaches it, a port that is enabled and not shut sends SYNC with the new round, any other port that took part, and one whose enable was cleared in between, starts afresh with its nodes ABSENT and its claims released, an announced switch takes effect, and a node becomes DRIFTING with its third cut in 16 rounds. -/
def Obligations.StarNodesFollowTheirFrames : Prop :=
  (∀ (p : BitVec 4) (k : BitVec 3) (s : State), ShapeOk s → RegsOk s → portOn s p.toNat = true →
    (absentDue s p.toNat k.toNat = true → exec (.startPeriod p k) s = .next s ∧ ∃ t, exec (.absentTimeout p k) s = .next t ∧ StarWork p.toNat [] s t ∧ Announces s t ∧
      nodeAt t p.toNat k.toNat = { nodeAt s p.toNat k.toNat with st := 0, startEnd := 0, good := 0, mack := false, late := true } ∧
      t.regBit (R.FSN_P_EVT p.toNat) 0 = true ∧ (∀ j, j ≠ k.toNat → nodeAt t p.toNat j = nodeAt s p.toNat j) ∧ portAt t p.toNat = { portAt s p.toNat with nodes := (portAt t p.toNat).nodes }) ∧
    (absentDue s p.toNat k.toNat = false → exec (.absentTimeout p k) s = .next s) ∧
    (startDue s p.toNat k.toNat = false → exec (.startPeriod p k) s = .next s) ∧
    (absentDue s p.toNat k.toNat = false → startDue s p.toNat k.toNat = true →
      ((∀ r, (nodeAt s p.toNat k.toNat).badStart = some r → r + 8 ≤ s.fsn.round) → ∃ t, exec (.startPeriod p k) s = .next t ∧ StarWork p.toNat [] s t ∧
        t.reg R.FSN_MODE = s.reg R.FSN_MODE ∧ t.fsn.swRound = s.fsn.swRound ∧
        nodeAt t p.toNat k.toNat = { nodeAt s p.toNat k.toNat with st := 2, startEnd := s.fsn.round + 1, good := 0 } ∧ t.regBit (R.FSN_P_EVT p.toNat) 0 = true ∧
        ∀ j, j ≠ k.toNat → nodeAt t p.toNat j = nodeAt s p.toNat j) ∧
      ∀ r, (nodeAt s p.toNat k.toNat).badStart = some r → s.fsn.round < r + 8 → ∃ t, exec (.startPeriod p k) s = .next t ∧ t = { s with fsn := { s.fsn with ports := t.fsn.ports } } ∧
        nodeAt t p.toNat k.toNat = { nodeAt s p.toNat k.toNat with startEnd := s.fsn.round + 64 } ∧ (∀ j, j ≠ k.toNat → nodeAt t p.toNat j = nodeAt s p.toNat j) ∧
        ∀ j, j ≠ p.toNat → portAt t j = portAt s j)) ∧
  (∀ (p k : Nat) (s : State), (absentDue s p k = true ↔ (nodeAt s p k).st ≠ 0 ∧ (nodeAt s p k).heard = false ∧ 15 ≤ (nodeAt s p k).silent) ∧
    (startDue s p k = true ↔ (nodeAt s p k).st = 1 ∧ (nodeAt s p k).startEnd ≤ s.fsn.round)) ∧
  (∀ (p j : BitVec 4) (s : State), ShapeOk s → RegsOk s →
    ((∃ c ∈ (portAt s p.toNat).claims, c.scree = j ∧ (nodeAt s p.toNat c.node.toNat).st = 0 ∧ (nodeAt s p.toNat c.node.toNat).late = false ∧ s.regF R.FSN_GCFG 16 16 ≤ c.absent + 1) → ∃ t, exec (.screeRel p j) s = .next t ∧
      StarWork p.toNat [] s t ∧ portAt t p.toNat = { portAt s p.toNat with claims := (portAt s p.toNat).claims.filter (fun c => c.scree != j) } ∧ t.regBit (R.FSN_P_EVT p.toNat) 6 = true ∧
      t.reg R.FSN_MODE = s.reg R.FSN_MODE) ∧
    ((∀ c ∈ (portAt s p.toNat).claims, c.scree = j → (nodeAt s p.toNat c.node.toNat).st ≠ 0 ∨ (nodeAt s p.toNat c.node.toNat).late = true ∨ c.absent + 1 < s.regF R.FSN_GCFG 16 16) → exec (.screeRel p j) s = .next s)) ∧
  (∀ (p : BitVec 4) (s : State), ShapeOk s →
    (∃ t, exec (.linkLoss p) s = .next t ∧ t = { s with fsn := { s.fsn with ports := t.fsn.ports } } ∧ portAt t p.toNat = { portAt s p.toNat with linkNow := false, linkLost := true } ∧
      ∀ q, q ≠ p.toNat → portAt t q = portAt s q) ∧
    ∃ t, exec (.linkReturn p) s = .next t ∧ t = { s with fsn := { s.fsn with ports := t.fsn.ports } } ∧ portAt t p.toNat = { portAt s p.toNat with linkNow := true } ∧
      ∀ q, q ≠ p.toNat → portAt t q = portAt s q) ∧
  ∀ s : State, ShapeOk s → s.fsn.round < nextRound s ∧ ∃ t, exec .roundStart s = .next t ∧ t.fsn.round = nextRound s ∧ t.cyc.timeBase = max s.cyc.timeBase (1000 * nextRound s) ∧
    t.lanes = s.lanes ∧ t.sieve = s.sieve ∧ t.level = s.level ∧ t.vio = s.vio ∧ t.stored = s.stored ∧ t.shale = s.shale ∧ t.can = s.can ∧ t.group = s.group ∧ t.upd = s.upd ∧
    t.fsn.sched = s.fsn.sched ∧
    (∀ p < 16, s.regBit R.FSN_CTRL p = true → portsShut s (nextRound s) = false → (portAt t p).on = true ∧ (s.power.por = false → s.power.ioiLost = false →
      ∃ b, Output.etlF (BitVec.ofNat 4 p) b ∈ t.out ∧ beAt b 2 4 = nextRound s % 2 ^ 32 ∧ frameType b = 1) ∧
      ((portAt s p).on = true → (portAt s p).dropped = true → (portAt t p).claims = [] ∧ ∀ j < 8, (nodeAt t p j).st = 0)) ∧
    (∀ p < 16, (s.regBit R.FSN_CTRL p = false ∨ portsShut s (nextRound s) = true) → (portAt t p).on = false ∧
      ((portAt s p).on = true → (portAt t p).claims = [] ∧ ∀ j < 8, (nodeAt t p j).st = 0) ∧
      ((portAt s p).on = false → (portAt s p).linkNow = (portAt s p).link → (portAt s p).linkLost = false → (portAt s p).claims = [] → portAt t p = { portAt s p with dropped := false })) ∧
    (∀ p < 16, (portAt t p).link = (portAt s p).linkNow ∧ (portAt t p).linkLost = false ∧ ((portAt s p).linkLost = true → ∀ j < 8, (nodeAt t p j).st = 0)) ∧
    (∀ p < 16, portOn s p = true → (portAt s p).dropped = false → s.regBit R.FSN_CTRL p = true → portsShut s (nextRound s) = false → (portAt s p).linkLost = false → (portAt s p).asked = [] → ∀ k < 8,
      (absentDue s p k = true → (nodeAt t p k).st = 0) ∧
      (absentDue s p k = false → startDue s p k = true →
        ((∀ r, (nodeAt s p k).badStart = some r → r + 8 ≤ s.fsn.round) → (nodeAt t p k).st = 2) ∧ ∀ r, (nodeAt s p k).badStart = some r → s.fsn.round < r + 8 → (nodeAt t p k).st = 1) ∧
      (absentDue s p k = false → (nodeAt s p k).st = 2 → (nodeAt t p k).st =
        if s.fsn.round ∈ (nodeAt s p k).cuts ∧ 3 ≤ ((recent s.fsn.round (nodeAt s p k).cuts).filter ((nodeAt s p k).startEnd ≤ ·)).length then 3 else 2)) ∧
    (RegsOk s → modeState s = 2 → s.fsn.swRound ≤ nextRound s → modeState t = 3 ∧ curMode t = s.regF R.FSN_MODE 2 2)

/-- Schedules and mode switches of the star (R274, R275, R292, R296, R297): a mode that passes its check becomes VALID and one that fails shows its rule, slot and port; a port is enabled only while the current mode is valid, and one whose enable is cleared is marked for the round start; a switch to a mode that is not valid or current is refused, a second one at once has no effect but CFGLOST, and an accepted one is collected, with no acknowledgement counted yet, until its announcement, its time-out or its round, at which the claims that the new mode has no slot for are released; every enabled port reports the end of each. A write without its bit, and a limit that has not come, change nothing. -/
def Obligations.StarModesAreCheckedAndSwitched : Prop :=
  (∀ (v : Word) (s : State), CleanWrite s R.FSN_SCHCHK v → v.getLsbD 2 = true →
    (scheduleFault s (v.toNat % 4) = none → ∃ t, exec (.fsnSchChkGo v) s = .next t ∧ modeValid t (v.toNat % 4) = true ∧ t.reg R.FSN_SCHCHK = 24 ||| (v &&& 0xFFFC0000) ∧
      RegsBut [R.FSN_SCHCHK, R.FSN_STAT] s t ∧ t = { s with regs := t.regs }) ∧
    (∀ r i p, scheduleFault s (v.toNat % 4) = some (r, i, p) → ∃ t, exec (.fsnSchChkGo v) s = .next t ∧ t.reg R.FSN_SCHCHK = BitVec.ofNat 32 (8 + r * 32 + i * 256 + p * 2 ^ 14) ||| (v &&& 0xFFFC0000) ∧
      RegsBut [R.FSN_SCHCHK] s t ∧ t = { s with regs := t.regs })) ∧
  (∀ (v : Word) (s : State), (CleanWrite s R.FSN_SCHCHK v → v.getLsbD 2 = false → exec (.fsnSchChkGo v) s = .next s) ∧
    (CleanWrite s R.FSN_MODE v → v.getLsbD 10 = false → exec (.fsnModeGo v) s = .next s)) ∧
  (∀ (v : Word) (s : State), CleanWrite s R.FSN_CTRL v →
    ∃ t, exec (.fsnCtrlEn v) s = .next t ∧ t = { s with regs := t.regs, fsn := { s.fsn with ports := t.fsn.ports } } ∧ RegsBut [R.FSN_CTRL, R.FSN_STAT] s t ∧
      (ShapeOk s → ∀ p < 16, portAt t p = { portAt s p with dropped := (portAt s p).dropped || (s.regBit R.FSN_CTRL p && !v.getLsbD p) }) ∧
      ((modeValid s (curMode s) = true ∨ v &&& 0xFFFF &&& ~~~s.reg R.FSN_CTRL = 0) → t.reg R.FSN_CTRL = v ∧ t.reg R.FSN_STAT = s.reg R.FSN_STAT) ∧
      (modeValid s (curMode s) = false → v &&& 0xFFFF &&& ~~~s.reg R.FSN_CTRL ≠ 0 → t.reg R.FSN_CTRL = v &&& s.reg R.FSN_CTRL ∧ t.regBit R.FSN_STAT 0 = true)) ∧
  (∀ (v : Word) (m : Nat) (s : State), CleanWrite s R.FSN_MODE v → v.getLsbD 10 = true → m = fld v.toNat 8 2 →
    (switching s = true → exec (.fsnModeGo v) s = .next (s.orReg R.FSN_STAT 1)) ∧
    (switching s = false → (modeValid s m = false ∨ m = curMode s) → ∃ t, exec (.fsnModeGo v) s = .next t ∧ modeState t = 5 ∧ curMode t = curMode s ∧ t.regF R.FSN_MODE 2 2 = m ∧ t.fsn = s.fsn ∧
      (∀ p < 16, s.regBit R.FSN_CTRL p = true → t.regBit (R.FSN_P_EVT p) 8 = true) ∧ EventWork s t) ∧
    (switching s = false → modeValid s m = true → m ≠ curMode s → ShapeOk s → ∃ t, exec (.fsnModeGo v) s = .next t ∧ t.regF R.FSN_MODE 2 2 = m ∧ curMode t = curMode s ∧
      t.fsn = { s.fsn with goRound := s.fsn.round, ports := t.fsn.ports, swRound := t.fsn.swRound } ∧
      (∀ p < 16, portAt t p = { portAt s p with nodes := (portAt s p).nodes.map fun n => { n with mack := false } }) ∧
      (allAcked t = false → modeState t = 1 ∧ t.fsn.swRound = s.fsn.swRound ∧ RegsBut [R.FSN_MODE] s t) ∧
      (allAcked t = true → modeState t = 2 ∧ t.fsn.swRound = s.fsn.round + s.regF R.FSN_MODECFG 8 4 ∧ t.reg R.FSN_SWROUND = BitVec.ofNat 32 t.fsn.swRound) ∧
      RegsBut [R.FSN_MODE, R.FSN_SWROUND] s t ∧ t = { s with regs := t.regs, fsn := t.fsn })) ∧
  ∀ s : State, RegsOk s →
    (modeState s = 1 → s.fsn.goRound + s.regF R.FSN_MODECFG 0 8 ≤ s.fsn.round → ∃ t, exec .ackTo s = .next t ∧ modeState t = 4 ∧ curMode t = curMode s ∧ t.fsn = s.fsn ∧
      (∀ p < 16, s.regBit R.FSN_CTRL p = true → t.regBit (R.FSN_P_EVT p) 8 = true) ∧ EventWork s t) ∧
    ((modeState s ≠ 1 ∨ s.fsn.round < s.fsn.goRound + s.regF R.FSN_MODECFG 0 8) → exec .ackTo s = .next s) ∧
    (ShapeOk s → modeState s = 2 → s.fsn.swRound ≤ s.fsn.round + 1 → ∃ t, exec .swRound s = .next t ∧ modeState t = 3 ∧ curMode t = s.regF R.FSN_MODE 2 2 ∧ EventWork s t ∧
      (∀ p < 16, s.regBit R.FSN_CTRL p = true → t.regBit (R.FSN_P_EVT p) 7 = true) ∧
      ∀ p < 16, portAt t p = { portAt s p with claims := (portAt s p).claims.filter fun c => (screeNumbers s (s.regF R.FSN_MODE 2 2) p).contains c.scree.toNat }) ∧
    ((modeState s ≠ 2 ∨ s.fsn.round + 1 < s.fsn.swRound) → exec .swRound s = .next s)

/-! ### The federation ring -/

/-- Frames of the ring (R301, R303 to R307, R315 to R317), whatever arrives on a receiving link of an enabled ring: one with a wrong FCS is counted, and ends a cold start; the module's own is removed; one that fails a check of acceptance is counted; a second one of its SRC and ROUND on the same ring is cut; a copy of one that has been served is only kept; a first one serves, DATA with its entries for this module in place of earlier ones for their objects, CLAIM, each claimant's once, by asking for its member, NULL and a probe by being heard; and each but a probe is forwarded as R301 says. In its own slot, once in a round and at the count of the slot, the module sends one frame on each ring: DATA with the next entries of its queue, each with the codes for the frame's own ROUND, NULL where there are none, or, as an ungranted Scree member, a CLAIM while its number is free. A link that fails loops its port, and 64 good rounds, in each direction, restore it; anything else changes nothing. -/
def Obligations.RingFramesAreServedOnceAndForwarded : Prop :=
  (∀ (l : BitVec 2) (a r : Nat) (b : Bytes) (s : State), (ringOn s = false ∨ receives l.toNat = false) → exec (.etlRFrame l a r b) s = .next s ∧ exec (.linkFailed l) s = .next s) ∧
  (∀ (l : BitVec 2) (s : State), receives l.toNat = false → exec (.linkRestore l) s = .next s) ∧
  (∀ (l : BitVec 2) (a r k : Nat) (b : Bytes) (h : RingHdr) (s : State), ShapeOk s → RegsOk s → ringOn s = true → receives l.toNat = true → k = l.toNat → h = ringHdr b →
    (ringFcsOk b = false → ∃ t, exec (.etlRFrame l a r b) s = .next t ∧ t.reg (R.FRN_L_RXERRCNT k) = s.reg (R.FRN_L_RXERRCNT k) + 1 ∧ t.regBit (R.FRN_L_STAT k) 0 = true ∧
      RingForwards k r b s t ∧
      (syncState s ≠ 2 → t = { s with regs := t.regs, out := t.out } ∧ RegsBut [R.FRN_L_RXERRCNT k, R.FRN_L_STAT k] s t) ∧
      (syncState s = 2 → syncState t = 3 ∧ t.frn = { s.frn with backoffEnd := s.fsn.round + 4 * (s.regF R.FRN_CFG 8 5 + 1) } ∧ EventWork s t)) ∧
    (ringFcsOk b = true → h.src = ownMember s → isStandby s = false → ∃ t, exec (.etlRFrame l a r b) s = .next t ∧ LinkHears k a b (fun x => x) s t ∧
      t = { s with regs := t.regs, frn := { s.frn with links := t.frn.links } } ∧ RegsBut [R.FRN_L_STAT k, R.FRN_L_DELAY k] s t) ∧
    (ringFcsOk b = true → (h.src ≠ ownMember s ∨ isStandby s = true) →
      ((ringTypeFits s h = false ∨ ringLenFits b h = false ∨ srcOk s h = false) → ∃ t, exec (.etlRFrame l a r b) s = .next t ∧ LinkHears k a b (fun x => x) s t ∧ RingForwards k r b s t ∧
        t.reg (R.FRN_L_RXERRCNT k) = s.reg (R.FRN_L_RXERRCNT k) + 1 ∧ RegsBut [R.FRN_L_STAT k, R.FRN_L_DELAY k, R.FRN_L_RXERRCNT k] s t ∧
        t = { s with regs := t.regs, out := t.out, frn := { s.frn with links := t.frn.links } }) ∧
      (ringTypeFits s h = true → ringLenFits b h = true → srcOk s h = true → (seenOn s k).contains (frameKey h) = true → ∃ t, exec (.etlRFrame l a r b) s = .next t ∧ EventWork s t ∧
        LinkHears k a b (fun x => { x with cuts := recent s.fsn.round (s.fsn.round :: x.cuts) }) s t ∧ RingForwards k r b s t ∧
        t.reg (R.FRN_L_CUTCNT k) = s.reg (R.FRN_L_CUTCNT k) + 1 ∧ t.frn = { s.frn with links := t.frn.links } ∧ t.regBit (R.FRN_L_EVT k) 2 = true)) ∧
    (RingAccepts k b s → isProbe h = false → h.type ≠ 3 → s.frn.accepted.contains (frameKey h) = true → ∃ t, exec (.etlRFrame l a r b) s = .next t ∧
      LinkHears k a b (fun x => { x with probed := true }) s t ∧ RingForwards k r b s t ∧ t.reg (R.FRN_L_RXCNT k) = s.reg (R.FRN_L_RXCNT k) + 1 ∧ seenOn t k = frameKey h :: seenOn s k ∧
      t = { s with regs := t.regs, out := t.out, frn := { s.frn with links := t.frn.links, seen1 := t.frn.seen1, seen2 := t.frn.seen2 } } ∧
      RegsBut [R.FRN_L_STAT k, R.FRN_L_DELAY k, R.FRN_L_RXCNT k] s t) ∧
    (RingAccepts k b s → (isProbe h = true ∨ h.type = 3 ∨ (s.frn.accepted.contains (frameKey h) = false ∧ (h.type = 2 ∨ h.type = 4))) → ∃ t, exec (.etlRFrame l a r b) s = .next t ∧
      RingTakes k a r b s t ∧ t = { s with regs := t.regs, out := t.out, frn := t.frn } ∧ RegsBut [R.FRN_L_STAT k, R.FRN_L_DELAY k, R.FRN_L_RXCNT k] s t ∧
      t.frn = { s.frn with
        links := t.frn.links, seen1 := t.frn.seen1, seen2 := t.frn.seen2, accepted := t.frn.accepted, live := t.frn.live, lastAny := t.frn.lastAny
        claims := if h.type = 3 ∧ ∀ c ∈ s.frn.claims, ¬(c.src = BitVec.ofNat 5 h.src ∧ c.serial = BitVec.ofNat 64 (beAt b 32 8) ∧ c.round = h.round) then
            s.frn.claims ++ [{ src := BitVec.ofNat 5 h.src, serial := BitVec.ofNat 64 (beAt b 32 8), round := h.round, fresh := true }] else s.frn.claims
        rx := if h.type = 2 then (((List.range (h.len / 13)).map (ringEntry b h)).filter fun e => e.obj.toNat / 2 ^ 15 != ownMember s).foldl (fun l e => l.filter (fun f => f.obj != e.obj) ++ [e]) s.frn.rx
          else s.frn.rx })) ∧
  (∀ (s : State) (tb start : Nat), start = 1000 * s.fsn.round + 30 * (ownMember s + 1) → tb = max s.cyc.timeBase start →
    (mayOriginate s = false → exec .origination s = .next s) ∧
    (mayOriginate s = true →
      (isScree s (ownMember s) = true → isGranted s (ownMember s) = false →
        (syncState s = 5 → s.frn.claimFree.getLsbD (ownMember s) = true → ∃ t, exec .origination s = .next t ∧
          t = { s with out := s.out ++ ringSent s start 0 3 (beBytes 8 (s.wide R.GLB_SERIAL_LO).toNat) ++ ringSent s start 1 3 (beBytes 8 (s.wide R.GLB_SERIAL_LO).toNat),
                       cyc := { s.cyc with timeBase := tb }, bu := t.bu, frn := { s.frn with sentRound := some s.fsn.round, txTimes := (1024 * start :: s.frn.txTimes).take 8 } }) ∧
        ((syncState s ≠ 5 ∨ s.frn.claimFree.getLsbD (ownMember s) = false) → ∃ t, exec .origination s = .next t ∧
          t = { s with cyc := { s.cyc with timeBase := tb }, bu := t.bu, frn := { s.frn with sentRound := some s.fsn.round } })) ∧
      ((isScree s (ownMember s) = false ∨ isGranted s (ownMember s) = true) → ∀ n, n = min 157 s.frn.queue.length →
        (n = 0 → ∃ t, exec .origination s = .next t ∧
          t = { s with out := s.out ++ ringSent s start 0 4 [] ++ ringSent s start 1 4 [], cyc := { s.cyc with timeBase := tb }, bu := t.bu,
                       frn := { s.frn with sentRound := some s.fsn.round, txTimes := (1024 * start :: s.frn.txTimes).take 8 } }) ∧
        (0 < n → ∃ t b, exec .origination s = .next t ∧ b.length = 13 * n ∧
          (∀ j m, j < n → s.frn.queue[(s.frn.pos + j) % s.frn.queue.length]? = some m →
            beAt b (13 * j) 3 = m.obj.toNat ∧ beAt b (3 + 13 * j) 2 = m.record.toNat ∧ beAt b (5 + 13 * j) 4 = (stampRound s m).code1.toNat ∧
            beAt b (9 + 13 * j) 4 = (stampRound s m).code2.toNat) ∧
          t = { s with out := s.out ++ ringSent s start 0 2 b ++ ringSent s start 1 2 b, cyc := { s.cyc with timeBase := tb }, bu := t.bu,
                       frn := { s.frn with sentRound := some s.fsn.round, txTimes := (1024 * start :: s.frn.txTimes).take 8, pos := (s.frn.pos + n) % s.frn.queue.length,
                                           sent := min s.frn.queue.length (s.frn.sent + n) } })))) ∧
  (∀ (s : State) (start ring ty : Nat) (b : Bytes), ring < 2 → ty < 16 → b.length < 2 ^ 16 → (withFcs (ringFrame s start ring ty b)).length = b.length + 36 ∧ ringFcsOk (withFcs (ringFrame s start ring ty b)) = true ∧
    ringHdr (withFcs (ringFrame s start ring ty b)) =
      { type := ty, src := ownMember s, hops := 0, round := s.fsn.round % 2 ^ 32, tx := 1024 * start % 2 ^ 64, echo := (linkAt s (if ring = 0 then 2 else 1)).neigh % 2 ^ 64, corr := 0, len := b.length }) ∧
  ∀ (l : BitVec 2) (s : State), ShapeOk s → RegsOk s → receives l.toNat = true →
    (ringOn s = true → linkFailed s l.toNat = true → exec (.linkFailed l) s = .next s) ∧
    (ringOn s = true → linkFailed s l.toNat = false → ∃ t, exec (.linkFailed l) s = .next t ∧ EventWork s t ∧ linkFailed t l.toNat = true ∧ t.regBit (R.FRN_L_STAT (partnerLink l.toNat)) 2 = true ∧
      t.regBit (R.FRN_L_STAT l.toNat) 0 = (s.regBit (R.FRN_L_STAT l.toNat) 0 && !lockLost s l.toNat) ∧
      t.regBit (R.FRN_L_EVT l.toNat) 0 = true ∧ linkAt t l.toNat = { linkAt s l.toNat with probeRun := 0, probed := false } ∧ t.frn = { s.frn with links := t.frn.links }) ∧
    (linkFailed s l.toNat = true → 64 ≤ (linkAt s l.toNat).probeRun + (if (linkAt s l.toNat).probed && (linkAt s l.toNat).echoed then 1 else 0) → ∃ t, exec (.linkRestore l) s = .next t ∧ EventWork s t ∧
      linkFailed t l.toNat = false ∧ t.regBit (R.FRN_L_STAT (partnerLink l.toNat)) 2 = false ∧ t.regBit (R.FRN_L_EVT l.toNat) 1 = true ∧
      linkAt t l.toNat = { linkAt s l.toNat with cuts := [], lastGood := s.fsn.round } ∧ t.frn = { s.frn with links := t.frn.links }) ∧
    ((linkFailed s l.toNat = false ∨ (linkAt s l.toNat).probeRun + (if (linkAt s l.toNat).probed && (linkAt s l.toNat).echoed then 1 else 0) < 64) → exec (.linkRestore l) s = .next s)

/-- Time on the ring (R303, R308 to R315): a REF tells a member its master, the rank, the time and the grants, ends a holdover, and is joined by one without time, whose time base it loads before start-up, as the first REF does after a COLD; a master only notes it; a COLD is a conflict for a module that sends COLD and is joined by one that listens or backs off. After 64 rounds without a frame a listening module sends COLD, as it does after a back-off; a SYNCED member without REF for 8 rounds enters holdover, of whose limit the next snapshot tells; an edge of PPS_IN that is used, the first or one within 200 µs of 1 s after the one before, steers only a master that uses it, by at most 10 steps in a round and within ±1,500. At a round start a candidate that has heard no lower rank takes the role, a master that has heard one gives it up, a master grants the lowest free Scree number that exactly one claimant has asked for in the round and sends REF on both rings, and a looped port sends a probe, each with the number of the round that begins. A row whose condition does not hold changes nothing. -/
def Obligations.RingTimeStartsAndHoldsOver : Prop :=
  (∀ (l : BitVec 2) (a r : Nat) (b : Bytes) (h : RingHdr) (s : State), ShapeOk s → RegsOk s → h = ringHdr b → RingAccepts l.toNat b s → s.frn.accepted.contains (frameKey h) = false →
    (h.type = 1 → isMaster s = true → ∃ t, exec (.etlRFrame l a r b) s = .next t ∧ RingTakes l.toNat a r b s t ∧ t = { s with regs := t.regs, out := t.out, frn := t.frn } ∧
      t.frn.lastRef = (BitVec.ofNat 3 (beAt b 34 1 % 8), BitVec.ofNat 5 h.src, s.fsn.round) :: s.frn.lastRef) ∧
    (h.type = 1 → isMaster s = false → 4 ≤ syncState s → (syncState s ≠ 4 ∨ s.cyc.started = true ∨ s.frn.refLoaded = true) → ∃ t, exec (.etlRFrame l a r b) s = .next t ∧ RingTakes l.toNat a r b s t ∧
      t = { s with regs := t.regs, evg := t.evg, hif := t.hif, out := t.out, frn := t.frn, free := t.free, cyc := t.cyc } ∧
      t.cyc = (if syncState s = 6 then { s.cyc with holdSince := none, holdLost := false, startFrom := s.cyc.timeBase } else s.cyc) ∧ syncState t = (if syncState s = 6 then 5 else syncState s) ∧
      t.frn.lastRef = (BitVec.ofNat 3 (beAt b 34 1 % 8), BitVec.ofNat 5 h.src, s.fsn.round) :: s.frn.lastRef ∧
      t.regF R.FRN_STAT 8 5 = h.src ∧ t.regF R.FRN_STAT 13 3 = beAt b 34 1 % 8 ∧ t.regBit R.FRN_STAT 6 = decide (beAt b 32 2 ≠ s.cyc.tcyc) ∧
      t.reg R.FRN_OFFSET = BitVec.ofInt 32 ((a : Int) - (h.tx + h.corr : Nat)) ∧ t.regBit R.FRN_STAT 5 = decide (2048 < ((a : Int) - (h.tx + h.corr : Nat)).natAbs) ∧
      t.frn.claimFree = BitVec.ofNat 32 (beAt b 36 4) ∧
      t.reg R.FRN_GRANTED = ((s.reg R.FRN_GRANTED ||| (s.reg R.FRN_SCREE &&& ~~~((1 : Word) <<< ownMember s))) &&& ~~~BitVec.ofNat 32 (beAt b 36 4)) ||| (if bitOf (beAt b 35 1) 7 then (1 : Word) <<< (beAt b 35 1 % 32) else 0)) ∧
    (((h.type = 1 ∧ isMaster s = false ∧ (syncState s < 4 ∨ (syncState s = 4 ∧ s.cyc.started = false ∧ s.frn.refLoaded = false))) ∨ (h.type = 5 ∧ (syncState s = 1 ∨ syncState s = 3))) → ∃ t, exec (.etlRFrame l a r b) s = .next t ∧
      syncState t = 4 ∧ t.frn.okRounds = 0 ∧ t.frn.refLoaded = (h.type == 1 || s.frn.refLoaded) ∧ t.lanes = s.lanes ∧ t.level = s.level ∧ t.can = s.can ∧ t.vio = s.vio ∧
      (s.cyc.started = false → t.cyc.timeBase = (h.tx + h.corr) / 1024 ∧ t.fsn.round = (h.tx + h.corr) / 1024000) ∧ (s.cyc.started = true → t.cyc = s.cyc ∧ t.fsn = s.fsn)) ∧
    (h.type = 5 → syncState s = 2 → ∃ t, exec (.etlRFrame l a r b) s = .next t ∧ RingTakes l.toNat a r b s t ∧ EventWork s t ∧ syncState t = 3 ∧
      t.frn.backoffEnd = s.fsn.round + 4 * (s.regF R.FRN_CFG 8 5 + 1)) ∧
    (h.type = 5 → (syncState s = 0 ∨ 4 ≤ syncState s) → ∃ t, exec (.etlRFrame l a r b) s = .next t ∧ RingTakes l.toNat a r b s t ∧ t = { s with regs := t.regs, out := t.out, frn := t.frn } ∧
      syncState t = syncState s)) ∧
  (∀ s : State, RegsOk s →
    (ringOn s = true → isStandby s = false → s.frn.everSynced = false → syncState s = 1 → max s.frn.enabledAt (s.frn.lastAny.getD 0) + 64 ≤ s.fsn.round + 1 → ∃ t,
      exec .coldStart s = .next t ∧ EventWork s t ∧ syncState t = 2 ∧ t.frn = { s.frn with coldSent := 0 }) ∧
    ((ringOn s = false ∨ isStandby s = true ∨ s.frn.everSynced = true ∨ syncState s ≠ 1 ∨ s.fsn.round + 1 < max s.frn.enabledAt (s.frn.lastAny.getD 0) + 64) → exec .coldStart s = .next s) ∧
    (ringOn s = true → isStandby s = false → syncState s = 3 → s.frn.backoffEnd ≤ s.fsn.round → ∃ t, exec .backoff s = .next t ∧ EventWork s t ∧ syncState t = 2 ∧
      t.frn = { s.frn with coldSent := 0 }) ∧
    ((ringOn s = false ∨ isStandby s = true ∨ syncState s ≠ 3 ∨ s.fsn.round < s.frn.backoffEnd) → exec .backoff s = .next s) ∧
    (ringOn s = true → isMaster s = false → syncState s = 5 → lastRefRound s + 8 ≤ s.fsn.round → ∃ t, exec .holdover s = .next t ∧ syncState t = 6 ∧
      t.cyc = { s.cyc with holdSince := some s.cyc.timeBase } ∧ t.reg R.FRN_HOLDTIME = 0 ∧ t.frn = s.frn ∧
      t = { s with regs := t.regs, evg := t.evg, hif := t.hif, out := t.out, cyc := t.cyc } ∧ ∀ l < 4, t.regBit (R.FRN_L_EVT l) 4 = true) ∧
    ((ringOn s = false ∨ isMaster s = true ∨ syncState s ≠ 5 ∨ s.fsn.round < lastRefRound s + 8) → exec .holdover s = .next s)) ∧
  (∀ s : State,
    (∀ t0, syncState s = 6 → s.cyc.holdSince = some t0 → t0 + 1000000 * s.regF R.FRN_TIMECFG 0 12 ≤ max s.cyc.timeBase (s.cyc.lastT0 + 1000 * s.cyc.tcyc) →
      exec .holdoverLimit s = .next { s with cyc := { s.cyc with holdLost := true } }) ∧
    ((syncState s ≠ 6 ∨ ∀ t0, s.cyc.holdSince = some t0 → max s.cyc.timeBase (s.cyc.lastT0 + 1000 * s.cyc.tcyc) < t0 + 1000000 * s.regF R.FRN_TIMECFG 0 12) →
      exec .holdoverLimit s = .next s)) ∧
  (∀ (a : Nat) (s : State), (ppsUsed s a = true ↔ ∀ t, s.frn.ppsLast = some t → ((a : Int) - (t + 1024000000 : Nat)).natAbs ≤ 204800) ∧
    ((ringOn s = false ∨ isMaster s = false ∨ s.regBit R.FRN_TIMECFG 12 = false ∨ ppsUsed s a = false) → exec (.ppsIn a) s = .next s) ∧
    (ringOn s = true → isMaster s = true → s.regBit R.FRN_TIMECFG 12 = true → ppsUsed s a = true → ∃ t, exec (.ppsIn a) s = .next t ∧
      Steered (tickError a) { s with frn := { s.frn with ppsLast := some a } } t)) ∧
  ∀ s : State, RegsOk s → ∃ t, exec .roundStart s = .next t ∧
    (isStandby s = false → isMaster s = false → takesRole s = true → isMaster t = true) ∧
    (isStandby s = false → isMaster s = true → yieldsRole s = true → syncState s ≠ 2 → isMaster t = false) ∧
    (isStandby s = true → isMaster t = false) ∧
    (isStandby s = false → isMaster t = true → ∀ o ∈ ringSent t (1000 * t.fsn.round) 0 1 (refBody t (ownRank t)) ++ ringSent t (1000 * t.fsn.round) 1 1 (refBody t (ownRank t)), o ∈ t.out) ∧
    t.fsn.round = nextRound s ∧
    (isStandby s = false → isMaster s = true → yieldsRole s = false → t.frn.grantNext = (ringGrant s).map (BitVec.ofNat 5) ∧
      ∀ m, ringGrant s = some m ↔ m < 32 ∧ canGrant s m ∧ ∀ j < m, ¬canGrant s j) ∧
    ∀ l, (l = 1 ∨ l = 2) → linkFailed s l = true → ∀ o ∈ sent t [.etlR (BitVec.ofNat 1 (if l = 1 then 1 else 0)) (withFcs (ringFrame t (1000 * t.fsn.round) (if l = 1 then 1 else 0) 4 []))], o ∈ t.out

/-! ### The CAN FD controllers -/

/-- Control, requests and transmission (R323 to R325, R330 to R334), each write and each end of a frame: EN is set only where the timing checks pass, other bits change only while it is 0, and clearing it ends the frames, requests and counters; a request is pending with RES 0x07 until its frame is sent with RES 0x00, or 0x0A under a held cancel, or its cancel ends it with RES 0x06; a failed frame keeps it unless it holds a cancel, and counts as an error, and a duplicate also as such, while one that nothing acknowledges raises no counter of a passive sender; a cancel of a frame in arbitration, or of the frame being sent, is held; a vital frame is the mark or the next entries of the queue that stood as it began, and moves that queue on; a counter beyond 255 is bus-off, which ends the frame, and recovery clears the counters. A write without effect, in the other mode, or on a request not pending, changes nothing, and no other controller changes. -/
def Obligations.CanRequestsEndByFrameOrCancel : Prop :=
  ∀ (n : BitVec 2) (k : Nat) (s : State), ShapeOk s → RegsOk s → k = n.toNat →
    (∀ v : Word, CleanWrite s (R.CAN_CTRL k) v →
      (canBit s k 0 = false → v.getLsbD 0 = true → canTimingOk s k (v &&& 0xFF) = true → exec (.canCtrlEn n v) s = .next (s.setReg (R.CAN_CTRL k) v)) ∧
      (canBit s k 0 = false → v.getLsbD 0 = true → canTimingOk s k (v &&& 0xFF) = false → exec (.canCtrlEn n v) s = .next (s.orReg (R.CAN_STAT k) 0x100000)) ∧
      (canBit s k 0 = false → v.getLsbD 0 = false → exec (.canCtrlEn n v) s = .next (s.setReg (R.CAN_CTRL k) v)) ∧
      (canBit s k 0 = true → v.getLsbD 0 = true → exec (.canCtrlEn n v) s = .next (if v &&& 0xFF = s.reg (R.CAN_CTRL k) &&& 0xFF then s else s.orReg (R.CAN_STAT k) 0x100000)) ∧
      (canBit s k 0 = true → v.getLsbD 0 = false → ∃ t, exec (.canCtrlEn n v) s = .next t ∧ CanWork k [R.CAN_CTRL k, R.CAN_STAT k] s t ∧
        t.reg (R.CAN_CTRL k) = s.reg (R.CAN_CTRL k) &&& ~~~1 ∧ ((v &&& 0xFF) ||| 1 ≠ s.reg (R.CAN_CTRL k) &&& 0xFF → t.regBit (R.CAN_STAT k) 20 = true) ∧
        (∀ r, isReq r → txAt t k r = if (txAt s k r).pending then endedTx 6 else txAt s k r) ∧
        canAt t k = { canAt s k with
          tec := 0, rec0 := 0, st := 0, recovering := false, fifo := [], cur := none, won := false, vcur := none, refDue := false, ttSync := false, ttMaster := false, window := .none
          txb := (canAt t k).txb, objs := (canAt t k).objs })) ∧
    (∀ v : Word, CleanWrite s (R.CAN_TXREQ k) v → (canBit s k 1 = true → exec (.txReq n v) s = .next s) ∧ (canBit s k 1 = false → ∃ t, exec (.txReq n v) s = .next t ∧ t = { s with can := t.can } ∧
      (∀ b < 3, txAt t k (.buf b) = if v.getLsbD b && !(txAt s k (.buf b)).pending then busyTx else txAt s k (.buf b)) ∧
      canAt t k = { canAt s k with txb := (canAt t k).txb } ∧ ∀ j, j ≠ k → canAt t j = canAt s j)) ∧
    (∀ (v : Word) (arb : BitVec 3), CleanWrite s (R.CAN_TXCAN k) v → (canBit s k 1 = true → exec (.txCan n v arb) s = .next s) ∧
      (canBit s k 1 = false → ∃ t, exec (.txCan n v arb) s = .next t ∧ CanWork k [] s t ∧
        (∀ b < 3, txAt t k (.buf b) =
          if (v.getLsbD b && (txAt s k (.buf b)).pending) = false then txAt s k (.buf b)
          else if arb.getLsbD b = true ∨ (canAt s k).cur = some (.buf b) then { txAt s k (.buf b) with cancel := true } else endedTx 6) ∧
        canAt t k = { canAt s k with
          txb := (canAt t k).txb
          cur := (canAt s k).cur.or (([0, 1, 2].find? fun b => v.getLsbD b && (txAt s k (.buf b)).pending && arb.getLsbD b).map CanTx.buf) } ∧
        ((∃ b < 3, v.getLsbD b = true ∧ txAt t k (.buf b) = endedTx 6 ∧ (txAt s k (.buf b)).pending = true) → t.regBit (R.CAN_EVT k) 1 = true))) ∧
    (∀ v : Word, exec (.objReqReq n v) s = exec (.objReqCan n v false) s) ∧
    (∀ (v : Word) (o : Nat), CleanWrite s (R.CAN_OBJREQ k) v → o = fld v.toNat 0 7 → v.getLsbD 8 = false →
      (canBit s k 1 = true → v.getLsbD 7 = true → (objAt s k o).tx.pending = false → ∃ t, exec (.objReqReq n v) s = .next t ∧ t = { s with can := t.can } ∧
        objAt t k o = { objAt s k o with tx := busyTx } ∧ (∀ j, j ≠ o → objAt t k j = objAt s k j) ∧ canAt t k = { canAt s k with objs := (canAt t k).objs } ∧
        ∀ j, j ≠ k → canAt t j = canAt s j) ∧
      ((canBit s k 1 = false ∨ v.getLsbD 7 = false ∨ (objAt s k o).tx.pending = true) → exec (.objReqReq n v) s = .next s)) ∧
    (∀ (v : Word) (arb : Bool) (o : Nat) (x : TxSt), CleanWrite s (R.CAN_OBJREQ k) v → o = fld v.toNat 0 7 →
      x = (if v.getLsbD 7 && !(objAt s k o).tx.pending then busyTx else (objAt s k o).tx) →
      (canBit s k 1 = false → exec (.objReqCan n v arb) s = .next s) ∧
      (canBit s k 1 = true → (v.getLsbD 8 = false ∨ x.pending = false) → x = (objAt s k o).tx → exec (.objReqCan n v arb) s = .next s) ∧
      (canBit s k 1 = true → v.getLsbD 8 = false → x ≠ (objAt s k o).tx → ∃ t, exec (.objReqCan n v arb) s = .next t ∧ t = { s with can := t.can } ∧
        objAt t k o = { objAt s k o with tx := busyTx } ∧ (∀ j, j ≠ o → objAt t k j = objAt s k j) ∧ canAt t k = { canAt s k with objs := (canAt t k).objs } ∧
        ∀ j, j ≠ k → canAt t j = canAt s j) ∧
      (canBit s k 1 = true → v.getLsbD 8 = true → x.pending = true → (arb = true ∨ (canAt s k).cur = some (.obj o)) → ∃ t, exec (.objReqCan n v arb) s = .next t ∧ t = { s with can := t.can } ∧
        objAt t k o = { objAt s k o with tx := { x with cancel := true } } ∧ (∀ j, j ≠ o → objAt t k j = objAt s k j) ∧
        canAt t k = { canAt s k with objs := (canAt t k).objs, cur := (canAt s k).cur.or (some (.obj o)) } ∧ ∀ j, j ≠ k → canAt t j = canAt s j) ∧
      (canBit s k 1 = true → v.getLsbD 8 = true → x.pending = true → arb = false → (canAt s k).cur ≠ some (.obj o) → ∃ t, exec (.objReqCan n v arb) s = .next t ∧ CanWork k [] s t ∧
        objAt t k o = { objAt s k o with tx := endedTx 6 } ∧ (∀ j, j ≠ o → objAt t k j = objAt s k j) ∧ canAt t k = { canAt s k with objs := (canAt t k).objs } ∧
        t.regBit (R.CAN_EVT k) 1 = true)) ∧
    ((s.power.retired = false → (canAt s k).st = 2 → ∃ t, exec (.recover n) s = .next t ∧ t = { s with can := t.can } ∧ canAt t k = { canAt s k with recovering := true } ∧
        ∀ j, j ≠ k → canAt t j = canAt s j) ∧
      ((s.power.retired = true ∨ (canAt s k).st ≠ 2) → exec (.recover n) s = .next s)) ∧
    (∀ x : CanSt, (∀ m, x.markDue = some m → vitalNow x = { mark := true, cycle := m, entries := [], first := true }) ∧
      (x.markDue = none → vitalNow x = { mark := false, cycle := x.vcycle, entries := (x.vqueue.drop x.vpos).take 4, first := x.vpass == 0 })) ∧
    (∀ (w : Bool) (e : CanEnd), sending s k = none → exec (.arbitration n w) s = .next s ∧ exec (.canFrameEnd n e) s = .next s) ∧
    (∀ (c : CanTx) (v : VitalTx), sending s k = some c → v = (canAt s k).vcur.getD (vitalNow (canAt s k)) →
      (∃ t, exec (.arbitration n true) s = .next t ∧ t = { s with can := t.can } ∧ canAt t k = { canAt s k with cur := some c, won := true, vcur := if c = .vital then some v else none } ∧
        ∀ j, j ≠ k → canAt t j = canAt s j) ∧
      ((∀ r, c = offerOf r → (txAt s k r).cancel = false) → ∃ t, exec (.arbitration n false) s = .next t ∧ t = { s with can := t.can } ∧
        canAt t k = { canAt s k with cur := none, won := false, vcur := none } ∧ ∀ j, j ≠ k → canAt t j = canAt s j) ∧
      (∀ r, c = offerOf r → isReq r → (txAt s k r).cancel = true → ∃ t, exec (.arbitration n false) s = .next t ∧ CanWork k [] s t ∧ txAt t k r = endedTx 6 ∧
        (∀ q, isReq q → q ≠ r → txAt t k q = txAt s k q) ∧ (canAt t k).cur = none ∧ (canAt t k).won = false ∧ t.regBit (R.CAN_EVT k) 1 = true) ∧
      (∃ t, exec (.canFrameEnd n .done) s = .next t ∧ CanWork k [R.CAN_TXCNT k] s t ∧ t.reg (R.CAN_TXCNT k) = s.reg (R.CAN_TXCNT k) + 1 ∧ (canAt t k).cur = none ∧ (canAt t k).won = false ∧
        (canAt t k).vcur = none ∧ (canAt t k).tec = (canAt s k).tec - 1 ∧ (canAt t k).st = errState (canAt s k).st ((canAt s k).tec - 1) (canAt s k).rec0 ∧
        (∀ r, c = offerOf r → isReq r → txAt t k r = endedTx (if (txAt s k r).cancel then 0x0A else 0) ∧ t.regBit (R.CAN_EVT k) 1 = true ∧ FrameLeaves n s r t) ∧
        (∀ o, c = .obj o → (objAt t k o).due = false ∧ ((canAt s k).window = .exclusive o → (canAt t k).window = .none)) ∧ (∀ r, isReq r → c ≠ offerOf r → txAt t k r = txAt s k r) ∧
        (c = .reference → (canAt t k).refDue = false ∧ (canAt t k).ttSync = true ∧ ∀ o ∈ sent s [.canFrame n
          (BitVec.ofNat 29 (s.regF (R.CAN_TTREF k) 0 11 + s.regF (R.CAN_TTCFG k) 0 3)) false false false [BitVec.ofNat 8 (canAt s k).ttCount]], o ∈ t.out) ∧
        (c = .vital → v.mark = true → (canAt t k).vpos = (canAt s k).vpos ∧ (canAt t k).markDue = (if (canAt s k).markDue = some v.cycle then none else (canAt s k).markDue) ∧ ∀ o ∈ sent s [.canFrame n
          ((s.reg (R.CAN_VMARK k)).setWidth 29) ((s.reg (R.CAN_VMARK k)).getLsbD 29) true (s.regBit (R.CAN_VCTL k) 2) (beBytes 6 v.cycle ++ beBytes 2 s.cyc.tcyc)], o ∈ t.out) ∧
        (c = .vital → v.mark = false → v.entries.length ≤ 4 →
          (∃ x, (∀ o ∈ sent s [.canFrame n ((s.reg (R.CAN_VCMD k)).setWidth 29) ((s.reg (R.CAN_VCMD k)).getLsbD 29) true (s.regBit (R.CAN_VCTL k) 2) x], o ∈ t.out) ∧
            x.length = (if v.entries.length ≤ 1 then 24 else if v.entries.length ≤ 3 then 48 else 64) ∧ x.take 6 = beBytes 6 v.cycle ∧ beAt x 6 1 = v.entries.length ∧
            ∀ j m, v.entries[j]? = some m →
              beAt x (8 + 13 * j) 3 = m.obj.toNat ∧ beAt x (11 + 13 * j) 2 = m.record.toNat ∧ beAt x (13 + 13 * j) 4 = m.code1.toNat ∧ beAt x (17 + 13 * j) 4 = m.code2.toNat) ∧
          (if (canAt s k).markDue ≠ none ∨ v.cycle ≠ (canAt s k).vcycle ∨ (canAt s k).vqueue = [] then (canAt t k).vpos = (canAt s k).vpos ∧ (canAt t k).vpass = (canAt s k).vpass
            else if (canAt s k).vqueue.length ≤ (canAt s k).vpos + v.entries.length then (canAt t k).vpos = 0 ∧ (canAt t k).vpass = (canAt s k).vpass + 1
            else (canAt t k).vpos = (canAt s k).vpos + v.entries.length ∧ (canAt t k).vpass = (canAt s k).vpass))) ∧
      ∀ (e : CanEnd) (tec : Nat), e ≠ .done → tec = (if e = .unacked ∧ (canAt s k).st = 1 then (canAt s k).tec else (canAt s k).tec + 8) → ∃ t, exec (.canFrameEnd n e) s = .next t ∧
        CanWork k [R.CAN_ERRCNT k, R.CAN_DUPCNT k, R.CAN_VLATECNT k] s t ∧
        t.reg (R.CAN_ERRCNT k) = s.reg (R.CAN_ERRCNT k) + 1 ∧ (canAt t k).cur = none ∧ (canAt t k).won = false ∧ (canAt t k).vcur = none ∧ (canAt t k).tec = tec ∧
        (canAt t k).st = (if e = .unacked ∧ (canAt s k).st = 1 then 1 else errState (canAt s k).st tec (canAt s k).rec0) ∧
        (∀ r, isReq r → txAt t k r = if c = offerOf r ∧ (txAt s k r).cancel = true then endedTx 6 else txAt s k r) ∧
        (c = .vital → v.mark = false → v.first = true → v.entries ≠ [] → ((canAt s k).markDue ≠ none ∨ v.cycle ≠ (canAt s k).vcycle ∨ (canAt s k).vqueue = []) →
          t.reg (R.CAN_VLATECNT k) = (s.bump (R.CAN_VLATECNT k) v.entries.length).reg (R.CAN_VLATECNT k) ∧ t.regBit (R.CAN_EVT k) 7 = true) ∧
        (e ≠ .duplicate → t.reg (R.CAN_DUPCNT k) = s.reg (R.CAN_DUPCNT k) ∧ (canAt t k).dup = (canAt s k).dup) ∧
        (e = .duplicate → t.reg (R.CAN_DUPCNT k) = s.reg (R.CAN_DUPCNT k) + 1 ∧
          (7 ≤ ((canAt s k).dup.filter fun u => s.cyc.timeBase ≤ u + 1000000).length → (canAt t k).dup = [] ∧ t.regBit (R.CAN_EVT k) 5 = true) ∧
          (((canAt s k).dup.filter fun u => s.cyc.timeBase ≤ u + 1000000).length < 7 →
            (canAt t k).dup = s.cyc.timeBase :: (canAt s k).dup.filter fun u => s.cyc.timeBase ≤ u + 1000000))) ∧
    (canBit s k 0 = true → (canAt s k).st ≠ 2 → 256 ≤ (canAt s k).tec → ∃ t, exec (.busOff n) s = .next t ∧ CanWork k [] s t ∧
      canAt t k = { canAt s k with st := 2, cur := none, won := false, vcur := none, recovering := canBit s k 5 } ∧ t.regBit (R.CAN_EVT k) 4 = true) ∧
    ((canBit s k 0 = false ∨ (canAt s k).st = 2 ∨ (canAt s k).tec < 256) → exec (.busOff n) s = .next s) ∧
    ((canAt s k).st = 2 → (canAt s k).recovering = true → ∃ t, exec (.busOffRecoveryEnd n) s = .next t ∧ t = { s with can := t.can } ∧
      canAt t k = { canAt s k with st := 0, tec := 0, rec0 := 0, recovering := false } ∧ ∀ j, j ≠ k → canAt t j = canAt s j) ∧
    (((canAt s k).st ≠ 2 ∨ (canAt s k).recovering = false) → exec (.busOffRecoveryEnd n) s = .next s)

/-- Reception, the windows and time-triggered operation (R327 to R329, R335, R338 to R340), whatever arrives: every frame counts and lowers the error counter, and one that ends in an error raises it and does no more; a remote frame does no more; a vital frame's entries join the inputs where it is well formed, is counted as an error where it is not, and is dropped by a module that does not act; any other enters the FIFO where a filter matches it and there is room, or the object that it matches, or that object's shadow while the window holds it locked; a reference message gives the cycle and its time, takes the place of a master of a higher PRIO, and is stored where it matches. The read of the FIFO's last word takes the frame out; the first read of the object window locks the object, and the read of its last word, or a new selection, releases it. The master's basic cycle offers the reference message before any other frame, a trigger opens its object's window, a candidate becomes master, and a lost reference ends synchronisation, each only in time-triggered operation; otherwise nothing changes. -/
def Obligations.CanFramesReachBuffersAndObjects : Prop :=
  ∀ (n : BitVec 2) (k : Nat) (s : State), ShapeOk s → RegsOk s → k = n.toNat →
    (∀ (ts : Nat) (f : CanFrame),
      (canRuns s k = false → exec (.canFrameReceived n ts (.frame f)) s = .next s) ∧
      (canRuns s k = true → ∃ t, exec (.canFrameReceived n ts (.frame f)) s = .next t ∧ CanWork k [R.CAN_RXCNT k, R.CAN_VRXERRCNT k] s t ∧ t.reg (R.CAN_RXCNT k) = s.reg (R.CAN_RXCNT k) + 1 ∧
        ((canAt s k).rec0 ≤ 127 → (canAt t k).rec0 = (canAt s k).rec0 - 1) ∧ (127 < (canAt s k).rec0 → 119 ≤ (canAt t k).rec0 ∧ (canAt t k).rec0 ≤ 127) ∧
        (canAt t k).tec = (canAt s k).tec ∧ (canAt t k).st = errState 0 (canAt s k).tec (canAt t k).rec0 ∧ (∀ r, isReq r → txAt t k r = txAt s k r) ∧
        ((f.rtr = true ∨ isVital s k f = true) → (canAt t k).fifo = (canAt s k).fifo ∧ (canAt t k).objs = (canAt s k).objs ∧ (canAt t k).ttSync = (canAt s k).ttSync ∧
          (canAt t k).ttMaster = (canAt s k).ttMaster) ∧
        (f.rtr = false → isVital s k f = true → isStandby s = false → f.fdf = true → 1 ≤ beAt f.data 6 1 → beAt f.data 6 1 ≤ 4 → 8 + 13 * beAt f.data 6 1 ≤ dlcLen f.dlc.toNat true →
          (canAt t k).vrx = ((List.range (beAt f.data 6 1)).map (canEntry k f.data)).foldl (fun l e => l.filter (fun g => g.obj != e.obj) ++ [e]) (canAt s k).vrx ∧
          t.reg (R.CAN_VRXERRCNT k) = s.reg (R.CAN_VRXERRCNT k)) ∧
        (f.rtr = false → isVital s k f = true → isStandby s = false →
          (f.fdf = false ∨ beAt f.data 6 1 = 0 ∨ 4 < beAt f.data 6 1 ∨ dlcLen f.dlc.toNat f.fdf < 8 + 13 * beAt f.data 6 1) →
          (canAt t k).vrx = (canAt s k).vrx ∧ t.reg (R.CAN_VRXERRCNT k) = s.reg (R.CAN_VRXERRCNT k) + 1) ∧
        ((f.rtr = true ∨ isVital s k f = false ∨ isStandby s = true) → (canAt t k).vrx = (canAt s k).vrx ∧ t.reg (R.CAN_VRXERRCNT k) = s.reg (R.CAN_VRXERRCNT k)) ∧
        (f.rtr = false → isVital s k f = false → canBit s k 1 = false → (canAt t k).objs = (canAt s k).objs ∧
          (((List.range 8).any fun i => s.regBit (R.FLT_ID k i) 31 && idMatches f (s.reg (R.FLT_ID k i)) (s.reg (R.FLT_MASK k i))) = false → (canAt t k).fifo = (canAt s k).fifo) ∧
          (((List.range 8).any fun i => s.regBit (R.FLT_ID k i) 31 && idMatches f (s.reg (R.FLT_ID k i)) (s.reg (R.FLT_MASK k i))) = true →
            ((canAt s k).fifo.length < 32 → t.regBit (R.CAN_EVT k) 0 = true ∧ ∃ x, (canAt t k).fifo = (canAt s k).fifo ++ [x] ∧ x.ts = BitVec.ofNat 32 ts ∧ x.frame = { f with data := x.frame.data } ∧
              x.frame.data.length = 64 ∧ x.frame.data.take (f.data.take (dlcLen f.dlc.toNat f.fdf)).length = f.data.take (dlcLen f.dlc.toNat f.fdf)) ∧
            (32 ≤ (canAt s k).fifo.length → (canAt t k).fifo = (canAt s k).fifo ∧ t.regBit (R.CAN_EVT k) 2 = true))) ∧
        (f.rtr = false → isVital s k f = false → canBit s k 1 = true → (canAt t k).fifo = (canAt s k).fifo ∧
          (matchObj s k f = none → (canAt t k).objs = (canAt s k).objs) ∧
          ∀ o, matchObj s k f = some o → t.regBit (R.CAN_EVT k) 0 = true ∧ (∀ j, j ≠ o → objAt t k j = objAt s k j) ∧
            (((canAt s k).lock = false ∨ objSel s k ≠ o) → objAt t k o = storeFrame (objAt s k o) f) ∧
            ((canAt s k).lock = true → objSel s k = o → objAt t k o = { objAt s k o with shadow := some f, ovr := (objAt s k o).ovr || (objAt s k o).shadow.isSome } ∧
              ((objAt s k o).shadow ≠ none → t.regBit (R.CAN_EVT k) 2 = true))) ∧
        (f.rtr = false → isVital s k f = false → isReference s k f = true → ((canAt s k).ttMaster = false ∨ f.id.toNat % 8 < s.regF (R.CAN_TTCFG k) 0 3) →
          (canAt t k).ttMaster = false ∧ (canAt t k).refDue = false ∧ (canAt t k).ttSync = true ∧ (canAt t k).ttCount = beAt f.data 0 1 % 64 ∧ (canAt t k).ttRef = ts) ∧
        ((isReference s k f = false ∨ ((canAt s k).ttMaster = true ∧ s.regF (R.CAN_TTCFG k) 0 3 ≤ f.id.toNat % 8)) →
          (canAt t k).ttMaster = (canAt s k).ttMaster ∧ (canAt t k).ttSync = (canAt s k).ttSync ∧ (canAt t k).ttCount = (canAt s k).ttCount ∧ (canAt t k).ttRef = (canAt s k).ttRef))) ∧
    (∀ ts e : Nat, (canRuns s k = false → exec (.canFrameReceived n ts (.error e)) s = .next s) ∧
      (canRuns s k = true → ∃ t, exec (.canFrameReceived n ts (.error e)) s = .next t ∧ CanWork k [R.CAN_ERRCNT k] s t ∧ t.reg (R.CAN_ERRCNT k) = s.reg (R.CAN_ERRCNT k) + 1 ∧
        (canAt t k).rec0 = min 255 ((canAt s k).rec0 + 1 + 8 * e) ∧ canAt t k = { canAt s k with rec0 := (canAt t k).rec0, st := errState 0 (canAt s k).tec (canAt t k).rec0 } ∧
        ((canAt s k).st = 0 → 128 ≤ (canAt t k).rec0 → t.regBit (R.CAN_EVT k) 3 = true))) ∧
    (∀ (x : ObjSt) (f : CanFrame), x.data.length = 16 → dlcLen f.dlc.toNat f.fdf ≤ f.data.length → (storeFrame x f).new = true ∧ (storeFrame x f).dlc = f.dlc ∧
      (wordBytes (storeFrame x f).data).take (dlcLen f.dlc.toNat f.fdf) = f.data.take (dlcLen f.dlc.toNat f.fdf) ∧
      (wordBytes (storeFrame x f).data).drop (dlcLen f.dlc.toNat f.fdf) = (wordBytes x.data).drop (dlcLen f.dlc.toNat f.fdf) ∧
      storeFrame x f = { x with dlc := f.dlc, new := true, data := (storeFrame x f).data }) ∧
    ((canAt s k).fifo = [] → exec (.rxfData15 n) s = .next { s with lastRead := 0 }) ∧
    (∀ x rest, (canAt s k).fifo = x :: rest → ∃ t, exec (.rxfData15 n) s = .next t ∧ t.lastRead = BitVec.ofNat 32 (leAt x.frame.data 60 4) ∧ t = { s with lastRead := t.lastRead, can := t.can } ∧
      canAt t k = { canAt s k with fifo := rest } ∧ ∀ j, j ≠ k → canAt t j = canAt s j) ∧
    (∀ w : BitVec 5, (w.toNat < 19 → ∃ t, exec (.objWindowRead n w) s = .next t ∧ t.lastRead = objWord (objAt s k (objSel s k)) w.toNat ∧ t = { s with lastRead := t.lastRead, can := t.can } ∧
      canAt t k = { canAt s k with lock := true } ∧ ∀ j, j ≠ k → canAt t j = canAt s j) ∧
      (w.toNat = 19 → exec (.objWindowRead n w) s = exec (.objData15 n) s) ∧ (19 < w.toNat → exec (.objWindowRead n w) s = .next s)) ∧
    (∃ t, exec (.objData15 n) s = .next t ∧ t.lastRead = objWord (objAt s k (objSel s k)) 19 ∧ t = { s with lastRead := t.lastRead, can := t.can } ∧
      canAt t k = { canAt s k with lock := false, objs := (canAt t k).objs } ∧ (∀ j, j ≠ objSel s k → objAt t k j = objAt s k j) ∧
      ((objAt s k (objSel s k)).shadow = none → objAt t k (objSel s k) = { objAt s k (objSel s k) with new := false, ovr := false }) ∧
      (∀ f, (objAt s k (objSel s k)).shadow = some f → objAt t k (objSel s k) = { storeFrame (objAt s k (objSel s k)) f with shadow := none }) ∧
      ∀ j, j ≠ k → canAt t j = canAt s j) ∧
    (∀ v : Word, CleanWrite s (R.CAN_OBJSEL k) v → ∃ t, exec (.objSel n v) s = .next t ∧ t.reg (R.CAN_OBJSEL k) = v ∧ RegsBut [R.CAN_OBJSEL k] s t ∧
      t = { s with regs := t.regs, can := t.can } ∧ canAt t k = { canAt s k with lock := false, objs := (canAt t k).objs } ∧ (∀ j, j ≠ objSel s k → objAt t k j = objAt s k j) ∧
      (((canAt s k).lock = false ∨ (objAt s k (objSel s k)).shadow = none) → objAt t k (objSel s k) = objAt s k (objSel s k)) ∧
      (∀ f, (canAt s k).lock = true → (objAt s k (objSel s k)).shadow = some f → objAt t k (objSel s k) = { storeFrame (objAt s k (objSel s k)) f with shadow := none }) ∧
      ∀ j, j ≠ k → canAt t j = canAt s j) ∧
    (∀ c, c = ((canAt s k).ttCount + 1) % (s.regF (R.CAN_TTCYC k) 16 6 + 1) →
      (canRuns s k = true → canTT s k = true → (canAt s k).ttMaster = true → canBit s k 4 = false → ∃ t, exec (.basicCycle n) s = .next t ∧
        canAt t k = { canAt s k with ttCount := c, refDue := true, ttRef := s.cyc.timeBase } ∧ t = { s with can := t.can } ∧ (∀ j, j ≠ k → canAt t j = canAt s j) ∧
        sending t k = (canAt s k).cur.or (some .reference)) ∧
      ((canRuns s k = false ∨ canTT s k = false ∨ (canAt s k).ttMaster = false ∨ canBit s k 4 = true) → exec (.basicCycle n) s = .next s)) ∧
    (∀ (o : BitVec 7) (x : ObjSt), x = objAt s k o.toNat →
      (canRuns s k = true → canTT s k = true → (canAt s k).ttSync = true → isSend x = true → x.tt.getLsbD 25 = true → cycleMatches x (canAt s k).ttCount = true → ∃ t,
        exec (.ttTrigger n o) s = .next t ∧ t = { s with can := t.can } ∧ objAt t k o.toNat = { x with due := true } ∧
        (∀ j, j ≠ o.toNat → objAt t k j = { objAt s k j with due := false }) ∧
        canAt t k = { canAt s k with objs := (canAt t k).objs, window := if x.tt.getLsbD 26 then .exclusive o.toNat else .arbitrating } ∧ ∀ j, j ≠ k → canAt t j = canAt s j) ∧
      ((canRuns s k = false ∨ canTT s k = false ∨ (canAt s k).ttSync = false ∨ isSend x = false ∨ x.tt.getLsbD 25 = false ∨ cycleMatches x (canAt s k).ttCount = false) →
        exec (.ttTrigger n o) s = .next s)) ∧
    (canRuns s k = true → canTT s k = true →
      (s.regBit (R.CAN_TTCFG k) 3 = true → ∃ t, exec (.ttMasterTimeout n) s = .next t ∧ t = { s with can := t.can } ∧ canAt t k = { canAt s k with ttMaster := true } ∧
        ∀ j, j ≠ k → canAt t j = canAt s j) ∧
      (s.regBit (R.CAN_TTCFG k) 3 = false → exec (.ttMasterTimeout n) s = .next s) ∧
      ∃ t, exec (.ttErr n) s = .next t ∧ CanWork k [] s t ∧ canAt t k = { canAt s k with ttSync := false, window := .none } ∧ t.regBit (R.CAN_EVT k) 6 = true) ∧
    ((canRuns s k = false ∨ canTT s k = false) → exec (.ttMasterTimeout n) s = .next s ∧ exec (.ttErr n) s = .next s)

/-! ### What waits on a boundary -/

/-- What a boundary carries out (R44, R45, R164, R173, R217, R219, R221 to R223, R226, R432), at a t0 at which nothing else happens: a request to leave STOPPED gives the level that the members support, with the settings of the snapshot that carried it, and one for STOPPED starts every lane afresh, each with CAUSE 1; without one FULL falls to REDUCED with two members and REDUCED returns to FULL with three; a LANE_RELEASE judged in the cycle before is carried out in a FULL group that has excluded no lane, and turned away otherwise; a lane taken for a direct run enters COPY with CAUSE 0xB; a verified Loam image takes effect; and a rejoin goes on by its steps: the lane leaves reset with its tests passed, or ends with RESULT 2; the copy begins; past its limit it ends with RESULT 4, and complete it makes the lane SILENT at its epoch; after three silent cycles the lane becomes MEMBER, and the level FULL, or the rejoin ends with RESULT 5. -/
def Obligations.BoundaryCarriesItsChanges : Prop :=
  (∀ l, pathCases l = true) ∧
  ∀ (a b c : Nat) (ma mb mc : LaneT0) (s : State) (n : Nat), CalmT0 a b c ma mb mc s → n = (nextCycle s).1 →
    (∀ mo k, Waits mo none [] none none s → Members k s → 2 ≤ k → ∃ t, exec (.t0 a b c ma mb mc) s = .next t ∧ t.cyc.cycle = n ∧ t.group.modeTo = none ∧ t.sieve.latch = false ∧
      (s.level = .stopped → (mo = some .full ∨ mo = some .reduced) → t.level = (if k = 3 then .full else .reduced) ∧ t.levelCause = 1 ∧
        ∀ l, (t.lanes.get l).set = { (s.snap.map (·.set)).getD Settings.reset with dbg := (s.lanes.get l).set.dbg, tcyc := t.cyc.tcyc }) ∧
      (s.level = .stopped → mo ≠ some .full → mo ≠ some .reduced → t.level = .stopped) ∧
      (s.level ≠ .stopped → mo = some .stopped → t.level = .stopped ∧ t.levelCause = 1 ∧ ∀ l, (s.lanes.get l).running = true → FreshAt s.loam (memberNo s) n l (t.lanes.get l)) ∧
      (s.level = .full → mo ≠ some .stopped → t.level = (if k = 2 then .reduced else .full) ∧ t.levelCause = if k = 2 then 3 else s.levelCause) ∧
      (s.level = .reduced → mo ≠ some .stopped → t.level = (if k = 3 then .full else .reduced) ∧ t.levelCause = if k = 3 then 4 else s.levelCause) ∧
      (s.level = .bedrock → mo ≠ some .stopped → t.level = .bedrock)) ∧
    (∀ l q k, Waits none none [(l, q)] none none s → Members k s → 2 ≤ k → ∃ t, exec (.t0 a b c ma mb mc) s = .next t ∧ t.group.release = [] ∧
      ((s.lanes.get l).st = .member → k = 3 → s.level = .full → s.sieve.excluded = 0 → (t.lanes.get l).st = .released ∧ (t.lanes.get l).cause = 7 ∧ Stopped (t.lanes.get l) ∧ t.level = .reduced ∧
        t.levelCause = 3 ∧ (opRelease, q, stDone, laneBytes t (laneNo l)) ∈ t.group.shown) ∧
      ((s.lanes.get l).st = .member → (k ≠ 3 ∨ s.level ≠ .full ∨ s.sieve.excluded ≠ 0) → (t.lanes.get l).st = .member ∧ (opRelease, q, stLevel, laneBytes t (laneNo l)) ∈ t.group.shown) ∧
      ((s.lanes.get l).st ≠ .member → (t.lanes.get l).st = (s.lanes.get l).st ∧ (opRelease, q, stDone, laneBytes t (laneNo l)) ∈ t.group.shown)) ∧
    (∀ l, Waits none none [] (some l) none s → Members 3 s → (s.lanes.get l).st = .member → ∃ t, exec (.t0 a b c ma mb mc) s = .next t ∧ (t.lanes.get l).st = .copy ∧ (t.lanes.get l).cause = 0xB ∧
      Stopped (t.lanes.get l) ∧ t.group.directLeave = none ∧ (s.level = .full → t.level = .reduced ∧ t.levelCause = 3) ∧ (s.level = .stopped → t.level = .stopped)) ∧
    (∀ m k, Waits none none [] none (some m) s → Members k s → 2 ≤ k → ∃ t, exec (.t0 a b c ma mb mc) s = .next t ∧ t.loam = some m ∧ t.loamNext = none ∧ t.cyc.loadedAt = n ∧
      ∀ l, (s.lanes.get l).running = true → FreshAt (some m) (memberNo s) n l (t.lanes.get l)) ∧
    ∀ (r : Rejoin), Waits none (some r) [] none none s → Members 2 s → s.level ≠ .full → (s.lanes.get r.lane).st ≠ .member → RegsOk s →
      (r.step = 1 → r.r + 1 = n → (s.lanes.get r.lane).st = .copy →
        (((s.lanes.get r.lane).hot = true ∨ railsHeld s r.lane = false) → ∃ t, exec (.t0 a b c ma mb mc) s = .next t ∧ t.group.rejoin = none ∧ OutFor (t.lanes.get r.lane) 9 ∧ t.level = s.level ∧
          t.regF R.LANE_RJSTAT 5 4 = 2) ∧
        ((s.lanes.get r.lane).hot = false → railsHeld s r.lane = true → (s.lanes.get r.lane).evalOff = none → ∀ fs, fs = pathFailures r.lane (ma.failed ++ mb.failed ++ mc.failed) →
          (fs = [] → ∃ t, exec (.t0 a b c ma mb mc) s = .next t ∧ t.group.rejoin = some r ∧ (t.lanes.get r.lane).st = .copy ∧ (t.lanes.get r.lane).inReset = false ∧
            (t.lanes.get r.lane).rail = false ∧ (t.lanes.get r.lane).evalOff = none) ∧
          (∀ j, fs = [j] → j < 64 → ∃ t, exec (.t0 a b c ma mb mc) s = .next t ∧ t.group.rejoin = some r ∧ (t.lanes.get r.lane).inReset = false ∧
            (t.lanes.get r.lane).evalOff = some (BitVec.ofNat 6 j)) ∧
          (2 ≤ fs.length → ∃ t, exec (.t0 a b c ma mb mc) s = .next t ∧ t.group.rejoin = none ∧ OutFor (t.lanes.get r.lane) 9 ∧ t.level = s.level ∧ t.regF R.LANE_RJSTAT 5 4 = 2))) ∧
      (r.step = 1 → r.r + 1 ≠ n → ∃ t, exec (.t0 a b c ma mb mc) s = .next t ∧ t.group.rejoin = some { r with step := 2 } ∧ t.reg R.LANE_COPYWORDS = 0 ∧ t.reg R.LANE_COPYCYC = 0 ∧
        t.regF R.LANE_RJSTAT 2 3 = 2) ∧
      (r.step = 2 → (r.r + 1 + r.limit < n - 1 ∨ (copyDone s r (n - 1) = false ∧ r.r + 1 + r.limit < n)) → (s.lanes.get r.lane).st = .copy → ∃ t, exec (.t0 a b c ma mb mc) s = .next t ∧
        t.group.rejoin = none ∧ OutFor (t.lanes.get r.lane) 9 ∧ t.level = s.level ∧ t.regF R.LANE_RJSTAT 5 4 = 4) ∧
      (r.step = 2 → copyDone s r (n - 1) = false → n ≤ r.r + 1 + r.limit → ∃ t, exec (.t0 a b c ma mb mc) s = .next t ∧ t.group.rejoin = some r ∧
        t.regF R.LANE_COPYCYC 0 12 = min 4095 (s.regF R.LANE_COPYCYC 0 12 + 1)) ∧
      (copyDone s r (n - 1) = true → n - 1 ≤ r.r + 1 + r.limit → (s.lanes.get r.lane).st = .copy → ∃ t, exec (.t0 a b c ma mb mc) s = .next t ∧
        t.group.rejoin = some { r with step := 3, k := some (n - 1) } ∧ (t.lanes.get r.lane).st = .silent ∧ (t.lanes.get r.lane).running = true ∧ (t.lanes.get r.lane).eOld = r.r ∧
        (t.lanes.get r.lane).eCur = r.r ∧ (t.lanes.get r.lane).sram = (s.lanes.get r.lane).sram ∧ (t.lanes.get r.lane).reg = (s.lanes.get r.lane).reg ∧
        (t.lanes.get r.lane).sigma = (s.lanes.get r.lane).sigma ∧ t.regF R.LANE_RJSTAT 2 3 = 3) ∧
      ∀ k, r.step = 3 → r.k = some k → (s.lanes.get r.lane).st = .silent →
        (n < k + 4 → ∃ t, exec (.t0 a b c ma mb mc) s = .next t ∧ t.group.rejoin = some r ∧ (t.lanes.get r.lane).st = .silent) ∧
        (k + 4 ≤ n → r.silOk = 3 → ∃ t, exec (.t0 a b c ma mb mc) s = .next t ∧ t.group.rejoin = none ∧ (t.lanes.get r.lane).st = .member ∧ t.regF R.LANE_RJSTAT 5 4 = 1 ∧
          t.reg R.LANE_RJCNT = (s.bump R.LANE_RJCNT 1).reg R.LANE_RJCNT ∧ (s.level = .reduced → t.level = .full ∧ t.levelCause = 4) ∧ (s.level = .stopped → t.level = .stopped)) ∧
        (k + 4 ≤ n → r.silOk ≠ 3 → ∃ t, exec (.t0 a b c ma mb mc) s = .next t ∧ t.group.rejoin = none ∧ OutFor (t.lanes.get r.lane) 9 ∧ t.level = s.level ∧ t.regF R.LANE_RJSTAT 5 4 = 5)

/-! ### What LOGIC does (R82 to R99, R108 to R136, R152, R170) -/

/-- The tables of R88 to R92 of an element whose program ends at once, and status resolution (R82): the word that a step leaves, field by field, by the stored word w, the input record, PARAM0 p, and whether the step is the element's first in the cycle. Whatever its program, a step leaves CLAIM and BLKM, and TAG of a claimable type, keeps FAULTED, leaves no more than UNPROVEN where the record it takes is missing, and never raises ASPECT nor leaves one that PARAM0 does not permit, other than 0 (R82, R84, R91); and the shadow pass, which works on transformed operands, has the same result (R184, R185). -/
def Obligations.StepsFollowTheTypeTables : Prop :=
  (∀ (c : Ctx) (m : Loam) (x : LaneSt) (i : ElemIx) (e : Elem) (w v : Info) (p : Nat) (inp : Option (BitVec 16)) (takes first miss : Bool),
    e = m.elem i → w = infoOf c x i → v = stepWord c m x i → p = paramOf m x i → takes = takesInput c.mem e → inp = stepInput c m x i → first = !x.stepped.contains i → miss = (takes && inp.isNone) →
    (e.ty = tyNone → v = 0) ∧
    (e.ty ≠ tyNone → ifld v 19 2 = ifld w 19 2 ∧ ifld v 21 1 = ifld w 21 1 ∧ (claimable e.ty = true → ifld v 11 8 = ifld w 11 8) ∧ (ifld w 22 2 = 0 → ifld v 22 2 = 0) ∧
      (miss = true → ifld v 22 2 ≤ 1) ∧ (e.ty = tySig → ifld v 7 4 ≤ ifld w 7 4 ∧ (ifld v 7 4 = 0 ∨ bitOf p (ifld v 7 4) = true))) ∧
    ((programOf m e).all ruleOk = true → shadowInv c.lane (shadowWord c m x i) = v) ∧
    (Plain m e → e.ruleLen = 0 → e.ty ≠ tyNone → e.ty ≠ tyTmr → e.ty ≠ tyKey → e.ty ≠ tySig → v = iput w 22 2 (statusAfter w (miss = true) False)) ∧
    (Plain m e → e.ruleLen ≠ 0 →
      (e.ty = tyTrk → takes = false → v = iputs w ((if ifld w 19 2 = 2 then [] else [(7, 2, 0)]) ++ [(22, 2, statusAfter w (ifld w 9 1 = 1) False)])) ∧
      (e.ty = tyTrk → miss = true → v = iputs w ([(10, 1, 0), (3, 4, 0)] ++ (if bitOf p 4 then [] else [(9, 1, 1)]) ++ (if ifld w 19 2 = 2 then [] else [(7, 2, 0)]) ++ [(22, 2, statusAfter w True False)])) ∧
      (∀ r, e.ty = tyTrk → inp = some r → r.getLsbD 0 = true → v = iputs w ([(10, 1, 0), (3, 4, 0)] ++
        (if ifld w 10 1 = 1 then (match (runningTrks c m x e).find? (fun n => ifld n.2 10 1 == 0) with | some n => [(1, 2, n.1), (0, 1, 1)] | none => [(1, 2, 0), (0, 1, 0)]) else []) ++
        (if ifld w 19 2 ≠ 2 then [(7, 2, 0)] else if ifld w 7 2 = 0 then [(7, 2, 1)] else []) ++ [(22, 2, statusAfter w (ifld w 9 1 = 1) False)])) ∧
      (∀ (r : BitVec 16) (becomes swept : Bool), e.ty = tyTrk → inp = some r → r.getLsbD 0 = false → (becomes = true ↔ ifld w 3 4 = fld p 0 4 ∧ ifld w 10 1 = 0 ∧ first = true) →
        (swept = true ↔ becomes = true ∧ ifld w 9 1 = 1 ∧ ifld w 0 1 = 1 ∧ (∃ n ∈ runningTrks c m x e, n.1 = ifld w 1 2 ∧ ifld n.2 10 1 = 1) ∧ ∃ n ∈ runningTrks c m x e, n.1 ≠ ifld w 1 2 ∧ ifld n.2 10 1 = 0) →
        ifld v 10 1 = (if becomes then 1 else ifld w 10 1) ∧ ifld v 9 1 = (if swept then 0 else ifld w 9 1) ∧
        ifld v 7 2 = (if ifld w 19 2 ≠ 2 then 0 else if becomes ∧ ifld w 7 2 = 1 then 2 else ifld w 7 2) ∧
        ifld v 3 4 = (if ifld w 3 4 < fld p 0 4 ∧ first = true then ifld w 3 4 + 1 else ifld w 3 4) ∧ ifld v 0 3 = ifld w 0 3 ∧
        ifld v 22 2 = statusAfter w (ifld w 9 1 = 1 ∧ swept = false) False) ∧
      (∀ det cmd mv, e.ty = tyPnt → det = ((inp.map fun r => fld r.toNat 0 2).getD (ifld w 9 2)) → cmd = (if ifld w 7 2 = 0 ∧ (det = 1 ∨ det = 2) then det else ifld w 7 2) →
        mv = (if det = cmd ∧ cmd ≠ 0 then 0 else if det ≠ cmd ∧ first = true ∧ c.cycle % 2 ^ fld p 7 3 = 0 then min (ifld w 0 7 + 1) 127 else ifld w 0 7) →
        v = iputs w [(9, 2, det), (7, 2, cmd), (0, 7, mv), (22, 2, statusAfter w (miss = true ∨ (takes = true ∧ cmd = 0 ∧ det = 0) ∨ det ≠ cmd) (det = 3 ∨ fld p 0 7 ≤ mv))]) ∧
      (∀ (lit asp mism : Nat) (bad : Bool), e.ty = tySig → lit = (if takes then (inp.map fun r => fld r.toNat 0 4).getD 15 else ifld w 3 4) → asp = (if ifld w 2 1 = 1 then 0 else ifld w 7 4) →
        mism = (if takes = false then ifld w 0 2 else if lit = asp then 0 else if first then min (ifld w 0 2 + 1) 3 else ifld w 0 2) → (bad = true ↔ takes = true ∧ lit ≠ asp ∧ mism = 3) →
        v = iputs w [(3, 4, lit), (2, 1, 0), (0, 2, mism), (7, 4, if bad = true ∨ bitOf p asp = false then 0 else asp),
          (22, 2, statusAfter w (miss = true) (bad = true ∨ bitOf p (if bad then 0 else asp) = false))]) ∧
      (∀ det lckd cmd mv, e.ty = tyXng → det = ((inp.map fun r => fld r.toNat 0 2).getD (ifld w 9 2)) → lckd = ((inp.map fun r => fld r.toNat 2 1).getD (ifld w 6 1)) →
        cmd = (if ifld w 7 2 = 0 ∧ (det = 1 ∨ det = 2) then det else ifld w 7 2) →
        mv = (if det = cmd ∧ lckd = ifld w 5 1 then 0 else if takes = true ∧ first = true ∧ c.cycle % 2 ^ fld p 5 3 = 0 then min (ifld w 0 5 + 1) 31 else ifld w 0 5) →
        v = iputs w [(9, 2, det), (6, 1, lckd), (7, 2, cmd), (0, 5, mv),
          (22, 2, statusAfter w (miss = true ∨ takes = true ∧ (cmd = 0 ∧ det = 0 ∨ det ≠ cmd ∨ lckd ≠ ifld w 5 1))
            (det = 3 ∨ (lckd = 1 ∧ det ≠ ifld w 7 2) ∨ (takes = true ∧ (det ≠ cmd ∨ lckd ≠ ifld w 5 1) ∧ fld p 0 5 ≤ mv)))]) ∧
      (∀ clp, e.ty = tyDor → clp = ((inp.map fun r => fld r.toNat 0 1).getD (ifld w 15 1)) → v = iputs w [(15, 1, clp), (22, 2, statusAfter w (miss = true ∨ (clp = 0 ∧ ifld w 18 1 = 0)) False)]) ∧
      ((e.ty = tyRte ∨ e.ty = tyOvl ∨ e.ty = tyFlk ∨ e.ty = tyLat) → v = iput w 22 2 (statusAfter w (miss = true) False))) ∧
    (∀ d, Plain m e → e.ty = tyTmr → d = (if bitOf p 17 then b2n c.newTick else x.set.tcyc) → v = iputs w ((if first = true ∧ ifld w 17 2 = 1 ∧ i ∉ x.timers then
      (if d < ifld w 0 17 then [(0, 17, ifld w 0 17 - d)] else [(0, 17, 0), (17, 2, 2)]) else []) ++ [(22, 2, statusAfter w (miss = true) False)])) ∧
    (∀ (lost : Bool), Plain m e → e.ty = tyKey → (lost = true ↔ e.ruleLen ≠ 0 ∧ ifld w 15 1 = 0 ∧ ∃ r, inp = some r ∧ r.getLsbD 1 = false) →
      v = iputs w ((if first then [(17, 1, ifld w 18 1), (13, 1, ifld w 16 1), (18, 1, (inp.map fun r => fld r.toNat 0 1).getD 0), (16, 1, b2n (inp.isSome && !x.vioCf))] else []) ++
        (if lost then [(14, 1, 1)] else []) ++ [(22, 2, statusAfter w (miss = true) (lost = true))])))

/-- What a wave does in one step (R108 to R126), and what the items of the route map do (R112, R125 to R137), where no word fails its check. A retreating wave gives back its last claim, and with the last one is PAUSED for a retry or ends; a LOCKING wave commits one entry, and with the last one the route stands with RSTATE 3 and ROUTE_SET is ACCEPTED, or a pending cancel releases it; a searching wave meets the conditions of R116 in their order, reserves, claims flanks, arrives and takes the overlap. A route's item makes the one transition that its state allows: points set, flanks proven, the signal cleared with its highest aspect, the train's passage, the releases by sequence, by time and by emergency, the fall of the signal; an orphan is cleared, a lost proof restores the signal of its route, and an overlap is timed and released. -/
def Obligations.WavesAndRouteItemsFollowTheirRules : Prop :=
  (∀ (c : Ctx) (m : Loam) (x y : LaneSt) (w : Wave), CtlReady c m x → waveOf x w.num.toNat = some w → w.rte < m.elems.length → y = waveStep c m x w →
    y.cx = none ∧ StageWork x y ∧ (w.st = .paused → y = x) ∧
    (∀ e t, w.st = .retreating → w.trail = t ++ [e] → e.elem < m.elems.length → e.elem ≠ w.rte → ∀ fs, fs = (if e.shared = true ∧ 1 < tagOf c x e.elem then [(11, 8, tagOf c x e.elem - 1)] else [(19, 2, 0), (11, 8, 0)]) →
      (t ≠ [] → (w.retreat = .retry ∨ ∃ f, w.retreat = .ending f) → Puts c e.elem fs x y ∧ WaveBecomes { w with trail := t } x y) ∧
      (t = [] → w.retreat = .retry → Puts c e.elem fs x y ∧ WaveBecomes { w with trail := [], st := .paused, flanks := [] } x y) ∧
      ∀ f, t = [] → w.retreat = .ending f → sramInfo c.lane y.sram e.elem = iputs (infoOf c x e.elem) fs ∧
        sramInfo c.lane y.sram w.rte = iputs (infoOf c x w.rte) [(7, 4, 0), (11, 8, 0), (3, 4, f.toNat), (2, 1, 0)] ∧ (∀ k, k ≠ e.elem → k ≠ w.rte → sramWord c.lane y.sram k = sramWord c.lane x.sram k) ∧
        WaveEnds c w (if f = 6 then stTimeout else if f = 7 then stCancelled else stConflict) x y ∧ y.rpt.unsetCnt = x.rpt.unsetCnt + 1 ∧ 80 ∈ y.rpt.sources) ∧
    (∀ e, w.st = .locking → w.trail[w.committed]? = some e → e.elem < m.elems.length → e.elem ≠ w.rte → ∀ (ty : Nat) (fs : List (Nat × Nat × Nat)), ty = (m.elem e.elem).ty →
      fs = (if e.role = .flank then [(19, 2, 3), (11, 8, 1)] ++ (if ty = tyPnt then [(7, 2, e.pos.toNat), (0, 7, 0)] else if ty = tyFlk then [(9, 1, 1)] else [])
        else if e.role = .ovl then [(19, 2, 2), (11, 8, e.exit.toNat), (9, 2, 1), (8, 1, if e.exit = 2 then 1 else 0)]
        else [(19, 2, 2), (11, 8, e.exit.toNat)] ++ (if ty = tyPnt then [(7, 2, e.pos.toNat), (0, 7, 0)] else if ty = tyXng ∧ (m.elem e.elem).field = true then [(7, 2, e.pos.toNat), (0, 5, 0), (5, 1, 1)] else [])) →
      (w.committed + 1 < w.trail.length → (if e.shared then y.sram = x.sram else Puts c e.elem fs x y) ∧ WaveBecomes { w with committed := w.committed + 1 } x y) ∧
      (w.committed + 1 = w.trail.length → w.cancel = false → sramInfo c.lane y.sram e.elem = (if e.shared then infoOf c x e.elem else iputs (infoOf c x e.elem) fs) ∧
        sramInfo c.lane y.sram w.rte = iputs (infoOf c x w.rte) [(7, 4, 3), (11, 8, 0)] ∧ (∀ k, k ≠ e.elem → k ≠ w.rte → sramWord c.lane y.sram k = sramWord c.lane x.sram k) ∧
        WaveEnds c w stAccepted x y ∧ y.rpt.lockCnt = x.rpt.lockCnt + 1) ∧
      (w.committed + 1 = w.trail.length → w.cancel = true → ifld (sramInfo c.lane y.sram w.rte) 7 4 = 0 ∧ ifld (sramInfo c.lane y.sram w.rte) 3 4 = 7 ∧ WaveEnds c w stCancelled x y ∧ 80 ∈ y.rpt.sources ∧ 83 ∈ y.rpt.sources)) ∧
    (∀ leg more, Examines c m x w leg more → ∀ (ty : Nat) (v : Wave), ty = (m.elem w.here).ty → v = { w with fwd := w.fwd + 1 } →
      (claimOf c x w.here = 0 → wfld c x w.here 21 1 = 0 → 2 ≤ statusOf c x w.here → (ty = tyTrk → clearOf c x w.here = true) → (ty = tySig → wfld c x w.here 7 4 = 0 ∧ wfld c x w.here 3 4 = 0) →
        ∀ fl, (if ty = tyPnt then demandOf m w.here leg.2 else some []) = some fl → Puts c w.here [(19, 2, 1), (11, 8, w.num.toNat)] x y ∧ ∃ e : TrailEntry, e.elem = w.here ∧ e.exit = BitVec.ofNat 2 leg.1 ∧
          e.pos = BitVec.ofNat 2 leg.2 ∧ e.role = .path ∧ e.shared = false ∧ e.untried = more.head?.map (fun g => BitVec.ofNat 2 g.1) ∧ 
            WaveBecomes { goOn m v w.here leg.1 with trail := w.trail ++ [e], stepNo := w.stepNo + 1, flanks := fl.map fun k => (k.1, BitVec.ofNat 2 k.2) } x y) ∧
      (∀ o, claimOf c x w.here = 1 → waveOf x (tagOf c x w.here) = some o → o.num ≠ w.num →
        (o.st = .retreating → y.sram = x.sram ∧ WaveBecomes w x y) ∧
        (o.st = .searching → older w o = true → o.trail ≠ [] → y.sram = x.sram ∧ waveOf y w.num.toNat = some w ∧ waveOf y o.num.toNat = some { o with st := .retreating, retreat := .retry, flanks := [] } ∧
          y.rpt.retCnt = x.rpt.retCnt + 1) ∧
        (o.st = .searching → older w o = false → TurnsBack v .retry x y)) ∧
      ∀ (f : BitVec 4) (u : Wave), u = (if w.fail = 0 then { v with fail := f, failElem := some w.here } else v) →
        (f = 1 ∧ (2 ≤ claimOf c x w.here ∨ ∃ o, claimOf c x w.here = 1 ∧ waveOf x (tagOf c x w.here) = some o ∧ o.st = .locking) ∨
          claimOf c x w.here = 0 ∧ wfld c x w.here 21 1 = 0 ∧ (statusOf c x w.here = 1 ∧ f = (if ty = tyTrk then 2 else if ty = tyPnt ∨ ty = tyXng then 3 else 1) ∨
            2 ≤ statusOf c x w.here ∧ ty = tyTrk ∧ clearOf c x w.here = false ∧ f = 2 ∨ 2 ≤ statusOf c x w.here ∧ ty = tySig ∧ (wfld c x w.here 7 4 ≠ 0 ∨ wfld c x w.here 3 4 ≠ 0) ∧ f = 1) →
          TurnsBack u (if w.wait then .retry else .ending u.fail) x y) ∧
        (claimOf c x w.here = 0 → (wfld c x w.here 21 1 = 1 ∧ f = 1 ∨ wfld c x w.here 21 1 = 0 ∧ statusOf c x w.here = 0 ∧ f = (if ty = tyTrk then 2 else if ty = tyPnt ∨ ty = tyXng then 3 else 1)) →
          ((∀ e ∈ w.trail, e.untried = none) → TurnsBack u (.ending u.fail) x y) ∧
          ((∃ e ∈ w.trail, e.untried ≠ none) → (∀ e, w.trail.getLast? = some e → e.untried = none) → TurnsBack u .backtrack x y))) ∧
    (∀ i p rest, w.st = .searching → w.flanks = (i, p) :: rest → (∀ e ∈ w.trail, e.elem ≠ i) → w.trail.length < 1024 → i < m.elems.length →
      (claimOf c x i = 3 → tagOf c x i < 255 → Puts c i [(11, 8, tagOf c x i + 1)] x y ∧ 
        WaveBecomes { w with flanks := rest, trail := w.trail ++ [{ elem := i, exit := 0, pos := p, role := .flank, shared := true, inPort := 0, untried := none }] } x y) ∧
      (claimOf c x i = 0 → wfld c x i 21 1 = 0 → 2 ≤ statusOf c x i → (m.elem i).ty = tyPnt ∨ (m.elem i).ty = tyFlk → Puts c i [(19, 2, 1), (11, 8, w.num.toNat)] x y ∧ 
        WaveBecomes { w with flanks := rest, trail := w.trail ++ [{ elem := i, exit := 0, pos := p, role := .flank, shared := false, inPort := 0, untried := none }] } x y)) ∧
    (w.st = .searching → w.flanks = [] → w.part = .path → (rowOf m x w.rte).kind = 1 → w.trail ≠ [] → w.here = (rowOf m x w.rte).exit → w.inPort = 0 →
      ((rowOf m x w.rte).overlap = none → Puts c w.rte [(7, 4, 2)] x y ∧ WaveBecomes { w with st := .locking, committed := 0, flanks := [] } x y) ∧
      ((rowOf m x w.rte).overlap ≠ none → portOk m (rowOf m x w.rte).exit 1 (some !w.dirUp) = true → y.sram = x.sram ∧
        WaveBecomes { goOn m w (rowOf m x w.rte).exit 1 with part := .overlap false } x y)) ∧
    (∀ a o, w.st = .searching → w.flanks = [] → w.part = .ovl a → (rowOf m x w.rte).overlap = some o → o < m.elems.length → o ≠ w.rte → w.trail.length < 1024 → (∀ e ∈ w.trail, e.elem ≠ o) →
      claimOf c x o = 0 → wfld c x o 21 1 = 0 → 2 ≤ statusOf c x o → (m.elem o).ty = tyOvl → sramInfo c.lane y.sram o = iputs (infoOf c x o) [(19, 2, 1), (11, 8, w.num.toNat)] ∧
        sramInfo c.lane y.sram w.rte = iputs (infoOf c x w.rte) [(7, 4, 2)] ∧ 
          WaveBecomes { w with st := .locking, committed := 0, flanks := [], trail := w.trail ++ [{ elem := o, exit := if a then 2 else 1, pos := 0, role := .ovl, shared := false, inPort := 0, untried := none }] } x y) ∧
    (∀ st, w.st = .searching → w.flanks = [] → w.part = .path → (rowOf m x w.rte).kind ≠ 1 → w.stepNo < (rowOf m x w.rte).pathLen → pathStep m (rowOf m x w.rte) w.stepNo = some st → st.elem ≠ w.here → w.trail ≠ [] →
      88 ∈ y.rpt.sources ∧ ∀ u, u = (if w.fail = 0 then { w with fail := 1, failElem := some w.here } else w) → TurnsBack u (.ending u.fail) x y)) ∧
  (∀ (c : Ctx) (m : Loam) (x y z : LaneSt) (i e : ElemIx) (path ovl : List ElemIx) (w : Info), CtlReady c m x → i < m.elems.length → y = handleItem c m x i → z = visit c m x i → w = infoOf c x i →
    z = x.took 1 ∧ y.cx = none ∧ StageWork x y ∧
    ((m.elem i).ty = tyRte → e = (rowOf m x i).entry → (m.elem e).ty = tySig → e < m.elems.length → (path, ovl) = (routeChains c m z i).2 →
      ((rstateOf c x i < 3 ∨ 9 < rstateOf c x i ∨ (rstateOf c x i = 5 ∧ wfld c x i 2 1 = 1)) → y = z) ∧
      (rstateOf c x i = 3 → if ∀ k ∈ path ++ ovl, (m.elem k).field = true → ((m.elem k).ty = tyPnt ∨ (m.elem k).ty = tyXng) → detOf c x k = cmdOf c x k ∧ 2 ≤ statusOf c x k ∧
          ((m.elem k).ty = tyXng → wfld c x k 6 1 = wfld c x k 5 1) then Puts c i [(7, 4, 4)] x y else y.sram = x.sram) ∧
      (rstateOf c x i = 4 → ∀ ds, ds = demandedGroups c m x (path ++ ovl) → if ∀ d ∈ ds, ∀ k ∈ demandClaims m d.1 d.2, ((m.elem k.1).ty = tyPnt → detOf c x k.1 = k.2 ∧ 2 ≤ statusOf c x k.1) ∧
          ((m.elem k.1).ty = tySig → wfld c x k.1 3 4 = 0 ∧ wfld c x k.1 7 4 = 0)
        then sramInfo c.lane y.sram i = iput w 7 4 5 ∧ (∀ d ∈ ds, ∀ g ∈ d.2, sramInfo c.lane y.sram g = iput (infoOf c x g) 10 1 1) ∧
          ∀ k, k ≠ i → (∀ d ∈ ds, k ∉ d.2) → sramWord c.lane y.sram k = sramWord c.lane x.sram k else y.sram = x.sram) ∧
      (rstateOf c x i = 5 → wfld c x i 2 1 = 0 → if pathIntact c m x i path = none ∧ overlapIntact c m x i ovl = none ∧ (∀ k ∈ path ++ ovl, 2 ≤ statusOf c x k ∧ ((m.elem k).ty = tyTrk → clearOf c x k = true)) ∧
          (∀ d ∈ demandedGroups c m x (path ++ ovl), ∀ g ∈ d.2, wfld c x g 10 1 = 1)
        then sramInfo c.lane y.sram i = iputs w [(2, 1, 1), (7, 4, 6)] ∧ sramInfo c.lane y.sram e = iput (infoOf c x e) 7 4 (topAspect (paramOf m x e)) ∧ 81 ∈ y.rpt.sources ∧
          (∀ k ∈ path ++ ovl, (m.elem k).ty = tyTrk → sramInfo c.lane y.sram k = iput (infoOf c x k) 7 2 0) ∧
          ∀ k, k ≠ i → k ≠ e → (k ∈ path ++ ovl → (m.elem k).ty ≠ tyTrk) → sramWord c.lane y.sram k = sramWord c.lane x.sram k
        else y.sram = x.sram) ∧
      (rstateOf c x i = 6 → if ∃ k, firstTrk m path = some k ∧ seqOf c x k = 1 then sramInfo c.lane y.sram i = iput w 7 4 7 ∧ sramInfo c.lane y.sram e = iput (infoOf c x e) 2 1 1 ∧
          ∀ k, k ≠ i → k ≠ e → sramWord c.lane y.sram k = sramWord c.lane x.sram k
        else if wfld c x e 7 4 = 0 then Puts c i [(7, 4, 5)] x y ∧ 82 ∈ y.rpt.sources else y.sram = x.sram) ∧
      (rstateOf c x i = 7 → (∀ k, firstTrk m path = some k → seqOf c x k = 2 → clearOf c x k = true → ifld (sramInfo c.lane y.sram i) 7 4 = 0 ∧ 83 ∈ y.rpt.sources ∧
          ∀ j ∈ path.takeWhile (· != k) ++ [k], ifld (sramInfo c.lane y.sram j) 19 2 = 0 ∧ ifld (sramInfo c.lane y.sram j) 11 8 = 0) ∧
        ((∀ k, firstTrk m path = some k → seqOf c x k ≠ 2 ∨ clearOf c x k = false) → y.sram = x.sram)) ∧
      (∀ passed, rstateOf c x i = 8 → (passed ↔ ∃ k, firstTrk m path = some k ∧ seqOf c x k = 1) → (passed → ifld (sramInfo c.lane y.sram i) 7 4 = 7 ∧
            (∀ k, timerOf m i = some k → sramInfo c.lane y.sram k = iputs (infoOf c x k) [(17, 2, 0), (0, 17, 0)]) ∧ ∀ k, k ≠ i → timerOf m i ≠ some k → sramWord c.lane y.sram k = sramWord c.lane x.sram k) ∧
        (¬passed → (∀ k, timerOf m i = some k → wfld c x k 17 2 = 2) → wfld c x e 3 4 = 0 → ifld (sramInfo c.lane y.sram i) 7 4 = 0 ∧ 83 ∈ y.rpt.sources ∧ ∀ k ∈ path, ifld (sramInfo c.lane y.sram k) 19 2 = 0) ∧
        (¬passed → ((∃ k, timerOf m i = some k ∧ wfld c x k 17 2 ≠ 2) ∨ wfld c x e 3 4 ≠ 0) → y.sram = x.sram)) ∧
      (rstateOf c x i = 9 → ((∀ k, timerOf m i = some k → wfld c x k 17 2 = 2) → wfld c x e 3 4 = 0 → ifld (sramInfo c.lane y.sram i) 7 4 = 0 ∧ 83 ∈ y.rpt.sources ∧ 87 ∈ y.rpt.sources ∧
          ∀ k ∈ path, ifld (sramInfo c.lane y.sram k) 19 2 = 0) ∧
        (((∃ k, timerOf m i = some k ∧ wfld c x k 17 2 ≠ 2) ∨ wfld c x e 3 4 ≠ 0) → y.sram = x.sram))) ∧
    ((m.elem i).ty = tyTrk → claimOf c x i = 1 → waveOf x (tagOf c x i) = none → Puts c i [(19, 2, 0), (11, 8, 0)] x y ∧ y.rpt.orphCnt = x.rpt.orphCnt + 1 ∧ 85 ∈ y.rpt.sources) ∧
    ((m.elem i).ty = tyTrk → claimOf c x i = 2 → clearOf c x i = false → ∀ h, h = (headFrom c m z i).2 → isEntry c m x h = true → if wfld c x h 7 4 ≠ 0 then Puts c h [(2, 1, 1)] x y else y.sram = x.sram) ∧
    ((m.elem i).ty = tyTrk → claimOf c x i = 2 → 2 ≤ statusOf c x i → clearOf c x i = true → seqOf c x i ≠ 2 → y = z) ∧
    (((m.elem i).ty = tyPnt ∨ (m.elem i).ty = tySig) → claimOf c x i = 3 → statusOf c x i ≤ 1 → ∀ g ∈ groupsOf m i, ifld (sramInfo c.lane y.sram g) 10 1 = 0) ∧
    ∀ sig, (m.elem i).ty = tyOvl → claimOf c x i = 2 → 2 ≤ statusOf c x i → nbrPresent ((m.elem i).port 0) = true → sig = nbrIx ((m.elem i).port 0) → overlapHead c m x sig ≠ none →
      (∀ t k, wfld c x i 9 2 = 1 → nbrPresent ((m.elem sig).port 0) = true → k = nbrIx ((m.elem sig).port 0) → (m.elem k).ty = tyTrk → claimOf c x k = 2 → timerOf m i = some t →
        if seqOf c x k = 1 then sramInfo c.lane y.sram i = iput w 9 2 2 ∧ sramInfo c.lane y.sram t = iputs (infoOf c x t) [(17, 2, 1), (0, 17, fld (paramOf m x t) 0 17)] ∧ t ∈ y.timers ∧
          ∀ j, j ≠ i → j ≠ t → sramWord c.lane y.sram j = sramWord c.lane x.sram j
        else y.sram = x.sram) ∧
      (wfld c x i 9 2 = 2 → ∀ h, overlapHead c m x sig = some h → (∀ t, timerOf m i = some t → wfld c x t 17 2 = 2) → (∀ k ∈ (chainFrom c m z h).2, (m.elem k).ty = tyTrk → clearOf c x k = true) →
        ifld (sramInfo c.lane y.sram i) 9 2 = 0 ∧ ifld (sramInfo c.lane y.sram i) 19 2 = 0 ∧ ∀ k ∈ (chainFrom c m z h).2, ifld (sramInfo c.lane y.sram k) 19 2 = 0) ∧
      (wfld c x i 9 2 = 2 → ∀ t, timerOf m i = some t → wfld c x t 17 2 ≠ 2 → y.sram = x.sram)) ∧
  ∀ (c : Ctx) (m : Loam) (x y : LaneSt), y = startPasses c m x → (∀ w ∈ x.reg.waves, w.st = .locking ∨ (w.st = .retreating ∧ ∃ f, w.retreat = .ending f) ∨ c.cycle - w.accepted < x.set.wavelife) →
    y = { x with reg := { x.reg with waves := y.reg.waves } } ∧ y.reg.waves.length = x.reg.waves.length ∧ ∀ (k : Nat) (w : Wave), x.reg.waves[k]? = some w →
      ∃ v : Wave, y.reg.waves[k]? = some v ∧ (w.st ≠ .paused → v = w) ∧
        (w.st = .paused → v.st = .searching ∧ v.trail = [] ∧ v.here = (rowOf m x w.rte).entry ∧ v.fwd = 0 ∧ v.fail = 0 ∧ v.num = w.num ∧ v.age = w.age ∧ v.rte = w.rte ∧ v.accepted = w.accepted ∧ v.req = w.req)
end

