-- ==== Sys2Proof/Laws/State.lean ====
section
/-! SUPPORT. The state's fields after each named update of Ops: one lemma per field an update leaves alone, and what it does to the field it changes. -/

namespace Sys2Proof.Machine

variable (s : State)

/-! ### setReg -/

@[simp] theorem State.setReg_power (off : Nat) (w : Word) : (s.setReg off w).power = s.power := rfl
@[simp] theorem State.setReg_bu (off : Nat) (w : Word) : (s.setReg off w).bu = s.bu := rfl
@[simp] theorem State.setReg_stored (off : Nat) (w : Word) : (s.setReg off w).stored = s.stored := rfl
@[simp] theorem State.setReg_rdShadow (off : Nat) (w : Word) : (s.setReg off w).rdShadow = s.rdShadow := rfl
@[simp] theorem State.setReg_wrShadow (off : Nat) (w : Word) : (s.setReg off w).wrShadow = s.wrShadow := rfl
@[simp] theorem State.setReg_posted (off : Nat) (w : Word) : (s.setReg off w).posted = s.posted := rfl
@[simp] theorem State.setReg_lastRead (off : Nat) (w : Word) : (s.setReg off w).lastRead = s.lastRead := rfl
@[simp] theorem State.setReg_lastLow (off : Nat) (w : Word) : (s.setReg off w).lastLow = s.lastLow := rfl
@[simp] theorem State.setReg_level (off : Nat) (w : Word) : (s.setReg off w).level = s.level := rfl
@[simp] theorem State.setReg_prevLevel (off : Nat) (w : Word) : (s.setReg off w).prevLevel = s.prevLevel := rfl
@[simp] theorem State.setReg_levelCause (off : Nat) (w : Word) : (s.setReg off w).levelCause = s.levelCause := rfl
@[simp] theorem State.setReg_group (off : Nat) (w : Word) : (s.setReg off w).group = s.group := rfl
@[simp] theorem State.setReg_lanes (off : Nat) (w : Word) : (s.setReg off w).lanes = s.lanes := rfl
@[simp] theorem State.setReg_sieve (off : Nat) (w : Word) : (s.setReg off w).sieve = s.sieve := rfl
@[simp] theorem State.setReg_chans (off : Nat) (w : Word) : (s.setReg off w).chans = s.chans := rfl
@[simp] theorem State.setReg_cyc (off : Nat) (w : Word) : (s.setReg off w).cyc = s.cyc := rfl
@[simp] theorem State.setReg_snap (off : Nat) (w : Word) : (s.setReg off w).snap = s.snap := rfl
@[simp] theorem State.setReg_loam (off : Nat) (w : Word) : (s.setReg off w).loam = s.loam := rfl
@[simp] theorem State.setReg_loamNext (off : Nat) (w : Word) : (s.setReg off w).loamNext = s.loamNext := rfl
@[simp] theorem State.setReg_hif (off : Nat) (w : Word) : (s.setReg off w).hif = s.hif := rfl
@[simp] theorem State.setReg_evg (off : Nat) (w : Word) : (s.setReg off w).evg = s.evg := rfl
@[simp] theorem State.setReg_fsn (off : Nat) (w : Word) : (s.setReg off w).fsn = s.fsn := rfl
@[simp] theorem State.setReg_frn (off : Nat) (w : Word) : (s.setReg off w).frn = s.frn := rfl
@[simp] theorem State.setReg_can (off : Nat) (w : Word) : (s.setReg off w).can = s.can := rfl
@[simp] theorem State.setReg_sby (off : Nat) (w : Word) : (s.setReg off w).sby = s.sby := rfl
@[simp] theorem State.setReg_vio (off : Nat) (w : Word) : (s.setReg off w).vio = s.vio := rfl
@[simp] theorem State.setReg_chk (off : Nat) (w : Word) : (s.setReg off w).chk = s.chk := rfl
@[simp] theorem State.setReg_shale (off : Nat) (w : Word) : (s.setReg off w).shale = s.shale := rfl
@[simp] theorem State.setReg_upd (off : Nat) (w : Word) : (s.setReg off w).upd = s.upd := rfl
@[simp] theorem State.setReg_kiln (off : Nat) (w : Word) : (s.setReg off w).kiln = s.kiln := rfl
@[simp] theorem State.setReg_dbg (off : Nat) (w : Word) : (s.setReg off w).dbg = s.dbg := rfl
@[simp] theorem State.setReg_jtag (off : Nat) (w : Word) : (s.setReg off w).jtag = s.jtag := rfl
@[simp] theorem State.setReg_out (off : Nat) (w : Word) : (s.setReg off w).out = s.out := rfl
@[simp] theorem State.setReg_free (off : Nat) (w : Word) : (s.setReg off w).free = s.free := rfl
@[simp] theorem State.setReg_pending (off : Nat) (w : Word) : (s.setReg off w).pending = s.pending := rfl

/-! ### emit -/

@[simp] theorem State.emit_power (o : Output) : (s.emit o).power = s.power := rfl
@[simp] theorem State.emit_bu (o : Output) : (s.emit o).bu = s.bu := rfl
@[simp] theorem State.emit_stored (o : Output) : (s.emit o).stored = s.stored := rfl
@[simp] theorem State.emit_regs (o : Output) : (s.emit o).regs = s.regs := rfl
@[simp] theorem State.emit_rdShadow (o : Output) : (s.emit o).rdShadow = s.rdShadow := rfl
@[simp] theorem State.emit_wrShadow (o : Output) : (s.emit o).wrShadow = s.wrShadow := rfl
@[simp] theorem State.emit_posted (o : Output) : (s.emit o).posted = s.posted := rfl
@[simp] theorem State.emit_lastRead (o : Output) : (s.emit o).lastRead = s.lastRead := rfl
@[simp] theorem State.emit_lastLow (o : Output) : (s.emit o).lastLow = s.lastLow := rfl
@[simp] theorem State.emit_level (o : Output) : (s.emit o).level = s.level := rfl
@[simp] theorem State.emit_prevLevel (o : Output) : (s.emit o).prevLevel = s.prevLevel := rfl
@[simp] theorem State.emit_levelCause (o : Output) : (s.emit o).levelCause = s.levelCause := rfl
@[simp] theorem State.emit_group (o : Output) : (s.emit o).group = s.group := rfl
@[simp] theorem State.emit_lanes (o : Output) : (s.emit o).lanes = s.lanes := rfl
@[simp] theorem State.emit_sieve (o : Output) : (s.emit o).sieve = s.sieve := rfl
@[simp] theorem State.emit_chans (o : Output) : (s.emit o).chans = s.chans := rfl
@[simp] theorem State.emit_cyc (o : Output) : (s.emit o).cyc = s.cyc := rfl
@[simp] theorem State.emit_snap (o : Output) : (s.emit o).snap = s.snap := rfl
@[simp] theorem State.emit_loam (o : Output) : (s.emit o).loam = s.loam := rfl
@[simp] theorem State.emit_loamNext (o : Output) : (s.emit o).loamNext = s.loamNext := rfl
@[simp] theorem State.emit_hif (o : Output) : (s.emit o).hif = s.hif := rfl
@[simp] theorem State.emit_evg (o : Output) : (s.emit o).evg = s.evg := rfl
@[simp] theorem State.emit_fsn (o : Output) : (s.emit o).fsn = s.fsn := rfl
@[simp] theorem State.emit_frn (o : Output) : (s.emit o).frn = s.frn := rfl
@[simp] theorem State.emit_can (o : Output) : (s.emit o).can = s.can := rfl
@[simp] theorem State.emit_sby (o : Output) : (s.emit o).sby = s.sby := rfl
@[simp] theorem State.emit_vio (o : Output) : (s.emit o).vio = s.vio := rfl
@[simp] theorem State.emit_chk (o : Output) : (s.emit o).chk = s.chk := rfl
@[simp] theorem State.emit_shale (o : Output) : (s.emit o).shale = s.shale := rfl
@[simp] theorem State.emit_upd (o : Output) : (s.emit o).upd = s.upd := rfl
@[simp] theorem State.emit_kiln (o : Output) : (s.emit o).kiln = s.kiln := rfl
@[simp] theorem State.emit_dbg (o : Output) : (s.emit o).dbg = s.dbg := rfl
@[simp] theorem State.emit_jtag (o : Output) : (s.emit o).jtag = s.jtag := rfl
@[simp] theorem State.emit_free (o : Output) : (s.emit o).free = s.free := rfl
@[simp] theorem State.emit_pending (o : Output) : (s.emit o).pending = s.pending := rfl

/-! ### drawn -/

@[simp] theorem State.drawn_power : (s.drawn).power = s.power := rfl
@[simp] theorem State.drawn_bu : (s.drawn).bu = s.bu := rfl
@[simp] theorem State.drawn_stored : (s.drawn).stored = s.stored := rfl
@[simp] theorem State.drawn_regs : (s.drawn).regs = s.regs := rfl
@[simp] theorem State.drawn_rdShadow : (s.drawn).rdShadow = s.rdShadow := rfl
@[simp] theorem State.drawn_wrShadow : (s.drawn).wrShadow = s.wrShadow := rfl
@[simp] theorem State.drawn_posted : (s.drawn).posted = s.posted := rfl
@[simp] theorem State.drawn_lastRead : (s.drawn).lastRead = s.lastRead := rfl
@[simp] theorem State.drawn_lastLow : (s.drawn).lastLow = s.lastLow := rfl
@[simp] theorem State.drawn_level : (s.drawn).level = s.level := rfl
@[simp] theorem State.drawn_prevLevel : (s.drawn).prevLevel = s.prevLevel := rfl
@[simp] theorem State.drawn_levelCause : (s.drawn).levelCause = s.levelCause := rfl
@[simp] theorem State.drawn_group : (s.drawn).group = s.group := rfl
@[simp] theorem State.drawn_lanes : (s.drawn).lanes = s.lanes := rfl
@[simp] theorem State.drawn_sieve : (s.drawn).sieve = s.sieve := rfl
@[simp] theorem State.drawn_chans : (s.drawn).chans = s.chans := rfl
@[simp] theorem State.drawn_cyc : (s.drawn).cyc = s.cyc := rfl
@[simp] theorem State.drawn_snap : (s.drawn).snap = s.snap := rfl
@[simp] theorem State.drawn_loam : (s.drawn).loam = s.loam := rfl
@[simp] theorem State.drawn_loamNext : (s.drawn).loamNext = s.loamNext := rfl
@[simp] theorem State.drawn_hif : (s.drawn).hif = s.hif := rfl
@[simp] theorem State.drawn_evg : (s.drawn).evg = s.evg := rfl
@[simp] theorem State.drawn_fsn : (s.drawn).fsn = s.fsn := rfl
@[simp] theorem State.drawn_frn : (s.drawn).frn = s.frn := rfl
@[simp] theorem State.drawn_can : (s.drawn).can = s.can := rfl
@[simp] theorem State.drawn_sby : (s.drawn).sby = s.sby := rfl
@[simp] theorem State.drawn_vio : (s.drawn).vio = s.vio := rfl
@[simp] theorem State.drawn_chk : (s.drawn).chk = s.chk := rfl
@[simp] theorem State.drawn_shale : (s.drawn).shale = s.shale := rfl
@[simp] theorem State.drawn_upd : (s.drawn).upd = s.upd := rfl
@[simp] theorem State.drawn_kiln : (s.drawn).kiln = s.kiln := rfl
@[simp] theorem State.drawn_dbg : (s.drawn).dbg = s.dbg := rfl
@[simp] theorem State.drawn_jtag : (s.drawn).jtag = s.jtag := rfl
@[simp] theorem State.drawn_out : (s.drawn).out = s.out := rfl
@[simp] theorem State.drawn_pending : (s.drawn).pending = s.pending := rfl

/-! ### at -/

@[simp] theorem State.at_power (t : Nat) : (s.at t).power = s.power := rfl
@[simp] theorem State.at_stored (t : Nat) : (s.at t).stored = s.stored := rfl
@[simp] theorem State.at_regs (t : Nat) : (s.at t).regs = s.regs := rfl
@[simp] theorem State.at_rdShadow (t : Nat) : (s.at t).rdShadow = s.rdShadow := rfl
@[simp] theorem State.at_wrShadow (t : Nat) : (s.at t).wrShadow = s.wrShadow := rfl
@[simp] theorem State.at_posted (t : Nat) : (s.at t).posted = s.posted := rfl
@[simp] theorem State.at_lastRead (t : Nat) : (s.at t).lastRead = s.lastRead := rfl
@[simp] theorem State.at_lastLow (t : Nat) : (s.at t).lastLow = s.lastLow := rfl
@[simp] theorem State.at_level (t : Nat) : (s.at t).level = s.level := rfl
@[simp] theorem State.at_prevLevel (t : Nat) : (s.at t).prevLevel = s.prevLevel := rfl
@[simp] theorem State.at_levelCause (t : Nat) : (s.at t).levelCause = s.levelCause := rfl
@[simp] theorem State.at_group (t : Nat) : (s.at t).group = s.group := rfl
@[simp] theorem State.at_lanes (t : Nat) : (s.at t).lanes = s.lanes := rfl
@[simp] theorem State.at_sieve (t : Nat) : (s.at t).sieve = s.sieve := rfl
@[simp] theorem State.at_chans (t : Nat) : (s.at t).chans = s.chans := rfl
@[simp] theorem State.at_snap (t : Nat) : (s.at t).snap = s.snap := rfl
@[simp] theorem State.at_loam (t : Nat) : (s.at t).loam = s.loam := rfl
@[simp] theorem State.at_loamNext (t : Nat) : (s.at t).loamNext = s.loamNext := rfl
@[simp] theorem State.at_hif (t : Nat) : (s.at t).hif = s.hif := rfl
@[simp] theorem State.at_evg (t : Nat) : (s.at t).evg = s.evg := rfl
@[simp] theorem State.at_fsn (t : Nat) : (s.at t).fsn = s.fsn := rfl
@[simp] theorem State.at_frn (t : Nat) : (s.at t).frn = s.frn := rfl
@[simp] theorem State.at_can (t : Nat) : (s.at t).can = s.can := rfl
@[simp] theorem State.at_sby (t : Nat) : (s.at t).sby = s.sby := rfl
@[simp] theorem State.at_vio (t : Nat) : (s.at t).vio = s.vio := rfl
@[simp] theorem State.at_chk (t : Nat) : (s.at t).chk = s.chk := rfl
@[simp] theorem State.at_shale (t : Nat) : (s.at t).shale = s.shale := rfl
@[simp] theorem State.at_upd (t : Nat) : (s.at t).upd = s.upd := rfl
@[simp] theorem State.at_kiln (t : Nat) : (s.at t).kiln = s.kiln := rfl
@[simp] theorem State.at_dbg (t : Nat) : (s.at t).dbg = s.dbg := rfl
@[simp] theorem State.at_jtag (t : Nat) : (s.at t).jtag = s.jtag := rfl
@[simp] theorem State.at_out (t : Nat) : (s.at t).out = s.out := rfl
@[simp] theorem State.at_free (t : Nat) : (s.at t).free = s.free := rfl
@[simp] theorem State.at_pending (t : Nat) : (s.at t).pending = s.pending := rfl

/-! ### updLane -/

@[simp] theorem State.updLane_power (l : Lane) (f : LaneSt → LaneSt) : (s.updLane l f).power = s.power := rfl
@[simp] theorem State.updLane_bu (l : Lane) (f : LaneSt → LaneSt) : (s.updLane l f).bu = s.bu := rfl
@[simp] theorem State.updLane_stored (l : Lane) (f : LaneSt → LaneSt) : (s.updLane l f).stored = s.stored := rfl
@[simp] theorem State.updLane_regs (l : Lane) (f : LaneSt → LaneSt) : (s.updLane l f).regs = s.regs := rfl
@[simp] theorem State.updLane_rdShadow (l : Lane) (f : LaneSt → LaneSt) : (s.updLane l f).rdShadow = s.rdShadow := rfl
@[simp] theorem State.updLane_wrShadow (l : Lane) (f : LaneSt → LaneSt) : (s.updLane l f).wrShadow = s.wrShadow := rfl
@[simp] theorem State.updLane_posted (l : Lane) (f : LaneSt → LaneSt) : (s.updLane l f).posted = s.posted := rfl
@[simp] theorem State.updLane_lastRead (l : Lane) (f : LaneSt → LaneSt) : (s.updLane l f).lastRead = s.lastRead := rfl
@[simp] theorem State.updLane_lastLow (l : Lane) (f : LaneSt → LaneSt) : (s.updLane l f).lastLow = s.lastLow := rfl
@[simp] theorem State.updLane_level (l : Lane) (f : LaneSt → LaneSt) : (s.updLane l f).level = s.level := rfl
@[simp] theorem State.updLane_prevLevel (l : Lane) (f : LaneSt → LaneSt) : (s.updLane l f).prevLevel = s.prevLevel := rfl
@[simp] theorem State.updLane_levelCause (l : Lane) (f : LaneSt → LaneSt) : (s.updLane l f).levelCause = s.levelCause := rfl
@[simp] theorem State.updLane_group (l : Lane) (f : LaneSt → LaneSt) : (s.updLane l f).group = s.group := rfl
@[simp] theorem State.updLane_sieve (l : Lane) (f : LaneSt → LaneSt) : (s.updLane l f).sieve = s.sieve := rfl
@[simp] theorem State.updLane_chans (l : Lane) (f : LaneSt → LaneSt) : (s.updLane l f).chans = s.chans := rfl
@[simp] theorem State.updLane_cyc (l : Lane) (f : LaneSt → LaneSt) : (s.updLane l f).cyc = s.cyc := rfl
@[simp] theorem State.updLane_snap (l : Lane) (f : LaneSt → LaneSt) : (s.updLane l f).snap = s.snap := rfl
@[simp] theorem State.updLane_loam (l : Lane) (f : LaneSt → LaneSt) : (s.updLane l f).loam = s.loam := rfl
@[simp] theorem State.updLane_loamNext (l : Lane) (f : LaneSt → LaneSt) : (s.updLane l f).loamNext = s.loamNext := rfl
@[simp] theorem State.updLane_hif (l : Lane) (f : LaneSt → LaneSt) : (s.updLane l f).hif = s.hif := rfl
@[simp] theorem State.updLane_evg (l : Lane) (f : LaneSt → LaneSt) : (s.updLane l f).evg = s.evg := rfl
@[simp] theorem State.updLane_fsn (l : Lane) (f : LaneSt → LaneSt) : (s.updLane l f).fsn = s.fsn := rfl
@[simp] theorem State.updLane_frn (l : Lane) (f : LaneSt → LaneSt) : (s.updLane l f).frn = s.frn := rfl
@[simp] theorem State.updLane_can (l : Lane) (f : LaneSt → LaneSt) : (s.updLane l f).can = s.can := rfl
@[simp] theorem State.updLane_sby (l : Lane) (f : LaneSt → LaneSt) : (s.updLane l f).sby = s.sby := rfl
@[simp] theorem State.updLane_vio (l : Lane) (f : LaneSt → LaneSt) : (s.updLane l f).vio = s.vio := rfl
@[simp] theorem State.updLane_chk (l : Lane) (f : LaneSt → LaneSt) : (s.updLane l f).chk = s.chk := rfl
@[simp] theorem State.updLane_shale (l : Lane) (f : LaneSt → LaneSt) : (s.updLane l f).shale = s.shale := rfl
@[simp] theorem State.updLane_upd (l : Lane) (f : LaneSt → LaneSt) : (s.updLane l f).upd = s.upd := rfl
@[simp] theorem State.updLane_kiln (l : Lane) (f : LaneSt → LaneSt) : (s.updLane l f).kiln = s.kiln := rfl
@[simp] theorem State.updLane_dbg (l : Lane) (f : LaneSt → LaneSt) : (s.updLane l f).dbg = s.dbg := rfl
@[simp] theorem State.updLane_jtag (l : Lane) (f : LaneSt → LaneSt) : (s.updLane l f).jtag = s.jtag := rfl
@[simp] theorem State.updLane_out (l : Lane) (f : LaneSt → LaneSt) : (s.updLane l f).out = s.out := rfl
@[simp] theorem State.updLane_free (l : Lane) (f : LaneSt → LaneSt) : (s.updLane l f).free = s.free := rfl
@[simp] theorem State.updLane_pending (l : Lane) (f : LaneSt → LaneSt) : (s.updLane l f).pending = s.pending := rfl

/-! ### updLanes -/

@[simp] theorem State.updLanes_power (f : Lane → LaneSt → LaneSt) : (s.updLanes f).power = s.power := rfl
@[simp] theorem State.updLanes_bu (f : Lane → LaneSt → LaneSt) : (s.updLanes f).bu = s.bu := rfl
@[simp] theorem State.updLanes_stored (f : Lane → LaneSt → LaneSt) : (s.updLanes f).stored = s.stored := rfl
@[simp] theorem State.updLanes_regs (f : Lane → LaneSt → LaneSt) : (s.updLanes f).regs = s.regs := rfl
@[simp] theorem State.updLanes_rdShadow (f : Lane → LaneSt → LaneSt) : (s.updLanes f).rdShadow = s.rdShadow := rfl
@[simp] theorem State.updLanes_wrShadow (f : Lane → LaneSt → LaneSt) : (s.updLanes f).wrShadow = s.wrShadow := rfl
@[simp] theorem State.updLanes_posted (f : Lane → LaneSt → LaneSt) : (s.updLanes f).posted = s.posted := rfl
@[simp] theorem State.updLanes_lastRead (f : Lane → LaneSt → LaneSt) : (s.updLanes f).lastRead = s.lastRead := rfl
@[simp] theorem State.updLanes_lastLow (f : Lane → LaneSt → LaneSt) : (s.updLanes f).lastLow = s.lastLow := rfl
@[simp] theorem State.updLanes_level (f : Lane → LaneSt → LaneSt) : (s.updLanes f).level = s.level := rfl
@[simp] theorem State.updLanes_prevLevel (f : Lane → LaneSt → LaneSt) : (s.updLanes f).prevLevel = s.prevLevel := rfl
@[simp] theorem State.updLanes_levelCause (f : Lane → LaneSt → LaneSt) : (s.updLanes f).levelCause = s.levelCause := rfl
@[simp] theorem State.updLanes_group (f : Lane → LaneSt → LaneSt) : (s.updLanes f).group = s.group := rfl
@[simp] theorem State.updLanes_sieve (f : Lane → LaneSt → LaneSt) : (s.updLanes f).sieve = s.sieve := rfl
@[simp] theorem State.updLanes_chans (f : Lane → LaneSt → LaneSt) : (s.updLanes f).chans = s.chans := rfl
@[simp] theorem State.updLanes_cyc (f : Lane → LaneSt → LaneSt) : (s.updLanes f).cyc = s.cyc := rfl
@[simp] theorem State.updLanes_snap (f : Lane → LaneSt → LaneSt) : (s.updLanes f).snap = s.snap := rfl
@[simp] theorem State.updLanes_loam (f : Lane → LaneSt → LaneSt) : (s.updLanes f).loam = s.loam := rfl
@[simp] theorem State.updLanes_loamNext (f : Lane → LaneSt → LaneSt) : (s.updLanes f).loamNext = s.loamNext := rfl
@[simp] theorem State.updLanes_hif (f : Lane → LaneSt → LaneSt) : (s.updLanes f).hif = s.hif := rfl
@[simp] theorem State.updLanes_evg (f : Lane → LaneSt → LaneSt) : (s.updLanes f).evg = s.evg := rfl
@[simp] theorem State.updLanes_fsn (f : Lane → LaneSt → LaneSt) : (s.updLanes f).fsn = s.fsn := rfl
@[simp] theorem State.updLanes_frn (f : Lane → LaneSt → LaneSt) : (s.updLanes f).frn = s.frn := rfl
@[simp] theorem State.updLanes_can (f : Lane → LaneSt → LaneSt) : (s.updLanes f).can = s.can := rfl
@[simp] theorem State.updLanes_sby (f : Lane → LaneSt → LaneSt) : (s.updLanes f).sby = s.sby := rfl
@[simp] theorem State.updLanes_vio (f : Lane → LaneSt → LaneSt) : (s.updLanes f).vio = s.vio := rfl
@[simp] theorem State.updLanes_chk (f : Lane → LaneSt → LaneSt) : (s.updLanes f).chk = s.chk := rfl
@[simp] theorem State.updLanes_shale (f : Lane → LaneSt → LaneSt) : (s.updLanes f).shale = s.shale := rfl
@[simp] theorem State.updLanes_upd (f : Lane → LaneSt → LaneSt) : (s.updLanes f).upd = s.upd := rfl
@[simp] theorem State.updLanes_kiln (f : Lane → LaneSt → LaneSt) : (s.updLanes f).kiln = s.kiln := rfl
@[simp] theorem State.updLanes_dbg (f : Lane → LaneSt → LaneSt) : (s.updLanes f).dbg = s.dbg := rfl
@[simp] theorem State.updLanes_jtag (f : Lane → LaneSt → LaneSt) : (s.updLanes f).jtag = s.jtag := rfl
@[simp] theorem State.updLanes_out (f : Lane → LaneSt → LaneSt) : (s.updLanes f).out = s.out := rfl
@[simp] theorem State.updLanes_free (f : Lane → LaneSt → LaneSt) : (s.updLanes f).free = s.free := rfl
@[simp] theorem State.updLanes_pending (f : Lane → LaneSt → LaneSt) : (s.updLanes f).pending = s.pending := rfl

@[simp] theorem State.emit_out (o : Output) : (s.emit o).out = if s.power.silences o then s.out else s.out ++ [o] := rfl
@[simp] theorem State.drawn_free : s.drawn.free = s.free + 1 := rfl
@[simp] theorem State.updLanes_lanes (f : Lane → LaneSt → LaneSt) : (s.updLanes f).lanes = s.lanes.map f := rfl
@[simp] theorem State.at_timeBase (t : Nat) : (s.at t).cyc.timeBase = max s.cyc.timeBase t := rfl
@[simp] theorem State.at_cycle (t : Nat) : (s.at t).cyc.cycle = s.cyc.cycle := rfl

/-! ### Register writes in terms of `setReg` -/

theorem State.setF_eq (off lsb w x : Nat) : s.setF off lsb w x = s.setReg off (BitVec.ofNat 32 (putFld (s.regN off) lsb w x)) := rfl
theorem State.orReg_eq (off : Nat) (m : Word) : s.orReg off m = s.setReg off (s.reg off ||| m) := rfl
theorem State.clrReg_eq (off : Nat) (m : Word) : s.clrReg off m = s.setReg off (s.reg off &&& ~~~m) := rfl
theorem State.bump_eq (off n : Nat) : s.bump off n = s.setReg off (s.reg off + BitVec.ofNat 32 n) := rfl

/-! ### Lanes -/

@[simp] theorem Tri.get_set_same {α : Type} (t : Tri α) (l : Lane) (x : α) : (t.set l x).get l = x := by cases l <;> rfl

theorem Tri.get_set_other {α : Type} (t : Tri α) {l k : Lane} (x : α) (h : k ≠ l) : (t.set l x).get k = t.get k := by
  cases l <;> cases k <;> first | rfl | exact absurd rfl h

@[simp] theorem Tri.get_map {α β : Type} (f : Lane → α → β) (t : Tri α) (l : Lane) : (t.map f).get l = f l (t.get l) := by cases l <;> rfl

@[simp] theorem State.updLane_get_same (l : Lane) (f : LaneSt → LaneSt) : (s.updLane l f).lanes.get l = f (s.lanes.get l) := by
  simp [State.updLane]

theorem State.updLane_get_other {l k : Lane} (f : LaneSt → LaneSt) (h : k ≠ l) : (s.updLane l f).lanes.get k = s.lanes.get k :=
  Tri.get_set_other _ _ h

/-- Two states with the same fields are the same. -/
theorem State.eq_of_fields {s t : State} (h0 : s.power = t.power) (h1 : s.bu = t.bu) (h2 : s.stored = t.stored) (h3 : s.regs = t.regs) (h4 : s.rdShadow = t.rdShadow) (h5 : s.wrShadow = t.wrShadow) (h6 : s.posted = t.posted) (h7 : s.lastRead = t.lastRead) (h8 : s.lastLow = t.lastLow) (h9 : s.level = t.level) (h10 : s.prevLevel = t.prevLevel) (h11 : s.levelCause = t.levelCause) (h12 : s.group = t.group) (h13 : s.lanes = t.lanes) (h14 : s.sieve = t.sieve) (h15 : s.chans = t.chans) (h16 : s.cyc = t.cyc) (h17 : s.snap = t.snap) (h18 : s.loam = t.loam) (h19 : s.loamNext = t.loamNext) (h20 : s.hif = t.hif) (h21 : s.evg = t.evg) (h22 : s.fsn = t.fsn) (h23 : s.frn = t.frn) (h24 : s.can = t.can) (h25 : s.sby = t.sby) (h26 : s.vio = t.vio) (h27 : s.chk = t.chk) (h28 : s.shale = t.shale) (h29 : s.upd = t.upd) (h30 : s.kiln = t.kiln) (h31 : s.dbg = t.dbg) (h32 : s.jtag = t.jtag) (h33 : s.out = t.out) (h34 : s.free = t.free) (h35 : s.pending = t.pending) : s = t := by
  cases s; cases t
  simp only at h0 h1 h2 h3 h4 h5 h6 h7 h8 h9 h10 h11 h12 h13 h14 h15 h16 h17 h18 h19 h20 h21 h22 h23 h24 h25 h26 h27 h28 h29 h30 h31 h32 h33 h34 h35
  subst h0 h1 h2 h3 h4 h5 h6 h7 h8 h9 h10 h11 h12 h13 h14 h15 h16 h17 h18 h19 h20 h21 h22 h23 h24 h25 h26 h27 h28 h29 h30 h31 h32 h33 h34 h35
  rfl

end Sys2Proof.Machine
end

