-- ==== Sys2Proof/Laws/Memory.lean ====
section
/-! SUPPORT. Sparse memories (the laws of cellGet, cellPut and of the byte runs built on them): a read after a write gives what was written, a write leaves every other place alone, and every operation keeps the canonical form. -/

namespace Sys2Proof.Machine

variable {α : Type} [DecidableEq α] {d : Nat → α}

/-- A read gives what the write before it left at the same key. -/
@[simp] theorem cellGet_cellPut_same (k : Nat) (v : α) (m : List (Nat × α)) (h : Memory.wf d m = true) :
    cellGet d k (cellPut d k v m) = v := by
  suffices H : ∀ (b : Option Nat) (m : List (Nat × α)), cellsAbove d b m = true → cellGet d k (cellPut d k v m) = v from H none m h
  have miss : ∀ (b : Nat) (m : List (Nat × α)), cellsAbove d (some b) m = true → k ≤ b → cellGet d k m = d k := by
    intro b m
    induction m generalizing b with
    | nil => intros; rfl
    | cons c t ih =>
      obtain ⟨j, w⟩ := c
      simp only [cellsAbove, Bool.and_eq_true, decide_eq_true_eq]
      rintro ⟨⟨h1, -⟩, h3⟩ hk
      rw [cellGet, if_neg (by omega)]
      exact ih j h3 (by omega)
  intro b m
  induction m generalizing b with
  | nil => intro _; by_cases hv : v = d k <;> simp [cellPut, cellGet, hv]
  | cons c t ih =>
    obtain ⟨j, w⟩ := c
    intro h
    simp only [cellsAbove, Bool.and_eq_true, decide_eq_true_eq] at h
    obtain ⟨⟨-, h2⟩, h3⟩ := h
    unfold cellPut
    split
    · rename_i hlt
      by_cases hv : v = d k
      · rw [if_pos hv, cellGet, if_neg (by omega), miss j t h3 (by omega), hv]
      · simp [hv, cellGet]
    · split
      · rename_i heq
        subst heq
        by_cases hv : v = d k
        · rw [if_pos hv, miss k t h3 (le_refl _), hv]
        · simp [hv, cellGet]
      · rename_i hne
        rw [cellGet, if_neg (by omega)]
        exact ih (some j) h3

/-- A write leaves every other key alone. -/
theorem cellGet_cellPut_other {k j : Nat} (v : α) (m : List (Nat × α)) (h : j ≠ k) : cellGet d j (cellPut d k v m) = cellGet d j m := by
  induction m with
  | nil => by_cases hv : v = d k <;> simp [cellPut, cellGet, hv, Ne.symm h]
  | cons c t ih =>
    obtain ⟨i, w⟩ := c
    unfold cellPut
    split
    · by_cases hv : v = d k <;> simp [hv, cellGet, Ne.symm h]
    · split
      · rename_i heq
        subst heq
        by_cases hv : v = d k <;> simp [hv, cellGet, Ne.symm h]
      · simp only [cellGet, ih]

/-- The canonical form, entry by entry. -/
theorem cellsAbove_cons (b : Option Nat) (j : Nat) (w : α) (t : List (Nat × α)) :
    cellsAbove d b ((j, w) :: t) = true ↔ (∀ n, b = some n → n < j) ∧ w ≠ d j ∧ cellsAbove d (some j) t = true := by
  cases b <;> simp [cellsAbove, and_assoc]

/-- A lower bound serves where a higher one does. -/
theorem cellsAbove_low {c : Nat} {b : Option Nat} {m : List (Nat × α)} (h : cellsAbove d (some c) m = true) (hb : ∀ n, b = some n → n ≤ c) :
    cellsAbove d b m = true := by
  cases m with
  | nil => rfl
  | cons e t =>
    obtain ⟨j, w⟩ := e
    rw [cellsAbove_cons] at h ⊢
    exact ⟨fun n hn => by have := hb n hn; have := h.1 c rfl; omega, h.2⟩

/-- A write keeps the keys above a bound that both it and the memory respect. -/
theorem cellsAbove_cellPut (k : Nat) (v : α) (b : Option Nat) (m : List (Nat × α)) (h : cellsAbove d b m = true) (hb : ∀ n, b = some n → n < k) :
    cellsAbove d b (cellPut d k v m) = true := by
  induction m generalizing b with
  | nil =>
    unfold cellPut
    split
    · rfl
    · rename_i hv; exact (cellsAbove_cons ..).2 ⟨hb, hv, rfl⟩
  | cons c t ih =>
    obtain ⟨j, w⟩ := c
    have h' := (cellsAbove_cons ..).1 h
    unfold cellPut
    split
    · rename_i hlt
      split
      · exact h
      · rename_i hv
        exact (cellsAbove_cons ..).2 ⟨hb, hv, (cellsAbove_cons ..).2 ⟨by rintro n ⟨⟩; exact hlt, h'.2⟩⟩
    · split
      · rename_i heq
        subst heq
        split
        · exact cellsAbove_low h'.2.2 fun n hn => Nat.le_of_lt (hb n hn)
        · rename_i hv; exact (cellsAbove_cons ..).2 ⟨hb, hv, h'.2.2⟩
      · exact (cellsAbove_cons ..).2 ⟨h'.1, h'.2.1, ih (some j) h'.2.2 (by rintro n ⟨⟩; omega)⟩

/-- A write keeps the canonical form. -/
theorem cellPut_wf (k : Nat) (v : α) (m : List (Nat × α)) (h : Memory.wf d m = true) : Memory.wf d (cellPut d k v m) = true :=
  cellsAbove_cellPut k v none m h (by simp)

/-- A run of bytes written keeps the canonical form. -/
theorem bytesPut_wf {d : Nat → Byte} (b : Bytes) (m : List Host.Cell) (a : Nat) (h : Memory.wf d m = true) : Memory.wf d (bytesPut d m a b) = true := by
  induction b generalizing m a with
  | nil => exact h
  | cons x t ih => exact ih _ _ (cellPut_wf a x m h)

/-- Removing entries keeps the canonical form. -/
theorem filter_wf (p : Nat × α → Bool) (m : List (Nat × α)) (h : Memory.wf d m = true) : Memory.wf d (m.filter p) = true := by
  suffices H : ∀ (b : Option Nat) (m : List (Nat × α)), cellsAbove d b m = true → cellsAbove d b (m.filter p) = true from H none m h
  intro b m
  induction m generalizing b with
  | nil => intro _; rfl
  | cons c t ih =>
    obtain ⟨j, w⟩ := c
    intro h
    have h' := (cellsAbove_cons ..).1 h
    by_cases hp : p (j, w) = true
    · rw [List.filter_cons_of_pos hp]
      exact (cellsAbove_cons ..).2 ⟨h'.1, h'.2.1, ih (some j) h'.2.2⟩
    · rw [List.filter_cons_of_neg hp]
      exact cellsAbove_low (ih (some j) h'.2.2) fun n hn => Nat.le_of_lt (h'.1 n hn)

/-- Erasing a range keeps the canonical form. -/
theorem bytesErase_wf {d : Nat → Byte} (m : List Host.Cell) (a n : Nat) (h : Memory.wf d m = true) : Memory.wf d (bytesErase m a n) = true :=
  filter_wf _ m h

/-- A run of bytes written leaves every address outside it alone. -/
theorem cellGet_bytesPut_other {d : Nat → Byte} (b : Bytes) (m : List Host.Cell) (a j : Nat) (h : j < a ∨ a + b.length ≤ j) :
    cellGet d j (bytesPut d m a b) = cellGet d j m := by
  induction b generalizing m a with
  | nil => rfl
  | cons x t ih =>
    simp only [List.length_cons] at h
    rw [bytesPut, ih _ _ (by omega), cellGet_cellPut_other _ _ (by omega)]

/-- A run of bytes written reads back. -/
theorem bytesGet_bytesPut {d : Nat → Byte} (b : Bytes) (m : List Host.Cell) (a : Nat) (h : Memory.wf d m = true) :
    bytesGet d (bytesPut d m a b) a b.length = b := by
  induction b generalizing m a with
  | nil => rfl
  | cons x t ih =>
    rw [bytesPut, List.length_cons, bytesGet, cellGet_bytesPut_other t _ _ a (by omega), cellGet_cellPut_same a x m h, ih _ _ (cellPut_wf a x m h)]

/-- A run of bytes outside the written one reads as before. -/
theorem bytesGet_bytesPut_other {d : Nat → Byte} (b : Bytes) (m : List Host.Cell) (a j n : Nat) (h : j + n ≤ a ∨ a + b.length ≤ j) :
    bytesGet d (bytesPut d m a b) j n = bytesGet d m j n := by
  induction n generalizing j with
  | zero => rfl
  | succ n ih => rw [bytesGet, bytesGet, cellGet_bytesPut_other b m a j (by omega), ih (j + 1) (by omega)]

/-- Writing back what is read changes nothing. -/
theorem cellPut_get (k : Nat) (m : List (Nat × α)) (h : Memory.wf d m = true) : cellPut d k (cellGet d k m) m = m := by
  suffices H : ∀ (b : Option Nat) (m : List (Nat × α)), cellsAbove d b m = true → cellPut d k (cellGet d k m) m = m from H none m h
  have miss : ∀ (b : Nat) (m : List (Nat × α)), cellsAbove d (some b) m = true → k ≤ b → cellGet d k m = d k := by
    intro b m
    induction m generalizing b with
    | nil => intros; rfl
    | cons c t ih =>
      obtain ⟨j, w⟩ := c
      simp only [cellsAbove, Bool.and_eq_true, decide_eq_true_eq]
      rintro ⟨⟨h1, -⟩, h3⟩ hk
      rw [cellGet, if_neg (by omega)]
      exact ih j h3 (by omega)
  intro b m
  induction m generalizing b with
  | nil => intro _; simp [cellPut, cellGet]
  | cons c t ih =>
    obtain ⟨j, w⟩ := c
    intro h
    simp only [cellsAbove, Bool.and_eq_true, decide_eq_true_eq] at h
    obtain ⟨⟨-, h2⟩, h3⟩ := h
    rcases Nat.lt_trichotomy k j with hk | rfl | hk
    · rw [cellGet, if_neg (by omega), miss j t h3 (by omega), cellPut, if_pos hk, if_pos rfl]
    · rw [cellGet, if_pos rfl, cellPut, if_neg (by omega), if_pos rfl, if_neg h2]
    · rw [cellGet, if_neg (by omega), cellPut, if_neg (by omega), if_neg (by omega), ih (some j) h3]

end Sys2Proof.Machine
end

