-- ==== Sys2Proof/WellFormed.lean ====
section
/-! DEFINITION. What a well-formed command carries: operands of the lengths and ranges that the spec gives them. A meaning is total on ill-formed commands too; these checks say which commands the spec describes. -/

namespace Sys2Proof

/-- The inline arguments of a request are descriptor bytes 20 to 63 (R237). -/
def Req.wf (q : Req) : Bool := q.args.length == 44

/-- A descriptor read that succeeds returns 64 bytes (R237). -/
def DescRead.wf : DescRead → Bool
  | .ok b _ => b.length == 64
  | .failed => true

/-- A CAN frame carries at most 64 bytes, and at most 8 without FDF (R327). -/
def CanFrame.wf (f : CanFrame) : Bool := decide (f.data.length ≤ if f.fdf then 64 else 8)

/-- A completion's RESULT holds 16 bytes (R243). -/
def Cmpl.wf (c : Cmpl) : Bool := c.result.length == 16

/-- A word a lane presents is well-formed. -/
def OutWord.wf : OutWord → Bool
  | .msg _ => true
  | .cmpl c => c.wf

/-- A copy block's COUNT lies from 1 to 64: entries of a delta, and a first index with two words in each further entry of a run (R352). -/
def CopyBlock.wf (b : CopyBlock) : Bool :=
  match b.body with
  | .delta ws => decide (1 ≤ ws.length) && decide (ws.length ≤ 64)
  | .fullRun _ ws => decide (1 ≤ ws.length) && decide (ws.length ≤ 126)
  | _ => true

/-- A record's payload holds at most 12 bytes (R392). -/
def payloadWf (b : Bytes) : Bool := decide (b.length ≤ 12)

/-- The request that a command delivers to the lanes or to the module's own units, where it delivers one (R242). -/
def Instr.request : Instr → Option Req
  | .routeSet q => some q
  | .routeCancel q => some q
  | .routeReleaseEmergency q => some q
  | .pointMove q => some q
  | .signalRestore q => some q
  | .elementRead q => some q
  | .elementBlockBlock q => some q
  | .elementBlockUnblock q => some q
  | .elementBlockClear q => some q
  | .paramPropose q => some q
  | .paramConfirm q => some q
  | .recordRead q => some q
  | .updateOpen q => some q
  | .updateWrite q _ => some q
  | .updateClose q => some q
  | .updateActivate q => some q
  | .updateConfirmHealth q => some q
  | .laneRelease q => some q
  | .laneRejoin q => some q
  | .attest q => some q
  | .modeRequest q => some q
  | .standbySwitch q => some q
  | .reservedOpcode _ q => some q
  | _ => none

/-- Whether a command carries operands of the lengths the spec gives. -/
def Instr.wf : Instr → Bool
  | .powerUp _ _ => true
  | .resetN _ _ => true
  | .railOutOfRange _ => true
  | .laneRailLoss _ _ => true
  | .buThreshold _ => true
  | .laneThermalTrip _ => true
  | .ioiThermalTrip => true
  | .pfwNAsserted => true
  | .pfwNDeasserted => true
  | .temperatureSample _ _ _ _ _ => true
  | .laneClockStop _ => true
  | .boot _ _ _ => true
  | .kilnStart _ => true
  | .kilnWaitExpiry _ => true
  | .kilnComplete _ _ => true
  | .klnCmdRun _ _ => true
  | .directRunComplete _ _ => true
  | .bypass _ => true
  | .idcode => true
  | .samplePreload _ _ => true
  | .extest _ _ => true
  | .kilnReg _ => true
  | .elemAcc _ => true
  | .managementTick => true
  | .t0 _ _ _ _ _ _ => true
  | .t0WindowEnd _ => true
  | .snapshot _ => true
  | .snapshotDigest _ _ _ => true
  | .consensusDeadline => true
  | .logic _ _ => true
  | .timerExpired _ => true
  | .moveMax _ => true
  | .mismLimit _ => true
  | .propMax _ => true
  | .wSteps _ => true
  | .searchMax _ => true
  | .waveLife _ => true
  | .confirmWindow => true
  | .signatureClose _ _ => true
  | .outputCommit => true
  | .housekeeping => true
  | .ordinaryOverrun _ _ => true
  | .privilegedOverrun _ _ => true
  | .scrub _ _ => true
  | .handshakeWord _ _ _ _ => true
  | .ackTimeout _ => true
  | .laneReport _ _ _ => true
  | .laneDigest _ _ => true
  | .withdrawRail _ => true
  | .laneOutputWord _ w => w.wf
  | .checkWord _ _ _ => true
  | .keepClearLapse => true
  | .stateCopy _ _ => true
  | .rjLimit => true
  | .proofTest => true
  | .proofTestComplete _ _ => true
  | .routeSet q => q.wf
  | .routeCancel q => q.wf
  | .routeReleaseEmergency q => q.wf
  | .pointMove q => q.wf
  | .signalRestore q => q.wf
  | .elementRead q => q.wf
  | .elementBlockBlock q => q.wf
  | .elementBlockUnblock q => q.wf
  | .elementBlockClear q => q.wf
  | .paramPropose q => q.wf
  | .paramConfirm q => q.wf
  | .recordRead q => q.wf
  | .updateOpen q => q.wf
  | .updateWrite q _ => q.wf
  | .updateClose q => q.wf
  | .updateActivate q => q.wf
  | .updateConfirmHealth q => q.wf
  | .laneRelease q => q.wf
  | .laneRejoin q => q.wf
  | .attest q => q.wf
  | .modeRequest q => q.wf
  | .standbySwitch q => q.wf
  | .reservedOpcode _ q => q.wf
  | .submissionTail _ _ => true
  | .completionHead _ _ => true
  | .fetchTurn => true
  | .descriptorRead r => r.wf
  | .completionWrite => true
  | .modTime _ => true
  | .hifSqEn _ _ => true
  | .hifCqEn _ _ => true
  | .stoppingEnd _ => true
  | .functionReset _ => true
  | .d3Hot _ => true
  | .d0Return => true
  | .l1Entry => true
  | .msixUnmask _ => true
  | .evgClaim _ => true
  | .evgComplete _ _ => true
  | .evgSetPend _ _ => true
  | .evgClrPend _ _ => true
  | .evgFast _ _ => true
  | .evgPrio _ _ => true
  | .levelLine _ _ => true
  | .registerWrite _ _ _ _ => true
  | .readShadow _ _ => true
  | .writeShadow _ _ _ => true
  | .aliasSet _ _ _ => true
  | .aliasClr _ _ _ => true
  | .aliasMasked _ _ _ => true
  | .postedWrite _ _ _ => true
  | .postedWriteDone _ => true
  | .glbAccCntClear _ _ => true
  | .clrCnt _ => true
  | .dbgCtrlEn _ _ => true
  | .halt _ => true
  | .resume _ => true
  | .stepCmd _ => true
  | .roundStart => true
  | .downlinkSlot _ _ => true
  | .etlFFrame _ _ _ => true
  | .frameCut _ _ _ _ => true
  | .linkLoss _ => true
  | .linkReturn _ => true
  | .absentTimeout _ _ => true
  | .startPeriod _ _ => true
  | .screeRel _ _ => true
  | .fsnCtrlEn _ => true
  | .fsnSchChkGo _ => true
  | .fsnModeGo _ => true
  | .ackTo => true
  | .swRound => true
  | .etlRFrame _ _ _ _ => true
  | .origination => true
  | .linkFailed _ => true
  | .linkRestore _ => true
  | .coldStart => true
  | .backoff => true
  | .holdover => true
  | .holdoverLimit => true
  | .ppsIn _ => true
  | .canCtrlEn _ _ => true
  | .txReq _ _ => true
  | .txCan _ _ _ => true
  | .objReqReq _ _ => true
  | .objReqCan _ _ _ => true
  | .recover _ => true
  | .canFrameReceived _ _ (.frame f) => f.wf
  | .canFrameReceived _ _ (.error _) => true
  | .canFrameEnd _ _ => true
  | .busOff _ => true
  | .rxfData15 _ => true
  | .objWindowRead _ _ => true
  | .objData15 _ => true
  | .objSel _ _ => true
  | .basicCycle _ => true
  | .ttTrigger _ _ => true
  | .ttMasterTimeout _ => true
  | .ttErr _ => true
  | .status _ => true
  | .time _ _ _ => true
  | .vote _ b => b.wf
  | .copy b => b.all (·.wf)
  | .ack _ => true
  | .refuse => true
  | .mshipInStatic => true
  | .standbyLinkDown => true
  | .cpLimit => true
  | .waitExpiry => true
  | .downFrame _ => true
  | .upFrame _ => true
  | .downErr => true
  | .isolationLinkSilent => true
  | .vfldThreshold _ => true
  | .vfldClear => true
  | .fieldSideReset _ => true
  | .inputTest _ _ => true
  | .darkTest _ _ _ => true
  | .overload _ => true
  | .recordEntry _ _ _ p => payloadWf p
  | .flush _ => true
  | .flushComplete => true
  | .blockErase _ => true
  | .chkGo _ _ _ => true
  | .chkStop _ _ _ => true
  | .scanComplete _ _ => true
  | .scanReadFailure _ _ => true
  | .bgEn _ => true
  | .backgroundScan _ _ => true
  | .regionErased => true
  | .bytesProgrammed => true
  | .idle => true
  | .healthWindowEnd => true
  | .loamLoadChecked _ => true
  | .updLcCmdGo _ => true
  | .tokenProcessed _ => true
  | .flashRefresh _ => true
  | .mshipInEdge _ => true
  | .inputSample _ _ => true
  | .vbatLoss => true
  | .busOffRecoveryEnd _ => true
  | .arbitration _ _ => true
  | .functionReady => true
  | .buCrystalStop => true

end Sys2Proof
end

