-- ==== Sys2Proof/Laws/PerInstr.lean ====
section
/-! SUPPORT. What holds of every command as syntax: a well-formed command that delivers a request delivers the 44 argument bytes of its descriptor (R237). -/

namespace Sys2Proof.Laws.RequestArgs

/-- The request of a well-formed command holds descriptor bytes 20 to 63. -/
def Statement (i : Instr) : Prop := i.wf = true → ∀ q, i.request = some q → q.args.length = 44

/-- A request that passes its check has 44 argument bytes. -/
theorem of_wf {q : Req} (h : q.wf = true) : q.args.length = 44 := by simpa [Req.wf] using h

theorem powerUp (a0 : Bool) (a1 : BitVec 6) : Statement (.powerUp a0 a1) := fun _ _ e => by cases e
theorem resetN (a0 : Bool) (a1 : BitVec 6) : Statement (.resetN a0 a1) := fun _ _ e => by cases e
theorem railOutOfRange (a0 : IoiReading) : Statement (.railOutOfRange a0) := fun _ _ e => by cases e
theorem laneRailLoss (a0 : Lane) (a1 : LaneReading) : Statement (.laneRailLoss a0 a1) := fun _ _ e => by cases e
theorem buThreshold (a0 : BuCross) : Statement (.buThreshold a0) := fun _ _ e => by cases e
theorem laneThermalTrip (a0 : Lane) : Statement (.laneThermalTrip a0) := fun _ _ e => by cases e
theorem ioiThermalTrip : Statement .ioiThermalTrip := fun _ _ e => by cases e
theorem pfwNAsserted : Statement .pfwNAsserted := fun _ _ e => by cases e
theorem pfwNDeasserted : Statement .pfwNDeasserted := fun _ _ e => by cases e
theorem temperatureSample (a0 : BitVec 16) (a1 : BitVec 16) (a2 : BitVec 16) (a3 : BitVec 16) (a4 : BitVec 16) : Statement (.temperatureSample a0 a1 a2 a3 a4) := fun _ _ e => by cases e
theorem laneClockStop (a0 : Lane) : Statement (.laneClockStop a0) := fun _ _ e => by cases e
theorem boot (a0 : Bool) (a1 : Bool) (a2 : Bool) : Statement (.boot a0 a1 a2) := fun _ _ e => by cases e
theorem kilnStart (a0 : KilnMeas) : Statement (.kilnStart a0) := fun _ _ e => by cases e
theorem kilnWaitExpiry (a0 : KilnMeas) : Statement (.kilnWaitExpiry a0) := fun _ _ e => by cases e
theorem kilnComplete (a0 : List KilnFail) (a1 : BitVec 16) : Statement (.kilnComplete a0 a1) := fun _ _ e => by cases e
theorem klnCmdRun (a0 : Src) (a1 : Word) : Statement (.klnCmdRun a0 a1) := fun _ _ e => by cases e
theorem directRunComplete (a0 : List KilnFail) (a1 : BitVec 16) : Statement (.directRunComplete a0 a1) := fun _ _ e => by cases e
theorem bypass (a0 : Bool) : Statement (.bypass a0) := fun _ _ e => by cases e
theorem idcode : Statement .idcode := fun _ _ e => by cases e
theorem samplePreload (a0 : List Bool) (a1 : List Bool) : Statement (.samplePreload a0 a1) := fun _ _ e => by cases e
theorem extest (a0 : List Bool) (a1 : List Bool) : Statement (.extest a0 a1) := fun _ _ e => by cases e
theorem kilnReg (a0 : BitVec 40) : Statement (.kilnReg a0) := fun _ _ e => by cases e
theorem elemAcc (a0 : BitVec 48) : Statement (.elemAcc a0) := fun _ _ e => by cases e
theorem managementTick : Statement .managementTick := fun _ _ e => by cases e
theorem t0 (a0 : Nat) (a1 : Nat) (a2 : Nat) (a3 : LaneT0) (a4 : LaneT0) (a5 : LaneT0) : Statement (.t0 a0 a1 a2 a3 a4 a5) := fun _ _ e => by cases e
theorem t0WindowEnd (a0 : Lane) : Statement (.t0WindowEnd a0) := fun _ _ e => by cases e
theorem snapshot (a0 : Lane) : Statement (.snapshot a0) := fun _ _ e => by cases e
theorem snapshotDigest (a0 : Lane) (a1 : Lane) (a2 : DWord) : Statement (.snapshotDigest a0 a1 a2) := fun _ _ e => by cases e
theorem consensusDeadline : Statement .consensusDeadline := fun _ _ e => by cases e
theorem logic (a0 : Lane) (a1 : Option Disturb) : Statement (.logic a0 a1) := fun _ _ e => by cases e
theorem timerExpired (a0 : BitVec 23) : Statement (.timerExpired a0) := fun _ _ e => by cases e
theorem moveMax (a0 : BitVec 23) : Statement (.moveMax a0) := fun _ _ e => by cases e
theorem mismLimit (a0 : BitVec 23) : Statement (.mismLimit a0) := fun _ _ e => by cases e
theorem propMax (a0 : Lane) : Statement (.propMax a0) := fun _ _ e => by cases e
theorem wSteps (a0 : Lane) : Statement (.wSteps a0) := fun _ _ e => by cases e
theorem searchMax (a0 : BitVec 8) : Statement (.searchMax a0) := fun _ _ e => by cases e
theorem waveLife (a0 : BitVec 8) : Statement (.waveLife a0) := fun _ _ e => by cases e
theorem confirmWindow : Statement .confirmWindow := fun _ _ e => by cases e
theorem signatureClose (a0 : Lane) (a1 : Option Disturb) : Statement (.signatureClose a0 a1) := fun _ _ e => by cases e
theorem outputCommit : Statement .outputCommit := fun _ _ e => by cases e
theorem housekeeping : Statement .housekeeping := fun _ _ e => by cases e
theorem ordinaryOverrun (a0 : Lane) (a1 : OrdUnit) : Statement (.ordinaryOverrun a0 a1) := fun _ _ e => by cases e
theorem privilegedOverrun (a0 : Lane) (a1 : PrivUnit) : Statement (.privilegedOverrun a0 a1) := fun _ _ e => by cases e
theorem scrub (a0 : Lane) (a1 : ScrubRead) : Statement (.scrub a0 a1) := fun _ _ e => by cases e
theorem handshakeWord (a0 : Chan) (a1 : Bool) (a2 : DWord) (a3 : BitVec 16) : Statement (.handshakeWord a0 a1 a2 a3) := fun _ _ e => by cases e
theorem ackTimeout (a0 : Chan) : Statement (.ackTimeout a0) := fun _ _ e => by cases e
theorem laneReport (a0 : Lane) (a1 : BitVec 20) (a2 : Bool) : Statement (.laneReport a0 a1 a2) := fun _ _ e => by cases e
theorem laneDigest (a0 : Lane) (a1 : DWord) : Statement (.laneDigest a0 a1) := fun _ _ e => by cases e
theorem withdrawRail (a0 : Lane) : Statement (.withdrawRail a0) := fun _ _ e => by cases e
theorem laneOutputWord (a0 : Lane) (a1 : OutWord) : Statement (.laneOutputWord a0 a1) := fun _ _ e => by cases e
theorem checkWord (a0 : Lane) (a1 : DWord) (a2 : Bool) : Statement (.checkWord a0 a1 a2) := fun _ _ e => by cases e
theorem keepClearLapse : Statement .keepClearLapse := fun _ _ e => by cases e
theorem stateCopy (a0 : Lane) (a1 : CopyItem) : Statement (.stateCopy a0 a1) := fun _ _ e => by cases e
theorem rjLimit : Statement .rjLimit := fun _ _ e => by cases e
theorem proofTest : Statement .proofTest := fun _ _ e => by cases e
theorem proofTestComplete (a0 : Bool) (a1 : List KilnFail) : Statement (.proofTestComplete a0 a1) := fun _ _ e => by cases e
theorem routeSet (a0 : Req) : Statement (.routeSet a0) := fun h _ e => by cases e; exact of_wf h
theorem routeCancel (a0 : Req) : Statement (.routeCancel a0) := fun h _ e => by cases e; exact of_wf h
theorem routeReleaseEmergency (a0 : Req) : Statement (.routeReleaseEmergency a0) := fun h _ e => by cases e; exact of_wf h
theorem pointMove (a0 : Req) : Statement (.pointMove a0) := fun h _ e => by cases e; exact of_wf h
theorem signalRestore (a0 : Req) : Statement (.signalRestore a0) := fun h _ e => by cases e; exact of_wf h
theorem elementRead (a0 : Req) : Statement (.elementRead a0) := fun h _ e => by cases e; exact of_wf h
theorem elementBlockBlock (a0 : Req) : Statement (.elementBlockBlock a0) := fun h _ e => by cases e; exact of_wf h
theorem elementBlockUnblock (a0 : Req) : Statement (.elementBlockUnblock a0) := fun h _ e => by cases e; exact of_wf h
theorem elementBlockClear (a0 : Req) : Statement (.elementBlockClear a0) := fun h _ e => by cases e; exact of_wf h
theorem paramPropose (a0 : Req) : Statement (.paramPropose a0) := fun h _ e => by cases e; exact of_wf h
theorem paramConfirm (a0 : Req) : Statement (.paramConfirm a0) := fun h _ e => by cases e; exact of_wf h
theorem recordRead (a0 : Req) : Statement (.recordRead a0) := fun h _ e => by cases e; exact of_wf h
theorem updateOpen (a0 : Req) : Statement (.updateOpen a0) := fun h _ e => by cases e; exact of_wf h
theorem updateWrite (a0 : Req) (a1 : Bytes) : Statement (.updateWrite a0 a1) := fun h _ e => by cases e; exact of_wf h
theorem updateClose (a0 : Req) : Statement (.updateClose a0) := fun h _ e => by cases e; exact of_wf h
theorem updateActivate (a0 : Req) : Statement (.updateActivate a0) := fun h _ e => by cases e; exact of_wf h
theorem updateConfirmHealth (a0 : Req) : Statement (.updateConfirmHealth a0) := fun h _ e => by cases e; exact of_wf h
theorem laneRelease (a0 : Req) : Statement (.laneRelease a0) := fun h _ e => by cases e; exact of_wf h
theorem laneRejoin (a0 : Req) : Statement (.laneRejoin a0) := fun h _ e => by cases e; exact of_wf h
theorem attest (a0 : Req) : Statement (.attest a0) := fun h _ e => by cases e; exact of_wf h
theorem modeRequest (a0 : Req) : Statement (.modeRequest a0) := fun h _ e => by cases e; exact of_wf h
theorem standbySwitch (a0 : Req) : Statement (.standbySwitch a0) := fun h _ e => by cases e; exact of_wf h
theorem reservedOpcode (a0 : BitVec 16) (a1 : Req) : Statement (.reservedOpcode a0 a1) := fun h _ e => by cases e; exact of_wf h
theorem submissionTail (a0 : BitVec 4) (a1 : Bell) : Statement (.submissionTail a0 a1) := fun _ _ e => by cases e
theorem completionHead (a0 : BitVec 4) (a1 : Bell) : Statement (.completionHead a0 a1) := fun _ _ e => by cases e
theorem fetchTurn : Statement .fetchTurn := fun _ _ e => by cases e
theorem descriptorRead (a0 : DescRead) : Statement (.descriptorRead a0) := fun _ _ e => by cases e
theorem completionWrite : Statement .completionWrite := fun _ _ e => by cases e
theorem modTime (a0 : BitVec 4) : Statement (.modTime a0) := fun _ _ e => by cases e
theorem hifSqEn (a0 : BitVec 4) (a1 : Word) : Statement (.hifSqEn a0 a1) := fun _ _ e => by cases e
theorem hifCqEn (a0 : BitVec 4) (a1 : Word) : Statement (.hifCqEn a0 a1) := fun _ _ e => by cases e
theorem stoppingEnd (a0 : BitVec 4) : Statement (.stoppingEnd a0) := fun _ _ e => by cases e
theorem functionReset (a0 : FnReset) : Statement (.functionReset a0) := fun _ _ e => by cases e
theorem d3Hot (a0 : Bool) : Statement (.d3Hot a0) := fun _ _ e => by cases e
theorem d0Return : Statement .d0Return := fun _ _ e => by cases e
theorem l1Entry : Statement .l1Entry := fun _ _ e => by cases e
theorem msixUnmask (a0 : MsixAccess) : Statement (.msixUnmask a0) := fun _ _ e => by cases e
theorem evgClaim (a0 : EvClass) : Statement (.evgClaim a0) := fun _ _ e => by cases e
theorem evgComplete (a0 : EvClass) (a1 : Word) : Statement (.evgComplete a0 a1) := fun _ _ e => by cases e
theorem evgSetPend (a0 : BitVec 2) (a1 : Word) : Statement (.evgSetPend a0 a1) := fun _ _ e => by cases e
theorem evgClrPend (a0 : BitVec 2) (a1 : Word) : Statement (.evgClrPend a0 a1) := fun _ _ e => by cases e
theorem evgFast (a0 : BitVec 2) (a1 : Word) : Statement (.evgFast a0 a1) := fun _ _ e => by cases e
theorem evgPrio (a0 : BitVec 4) (a1 : Word) : Statement (.evgPrio a0 a1) := fun _ _ e => by cases e
theorem levelLine (a0 : BitVec 7) (a1 : Bool) : Statement (.levelLine a0 a1) := fun _ _ e => by cases e
theorem registerWrite (a0 : Src) (a1 : BitVec 22) (a2 : Nat) (a3 : DWord) : Statement (.registerWrite a0 a1 a2 a3) := fun _ _ e => by cases e
theorem readShadow (a0 : Src) (a1 : RegAccess) : Statement (.readShadow a0 a1) := fun _ _ e => by cases e
theorem writeShadow (a0 : Src) (a1 : BitVec 22) (a2 : Word) : Statement (.writeShadow a0 a1 a2) := fun _ _ e => by cases e
theorem aliasSet (a0 : Src) (a1 : BitVec 22) (a2 : Word) : Statement (.aliasSet a0 a1 a2) := fun _ _ e => by cases e
theorem aliasClr (a0 : Src) (a1 : BitVec 22) (a2 : Word) : Statement (.aliasClr a0 a1 a2) := fun _ _ e => by cases e
theorem aliasMasked (a0 : Src) (a1 : BitVec 22) (a2 : Word) : Statement (.aliasMasked a0 a1 a2) := fun _ _ e => by cases e
theorem postedWrite (a0 : Src) (a1 : BitVec 22) (a2 : Word) : Statement (.postedWrite a0 a1 a2) := fun _ _ e => by cases e
theorem postedWriteDone (a0 : SlowBlock) : Statement (.postedWriteDone a0) := fun _ _ e => by cases e
theorem glbAccCntClear (a0 : Src) (a1 : Word) : Statement (.glbAccCntClear a0 a1) := fun _ _ e => by cases e
theorem clrCnt (a0 : ClrBlock) : Statement (.clrCnt a0) := fun _ _ e => by cases e
theorem dbgCtrlEn (a0 : Src) (a1 : Bool) : Statement (.dbgCtrlEn a0 a1) := fun _ _ e => by cases e
theorem halt (a0 : Src) : Statement (.halt a0) := fun _ _ e => by cases e
theorem resume (a0 : Src) : Statement (.resume a0) := fun _ _ e => by cases e
theorem stepCmd (a0 : Src) : Statement (.stepCmd a0) := fun _ _ e => by cases e
theorem roundStart : Statement .roundStart := fun _ _ e => by cases e
theorem downlinkSlot (a0 : BitVec 4) (a1 : BitVec 6) : Statement (.downlinkSlot a0 a1) := fun _ _ e => by cases e
theorem etlFFrame (a0 : BitVec 4) (a1 : Nat) (a2 : Bytes) : Statement (.etlFFrame a0 a1 a2) := fun _ _ e => by cases e
theorem frameCut (a0 : BitVec 4) (a1 : Nat) (a2 : BitVec 3) (a3 : CutWhy) : Statement (.frameCut a0 a1 a2 a3) := fun _ _ e => by cases e
theorem linkLoss (a0 : BitVec 4) : Statement (.linkLoss a0) := fun _ _ e => by cases e
theorem linkReturn (a0 : BitVec 4) : Statement (.linkReturn a0) := fun _ _ e => by cases e
theorem absentTimeout (a0 : BitVec 4) (a1 : BitVec 3) : Statement (.absentTimeout a0 a1) := fun _ _ e => by cases e
theorem startPeriod (a0 : BitVec 4) (a1 : BitVec 3) : Statement (.startPeriod a0 a1) := fun _ _ e => by cases e
theorem screeRel (a0 : BitVec 4) (a1 : BitVec 4) : Statement (.screeRel a0 a1) := fun _ _ e => by cases e
theorem fsnCtrlEn (a0 : Word) : Statement (.fsnCtrlEn a0) := fun _ _ e => by cases e
theorem fsnSchChkGo (a0 : Word) : Statement (.fsnSchChkGo a0) := fun _ _ e => by cases e
theorem fsnModeGo (a0 : Word) : Statement (.fsnModeGo a0) := fun _ _ e => by cases e
theorem ackTo : Statement .ackTo := fun _ _ e => by cases e
theorem swRound : Statement .swRound := fun _ _ e => by cases e
theorem etlRFrame (a0 : BitVec 2) (a1 : Nat) (a2 : Nat) (a3 : Bytes) : Statement (.etlRFrame a0 a1 a2 a3) := fun _ _ e => by cases e
theorem origination : Statement .origination := fun _ _ e => by cases e
theorem linkFailed (a0 : BitVec 2) : Statement (.linkFailed a0) := fun _ _ e => by cases e
theorem linkRestore (a0 : BitVec 2) : Statement (.linkRestore a0) := fun _ _ e => by cases e
theorem coldStart : Statement .coldStart := fun _ _ e => by cases e
theorem backoff : Statement .backoff := fun _ _ e => by cases e
theorem holdover : Statement .holdover := fun _ _ e => by cases e
theorem holdoverLimit : Statement .holdoverLimit := fun _ _ e => by cases e
theorem ppsIn (a0 : Nat) : Statement (.ppsIn a0) := fun _ _ e => by cases e
theorem canCtrlEn (a0 : BitVec 2) (a1 : Word) : Statement (.canCtrlEn a0 a1) := fun _ _ e => by cases e
theorem txReq (a0 : BitVec 2) (a1 : Word) : Statement (.txReq a0 a1) := fun _ _ e => by cases e
theorem txCan (a0 : BitVec 2) (a1 : Word) (a2 : BitVec 3) : Statement (.txCan a0 a1 a2) := fun _ _ e => by cases e
theorem objReqReq (a0 : BitVec 2) (a1 : Word) : Statement (.objReqReq a0 a1) := fun _ _ e => by cases e
theorem objReqCan (a0 : BitVec 2) (a1 : Word) (a2 : Bool) : Statement (.objReqCan a0 a1 a2) := fun _ _ e => by cases e
theorem recover (a0 : BitVec 2) : Statement (.recover a0) := fun _ _ e => by cases e
theorem canFrameReceived (a0 : BitVec 2) (a1 : Nat) (a2 : CanRx) : Statement (.canFrameReceived a0 a1 a2) := fun _ _ e => by cases e
theorem canFrameEnd (a0 : BitVec 2) (a1 : CanEnd) : Statement (.canFrameEnd a0 a1) := fun _ _ e => by cases e
theorem busOff (a0 : BitVec 2) : Statement (.busOff a0) := fun _ _ e => by cases e
theorem rxfData15 (a0 : BitVec 2) : Statement (.rxfData15 a0) := fun _ _ e => by cases e
theorem objWindowRead (a0 : BitVec 2) (a1 : BitVec 5) : Statement (.objWindowRead a0 a1) := fun _ _ e => by cases e
theorem objData15 (a0 : BitVec 2) : Statement (.objData15 a0) := fun _ _ e => by cases e
theorem objSel (a0 : BitVec 2) (a1 : Word) : Statement (.objSel a0 a1) := fun _ _ e => by cases e
theorem basicCycle (a0 : BitVec 2) : Statement (.basicCycle a0) := fun _ _ e => by cases e
theorem ttTrigger (a0 : BitVec 2) (a1 : BitVec 7) : Statement (.ttTrigger a0 a1) := fun _ _ e => by cases e
theorem ttMasterTimeout (a0 : BitVec 2) : Statement (.ttMasterTimeout a0) := fun _ _ e => by cases e
theorem ttErr (a0 : BitVec 2) : Statement (.ttErr a0) := fun _ _ e => by cases e
theorem status (a0 : PartnerStatus) : Statement (.status a0) := fun _ _ e => by cases e
theorem time (a0 : Nat) (a1 : Nat) (a2 : Bool) : Statement (.time a0 a1 a2) := fun _ _ e => by cases e
theorem vote (a0 : Bool) (a1 : CopyBlock) : Statement (.vote a0 a1) := fun _ _ e => by cases e
theorem copy (a0 : Option CopyBlock) : Statement (.copy a0) := fun _ _ e => by cases e
theorem ack (a0 : BitVec 48) : Statement (.ack a0) := fun _ _ e => by cases e
theorem refuse : Statement .refuse := fun _ _ e => by cases e
theorem mshipInStatic : Statement .mshipInStatic := fun _ _ e => by cases e
theorem standbyLinkDown : Statement .standbyLinkDown := fun _ _ e => by cases e
theorem cpLimit : Statement .cpLimit := fun _ _ e => by cases e
theorem waitExpiry : Statement .waitExpiry := fun _ _ e => by cases e
theorem downFrame (a0 : Bytes) : Statement (.downFrame a0) := fun _ _ e => by cases e
theorem upFrame (a0 : VioIn) : Statement (.upFrame a0) := fun _ _ e => by cases e
theorem downErr : Statement .downErr := fun _ _ e => by cases e
theorem isolationLinkSilent : Statement .isolationLinkSilent := fun _ _ e => by cases e
theorem vfldThreshold (a0 : BitVec 16) : Statement (.vfldThreshold a0) := fun _ _ e => by cases e
theorem vfldClear : Statement .vfldClear := fun _ _ e => by cases e
theorem fieldSideReset (a0 : BitVec 16) : Statement (.fieldSideReset a0) := fun _ _ e => by cases e
theorem inputTest (a0 : BitVec 5) (a1 : Bool) : Statement (.inputTest a0 a1) := fun _ _ e => by cases e
theorem darkTest (a0 : BitVec 4) (a1 : Bool) (a2 : Bool) : Statement (.darkTest a0 a1 a2) := fun _ _ e => by cases e
theorem overload (a0 : BitVec 4) : Statement (.overload a0) := fun _ _ e => by cases e
theorem recordEntry (a0 : BitVec 16) (a1 : BitVec 3) (a2 : Byte) (a3 : Bytes) : Statement (.recordEntry a0 a1 a2 a3) := fun _ _ e => by cases e
theorem flush (a0 : Word) : Statement (.flush a0) := fun _ _ e => by cases e
theorem flushComplete : Statement .flushComplete := fun _ _ e => by cases e
theorem blockErase (a0 : BlockEnd) : Statement (.blockErase a0) := fun _ _ e => by cases e
theorem chkGo (a0 : BitVec 2) (a1 : Word) (a2 : Bool) : Statement (.chkGo a0 a1 a2) := fun _ _ e => by cases e
theorem chkStop (a0 : BitVec 2) (a1 : Word) (a2 : Bytes) : Statement (.chkStop a0 a1 a2) := fun _ _ e => by cases e
theorem scanComplete (a0 : BitVec 2) (a1 : Bytes) : Statement (.scanComplete a0 a1) := fun _ _ e => by cases e
theorem scanReadFailure (a0 : BitVec 2) (a1 : Bytes) : Statement (.scanReadFailure a0 a1) := fun _ _ e => by cases e
theorem bgEn (a0 : Word) : Statement (.bgEn a0) := fun _ _ e => by cases e
theorem backgroundScan (a0 : List (Nat × Byte)) (a1 : List (Nat × Byte)) : Statement (.backgroundScan a0 a1) := fun _ _ e => by cases e
theorem regionErased : Statement .regionErased := fun _ _ e => by cases e
theorem bytesProgrammed : Statement .bytesProgrammed := fun _ _ e => by cases e
theorem idle : Statement .idle := fun _ _ e => by cases e
theorem healthWindowEnd : Statement .healthWindowEnd := fun _ _ e => by cases e
theorem loamLoadChecked (a0 : Bool) : Statement (.loamLoadChecked a0) := fun _ _ e => by cases e
theorem updLcCmdGo (a0 : Word) : Statement (.updLcCmdGo a0) := fun _ _ e => by cases e
theorem tokenProcessed (a0 : Bool) : Statement (.tokenProcessed a0) := fun _ _ e => by cases e
theorem flashRefresh (a0 : Refresh) : Statement (.flashRefresh a0) := fun _ _ e => by cases e
theorem mshipInEdge (a0 : Nat) : Statement (.mshipInEdge a0) := fun _ _ e => by cases e
theorem inputSample (a0 : BitVec 32) (a1 : FieldSample) : Statement (.inputSample a0 a1) := fun _ _ e => by cases e
theorem vbatLoss : Statement .vbatLoss := fun _ _ e => by cases e
theorem busOffRecoveryEnd (a0 : BitVec 2) : Statement (.busOffRecoveryEnd a0) := fun _ _ e => by cases e
theorem arbitration (a0 : BitVec 2) (a1 : Bool) : Statement (.arbitration a0 a1) := fun _ _ e => by cases e
theorem functionReady : Statement .functionReady := fun _ _ e => by cases e
theorem buCrystalStop : Statement .buCrystalStop := fun _ _ e => by cases e

end Sys2Proof.Laws.RequestArgs
end

