-- ==== Sys2Proof/Laws/Shared.lean ====
section
/-! SUPPORT. What the shared operations can do, said once for each: the register file, state SRAM, delivery and raises at the Event Gate, event registers, Shale's records, changes of lane state and of the service level, the Sieve's latch. -/

namespace Sys2Proof.Machine

/-! ### The register file -/

/-- A register reads as it was last written. -/
@[simp] theorem State.reg_setReg_same (s : State) (off : Nat) (w : Word) (h : RegsOk s) : (s.setReg off w).reg off = w :=
  cellGet_cellPut_same _ _ _ h

/-- A write of a register leaves every other register alone. -/
theorem State.reg_setReg_other (s : State) {off k : Nat} (w : Word) (h : k ≠ off) : (s.setReg off w).reg k = s.reg k :=
  cellGet_cellPut_other _ _ h

/-- A write of a register keeps the canonical form. -/
theorem State.setReg_ok (s : State) (off : Nat) (w : Word) (h : RegsOk s) : RegsOk (s.setReg off w) := cellPut_wf _ _ _ h

theorem RegsBut.refl (l : List Nat) (s : State) : RegsBut l s s := fun _ _ => rfl

theorem RegsBut.trans {l : List Nat} {s t u : State} (h : RegsBut l s t) (k : RegsBut l t u) : RegsBut l s u :=
  fun o ho => (k o ho).trans (h o ho)

theorem RegsBut.mono {l m : List Nat} {s t : State} (h : RegsBut l s t) (hl : ∀ x ∈ l, x ∈ m) : RegsBut m s t :=
  fun o ho => h o fun k => ho (hl o k)

theorem State.setReg_but (s : State) (off : Nat) (w : Word) (l : List Nat) (h : off ∈ l) : RegsBut l s (s.setReg off w) :=
  fun _ hk => State.reg_setReg_other s w fun e => hk (e ▸ h)

theorem State.setF_but (s : State) (off lsb w x : Nat) (l : List Nat) (h : off ∈ l) : RegsBut l s (s.setF off lsb w x) :=
  State.setReg_but s off _ l h

theorem State.bump_but (s : State) (off n : Nat) (l : List Nat) (h : off ∈ l) : RegsBut l s (s.bump off n) :=
  State.setReg_but s off _ l h

theorem State.orReg_but (s : State) (off : Nat) (m : Word) (l : List Nat) (h : off ∈ l) : RegsBut l s (s.orReg off m) :=
  State.setReg_but s off _ l h

/-- The two registers of a wide value are all that it writes. -/
theorem State.setWide_but (s : State) (lo : Nat) (v : DWord) : RegsBut [lo, lo + 4] s (s.setWide lo v) :=
  (State.setReg_but s lo _ _ (by simp)).trans (State.setReg_but _ (lo + 4) _ _ (by simp))

/-- The access log is all that a logged access writes (R62, R76). -/
theorem State.logAccess_but (s : State) (off cause : Nat) : RegsBut [R.GLB_ACCERR, R.GLB_ACCCNT] s (s.logAccess off cause) :=
  (State.setReg_but s _ _ _ (by simp)).trans (State.setReg_but _ _ _ _ (by simp))

/-! ### Little-endian bytes and state SRAM -/

@[simp] theorem leBytes_length (n v : Nat) : (leBytes n v).length = n := by
  induction n generalizing v with
  | zero => rfl
  | succ n ih => simp [leBytes, ih]

/-- The number that n little-endian bytes of a number spell: it, cut to n bytes. -/
theorem leNat_leBytes (n v : Nat) : leNat (leBytes n v) = v % 256 ^ n := by
  induction n generalizing v with
  | zero => simp [leBytes, leNat, Nat.mod_one]
  | succ n ih =>
    have e : v % 256 ^ (n + 1) = v % 256 + 256 * (v / 256 % 256 ^ n) := by rw [Nat.pow_succ, Nat.mul_comm (256 ^ n) 256, Nat.mod_mul]
    rw [e]
    simp only [leBytes, leNat, ih, BitVec.toNat_ofNat]

/-- An element's stored word after it was written (R79). -/
theorem sramWord_sramPut_same (l : Lane) (m : List Host.Cell) (i : Nat) (x : Info) (c : Nat) (h : Memory.wf (spareByte l) m = true)
    (hc : c < 2 ^ 24) : sramWord l (sramPut l m i x c) i = codedWord x c := by
  have e := bytesGet_bytesPut (d := spareByte l) (leBytes 6 (codedWord x c)) m (6 * i) h
  rw [leBytes_length] at e
  unfold sramWord sramPut
  rw [e, leNat_leBytes]
  have := x.isLt
  unfold codedWord
  omega

/-- A write of an element leaves every other element's stored word alone. -/
theorem sramWord_sramPut_other (l : Lane) (m : List Host.Cell) {i j : Nat} (x : Info) (c : Nat) (h : j ≠ i) :
    sramWord l (sramPut l m i x c) j = sramWord l m j := by
  unfold sramWord sramPut
  rw [bytesGet_bytesPut_other]
  rw [leBytes_length]
  omega

/-- An element's information word after it was written. -/
theorem sramInfo_sramPut_same (l : Lane) (m : List Host.Cell) (i : Nat) (x : Info) (c : Nat) (h : Memory.wf (spareByte l) m = true)
    (hc : c < 2 ^ 24) : sramInfo l (sramPut l m i x c) i = x := by
  unfold sramInfo
  rw [sramWord_sramPut_same l m i x c h hc]
  apply BitVec.eq_of_toNat_eq
  have := x.isLt
  simp only [codedWord, BitVec.toNat_ofNat]
  omega

/-- An element's check field after it was written. -/
theorem sramCheck_sramPut_same (l : Lane) (m : List Host.Cell) (i : Nat) (x : Info) (c : Nat) (h : Memory.wf (spareByte l) m = true)
    (hc : c < 2 ^ 24) : sramCheck l (sramPut l m i x c) i = c := by
  unfold sramCheck
  rw [sramWord_sramPut_same l m i x c h hc]
  have := x.isLt
  unfold codedWord
  omega

/-- A write of an element keeps the canonical form. -/
theorem sramPut_ok (l : Lane) (m : List Host.Cell) (i : Nat) (x : Info) (c : Nat) (h : Memory.wf (spareByte l) m = true) :
    Memory.wf (spareByte l) (sramPut l m i x c) = true := bytesPut_wf _ _ _ h

/-- The number that the big-endian bytes of a 32-bit word spell. -/
theorem beNat_beBytes_four (w : Word) : beNat (beBytes 4 w.toNat) = w.toNat := by
  unfold beNat beBytes
  rw [List.reverse_reverse, leNat_leBytes]
  exact Nat.mod_eq_of_lt w.isLt

/-- A ring frame with a correct FCS has no wrong bit in it. -/
theorem fcsError_of_ok (b : Bytes) (h : ringFcsOk b = true) : fcsError b = 0 := by
  simp only [ringFcsOk, Bool.and_eq_true, decide_eq_true_eq, beq_iff_eq] at h
  have e : beAt b (b.length - 4) 4 = (crc32iso (b.take (b.length - 4))).toNat := by
    unfold beAt
    rw [← h.2, List.take_of_length_le (by simp [beBytes]), beNat_beBytes_four]
  simp [fcsError, e]

/-- A check field is below its lane's modulus, and so fits its 24 bits (R176, R177). -/
theorem checkField_lt (l : Lane) (x : Info) (e : Nat) : checkField l x e < modL l := Nat.mod_lt _ (by cases l <;> decide)

theorem checkField_fits (l : Lane) (x : Info) (e : Nat) : checkField l x e < 2 ^ 24 :=
  Nat.lt_trans (checkField_lt l x e) (by cases l <;> decide)

/-! ### The coded paths and the sums (R184, R186, R207) -/

/-- The shadow pass's transform and its inverse undo one another at every width (R184). -/
theorem shadowInv_shadowFwd {n : Nat} (l : Lane) (v : BitVec n) : shadowInv l (shadowFwd l v) = v := by
  unfold shadowInv shadowFwd
  rcases Nat.eq_zero_or_pos n with h | h
  · subst h; exact Subsingleton.elim _ _
  · have hr : rotL l % n < n := Nat.mod_lt _ h
    generalize rotL l % n = r at *
    apply BitVec.eq_of_getElem_eq
    intro i hi
    simp only [BitVec.getElem_not, BitVec.getElem_rotateRight, BitVec.getElem_rotateLeft, Nat.mod_eq_of_lt hr]
    split
    · rw [dif_neg (by omega)]
      simp
    · rw [dif_pos (by omega)]
      simp only [Bool.not_not]
      congr 1; omega

/-- The check field by the path of the shadow pass is the check field (R177, R186). -/
theorem checkShadow_eq (l : Lane) (x : Info) (e : Nat) : checkShadow l x e = checkField l x e := by
  have h := x.isLt
  unfold checkShadow checkField
  generalize epochOffset l e = d
  have hn : ((~~~x).toNat : Int) = 2 ^ 24 - 1 - x.toNat := by rw [BitVec.toNat_not]; omega
  rw [hn]
  generalize x.toNat = k at *
  change ((_ % _ : Int)).toNat = _
  cases l <;> simp only [complL, mulL, modL] <;> omega

/-- The sum over words that lie one after another, by the sum of their values: the closed form by which K_n is taken (R207). -/
theorem spanSum_eq (a : Nat) (ws : List DWord) : spanSum a ws = spanTotal a ws.length (ws.map BitVec.toNat).sum := by
  induction ws generalizing a with
  | nil => simp [spanSum, spanTotal]
  | cons w t ih =>
    rw [spanSum, ih]
    unfold regionTerm spanTotal
    rw [← BitVec.ofNat_add]
    refine congrArg (BitVec.ofNat 64) ?_
    generalize phi = p, psi = q
    simp only [List.map_cons, List.sum_cons, List.length_cons, Nat.add_sub_cancel]
    generalize (t.map BitVec.toNat).sum = k
    rcases t.length with _ | n
    · simp
      ring
    · simp only [Nat.add_sub_cancel]
      ring

/-! ### The Event Gate and event registers -/

theorem Delivers.refl (s : State) : Delivers s s := ⟨rfl, fun _ _ => rfl, [], by simp⟩

theorem Delivers.trans {s t u : State} (h : Delivers s t) (k : Delivers t u) : Delivers s u := by
  obtain ⟨h1, h2, l1, h3⟩ := h
  obtain ⟨k1, k2, l2, k3⟩ := k
  refine ⟨?_, h2.trans k2, l1 ++ l2, by rw [k3, h3, List.append_assoc]⟩
  rw [k1, h1]

/-- What leaves follows what has left before, unless the power state silences it (R14, R444). -/
theorem emit_sent (s : State) (o : Output) : s.emit o = { s with out := s.out ++ sent s [o] } := by
  unfold State.emit sent
  cases h : s.power.silences o <;> simp [h]

theorem emit_delivers (s : State) (o : Output) : Delivers s (s.emit o) := by
  rw [emit_sent]
  exact ⟨rfl, fun _ _ => rfl, _, rfl⟩

theorem pmeNow_delivers (s : State) : Delivers s (pmeNow s) := by
  unfold pmeNow
  split
  · exact Delivers.trans (t := { s with hif := { s.hif with pmeStatus := true, pmeSent := true } }) ⟨rfl, fun _ _ => rfl, [], by simp⟩ (emit_delivers _ _)
  · exact ⟨rfl, fun _ _ => rfl, [], by simp⟩

theorem bump_delivers (s : State) (k n : Nat) (h : k ∈ evgCounters) : Delivers s (s.bump k n) :=
  ⟨rfl, State.setReg_but _ _ _ _ h, [], by simp [State.bump_eq]⟩

/-- A message that leaves is counted for its class, and wakes the link (R251, R265, R269). -/
theorem msixEmit_delivers (s : State) (c : EvClass) (v : Nat) : Delivers s (msixEmit s c v) := by
  unfold msixEmit
  refine Delivers.trans (t := { s with hif := { s.hif with l1 := false } }) ⟨rfl, fun _ _ => rfl, [], by simp⟩ ?_
  refine (bump_delivers _ _ 1 ?_).trans (emit_delivers _ _)
  cases c <;> simp [evgCountReg, evgCounters]

theorem msixSend_delivers (s : State) (c : EvClass) (v : Nat) : Delivers s (msixSend s c v) := by
  unfold msixSend
  dsimp only
  have held (p f : BitVec 16) : Delivers s { s with evg := { s.evg with vecPend := p, vecFast := f } } := ⟨rfl, fun _ _ => rfl, [], by simp⟩
  split
  · exact held _ _
  · split
    · exact (held _ _).trans (pmeNow_delivers _)
    · exact msixEmit_delivers _ _ _

/-- Delivery for one class touches what delivery may (R265). -/
theorem evgDeliver_delivers (c : EvClass) (s : State) : Delivers s (evgDeliver c s) := by
  unfold evgDeliver
  split
  · split
    · exact .refl s
    · dsimp only
      refine Delivers.trans ?_ (msixSend_delivers _ _ _)
      cases c <;> exact ⟨rfl, fun _ _ => rfl, [], by simp [evgSetFlag]⟩
  · exact .refl s

/-- So does delivery for both. -/
theorem evgPoll_delivers (s : State) : Delivers s (evgPoll s) := (evgDeliver_delivers .normal s).trans (evgDeliver_delivers .fast _)

/-- A raise sets the source's pending bit, and delivery does the rest (R259). -/
theorem evgRaise_raises (s : State) (k : Nat) : Raises k s (evgRaise s k) := evgPoll_delivers _

/-- A block's event sets its bit, and raises the block's source where its enable bit is 1. -/
theorem event_reports (s : State) (evt en bit src : Nat) : Reports evt en bit src s (s.event evt en bit src) := by
  unfold Reports State.event
  split
  · exact evgRaise_raises _ _
  · rfl

/-- Delivery keeps the register file's canonical form. -/
theorem evgPoll_ok (s : State) (h : RegsOk s) : RegsOk (evgPoll s) := by
  have pme (t : State) (h : RegsOk t) : RegsOk (pmeNow t) := by
    unfold pmeNow
    split <;> exact h
  have send (t : State) (c : EvClass) (v : Nat) (h : RegsOk t) : RegsOk (msixSend t c v) := by
    unfold msixSend
    dsimp only
    split
    · exact h
    · split
      · exact pme _ h
      · unfold msixEmit
        exact State.setReg_ok _ _ _ h
  have one (c : EvClass) (t : State) (h : RegsOk t) : RegsOk (evgDeliver c t) := by
    unfold evgDeliver
    split
    · split
      · exact h
      · apply send
        cases c <;> exact h
    · exact h
  exact one _ _ (one _ _ h)

theorem evgRaise_ok (s : State) (k : Nat) (h : RegsOk s) : RegsOk (evgRaise s k) := evgPoll_ok _ h

theorem event_ok (s : State) (evt en bit src : Nat) (h : RegsOk s) : RegsOk (s.event evt en bit src) := by
  unfold State.event
  dsimp only
  split
  · exact evgRaise_ok _ _ (State.setReg_ok _ _ _ h)
  · exact State.setReg_ok _ _ _ h

/-! ### What a chain of shared operations can touch

Four sets of fields, each within the next: what a raise touches, what a record touches, what a change of lane state touches, and what a change of the service level touches. -/

/-- Only registers, the Event Gate, the host link's L1 and PME bits, and the output change. -/
def EvgWork (s t : State) : Prop := t = { s with regs := t.regs, evg := t.evg, hif := t.hif, out := t.out }

/-- As much, with Shale and the counter of free values. -/
def NoteWork (s t : State) : Prop := t = { s with regs := t.regs, evg := t.evg, hif := t.hif, out := t.out, shale := t.shale, free := t.free }

/-- As much, with the lanes and the group, the Sieve's excluded set and keep-clear hold, and the halt of all lanes. -/
def LaneWork (s t : State) : Prop :=
  t = { s with regs := t.regs, evg := t.evg, hif := t.hif, out := t.out, shale := t.shale, free := t.free, lanes := t.lanes, group := t.group,
               sieve := { s.sieve with excluded := t.sieve.excluded, suspended := t.sieve.suspended }, dbg := t.dbg }

/-- As much, with the level and its history, the update engine and the stored image banks. -/
def LevelWork (s t : State) : Prop :=
  t = { s with regs := t.regs, evg := t.evg, hif := t.hif, out := t.out, shale := t.shale, free := t.free, lanes := t.lanes, group := t.group,
               sieve := { s.sieve with excluded := t.sieve.excluded, suspended := t.sieve.suspended }, dbg := t.dbg,
               level := t.level, prevLevel := t.prevLevel, levelCause := t.levelCause, upd := t.upd, stored := t.stored }

theorem EvgWork.trans {s t u : State} (h : EvgWork s t) (k : EvgWork t u) : EvgWork s u := by
  unfold EvgWork at *
  rw [k, h]

theorem NoteWork.trans {s t u : State} (h : NoteWork s t) (k : NoteWork t u) : NoteWork s u := by
  unfold NoteWork at *
  rw [k, h]

theorem LaneWork.trans {s t u : State} (h : LaneWork s t) (k : LaneWork t u) : LaneWork s u := by
  unfold LaneWork at *
  rw [k, h]

theorem LevelWork.trans {s t u : State} (h : LevelWork s t) (k : LevelWork t u) : LevelWork s u := by
  unfold LevelWork at *
  rw [k, h]

theorem LaneWork.refl (s : State) : LaneWork s s := rfl

theorem LevelWork.refl (s : State) : LevelWork s s := rfl

theorem EvgWork.toNote {s t : State} (h : EvgWork s t) : NoteWork s t := by
  unfold EvgWork at h
  unfold NoteWork
  rw [h]

theorem NoteWork.toLane {s t : State} (h : NoteWork s t) : LaneWork s t := by
  unfold NoteWork at h
  unfold LaneWork
  rw [h]

theorem EvgWork.toLane {s t : State} (h : EvgWork s t) : LaneWork s t := h.toNote.toLane

theorem LaneWork.toLevel {s t : State} (h : LaneWork s t) : LevelWork s t := by
  unfold LaneWork at h
  unfold LevelWork
  rw [h]

theorem Delivers.work {s t : State} (h : Delivers s t) : EvgWork s t := by
  have e := h.1
  unfold EvgWork
  rw [e]

theorem evgPoll_work (s : State) : EvgWork s (evgPoll s) := (evgPoll_delivers s).work

theorem evgRaise_work (s : State) (k : Nat) : EvgWork s (evgRaise s k) :=
  EvgWork.trans (t := { s with evg := { s.evg with pend := s.evg.pend ||| (1 <<< k) } }) rfl (evgPoll_work _)

theorem evgLine_work (s : State) (k : Nat) (on : Bool) : EvgWork s (evgLine s k on) := by
  unfold evgLine
  split
  · refine EvgWork.trans ?_ (evgPoll_work _)
    rfl
  · rfl

theorem event_work (s : State) (evt en bit src : Nat) : EvgWork s (s.event evt en bit src) := by
  unfold State.event
  dsimp only
  split
  · exact EvgWork.trans (t := s.orReg evt (BitVec.ofNat 32 (2 ^ bit))) rfl (evgRaise_work _ _)
  · rfl

/-! ### Shale's records -/

theorem recStage_work (s : State) (code : BitVec 16) (sev : BitVec 3) (src : Byte) (payload : Bytes) : NoteWork s (recStage s code sev src payload) := by
  unfold recStage
  split
  · exact (EvgWork.trans (t := s.bump R.REC_DROPCNT 1) rfl (event_work _ _ _ _ _)).toNote
  · dsimp only
    split
    · rfl
    · unfold pfwFlush
      split <;> rfl

theorem recSuppress_work (s : State) (code : BitVec 16) : NoteWork s (recSuppress s code) := by
  unfold recSuppress
  refine NoteWork.trans ?_ (event_work _ _ _ _ _).toNote
  rfl

/-- A record that a unit reports touches Shale, and what an event of the recorder touches (R394 to R397). -/
theorem record_work (s : State) (code : BitVec 16) (sev : BitVec 3) (src : Byte) (payload : Bytes) : NoteWork s (s.record code sev src payload) := by
  unfold State.record
  split
  · rfl
  · split
    · exact recStage_work _ _ _ _ _
    · split
      · exact recSuppress_work _ _
      · refine NoteWork.trans ?_ (recStage_work _ _ _ _ _)
        rfl

theorem note_work (s : State) (kind : Nat) (sev : BitVec 3) (src : Byte) : NoteWork s (s.note kind sev src) :=
  NoteWork.trans (t := s.drawn) rfl (record_work _ _ _ _ _)

/-- Putting the records of one instant in order touches Shale alone (R394). -/
theorem inOrder_work (b s : State) : NoteWork s (State.inOrder b s) := by
  unfold State.inOrder
  dsimp only
  split <;> rfl

/-- While records are accepted and the buffer has room, a record of severity 4 enters the buffer as it is, under the next record number, and a flush begins (R394, R395, R397). -/
theorem record_urgent (s : State) (code : BitVec 16) (src : Byte) (payload : Bytes) (h : s.shale.pfwStop = false) (hb : s.shale.buf.length < 8192) :
    s.record code 4 src payload = { s with shale := { s.shale with
      buf := s.shale.buf ++ [recordBytes code.toNat 4 src.toNat s.shale.next.toNat s.optime s.bu.pwrcyc.toNat payload]
      next := s.shale.next + 1
      flushing := some (s.shale.buf.length + 1) } } := by
  unfold State.record recStage recFlush
  simp [h, Nat.not_le.mpr hb]

/-- After a power-fail flush no record is accepted (R398). -/
theorem record_stopped (s : State) (code : BitVec 16) (sev : BitVec 3) (src : Byte) (payload : Bytes) (h : s.shale.pfwStop = true) :
    s.record code sev src payload = s := by
  unfold State.record
  simp [h]

/-! ### Changes of lane state -/

/-- A change of lane state touches the lane, registers and the lane's source (R217, R227). -/
theorem setLaneState_work (s : State) (l : Lane) (st : LaneState) (cause : Option Nat) : LaneWork s (setLaneState s l st cause) := by
  unfold setLaneState
  dsimp only
  split
  · rfl
  · refine LaneWork.trans ?_ (evgRaise_work _ _).toLane
    split <;> rfl

/-- The lanes after a change of one lane's state: that lane has the state, its cause and the cycle of the change, and the others stay (R217). -/
theorem setLaneState_lanes (s : State) (l : Lane) (st : LaneState) (cause : Option Nat) (h : (s.lanes.get l).st ≠ st) :
    (setLaneState s l st cause).lanes = s.lanes.set l { s.lanes.get l with
      st := st
      cause := match cause with | some c => BitVec.ofNat 4 c | none => (s.lanes.get l).cause
      chCycle := BitVec.ofNat 24 s.cyc.cycle } := by
  have keep {t u : State} (k : EvgWork t u) : u.lanes = t.lanes := by rw [k]
  unfold setLaneState
  dsimp only
  rw [if_neg h, keep (evgRaise_work _ _)]
  split <;> rfl

/-- The STATE of a lane that becomes OUT, with its record (R155, R212). -/
theorem markOut_work (s : State) (l : Lane) (cause : Nat) : LaneWork s (markOut s l cause) := by
  unfold markOut
  dsimp only
  refine (setLaneState_work s l .out (some cause)).trans ?_
  refine LaneWork.trans ?_ (note_work _ _ _ _).toLane
  split <;> rfl

/-- A lane that becomes OUT: what its stop and its change of STATE touch (R155, R192, R205). -/
theorem laneOut_work (s : State) (l : Lane) (cause : Nat) : LaneWork s (laneOut s l cause) :=
  LaneWork.trans (t := stopLane s l) rfl (markOut_work _ _ _)

/-- A stopped lane: its controller no longer runs, it drives nothing, and its rail is raised (R205). -/
theorem stopLane_stopped (s : State) (l : Lane) : (stopLane s l).lanes = s.lanes.set l (s.lanes.get l).stopped := rfl

/-- A lane that becomes OUT: it stops, its rail rises, and it holds the cause, where it was not OUT already (R217). -/
theorem laneOut_out (s : State) (l : Lane) (cause : Nat) (h : (s.lanes.get l).st ≠ .out) :
    OutFor ((laneOut s l cause).lanes.get l) (BitVec.ofNat 4 cause) := by
  have keep {t u : State} (k : NoteWork t u) : u.lanes = t.lanes := by rw [k]
  have e : ((stopLane s l).lanes.get l).st ≠ .out := by simpa [stopLane_stopped, LaneSt.stopped] using h
  unfold laneOut markOut
  dsimp only
  rw [keep (note_work _ _ _ _)]
  split <;> (rw [setLaneState_lanes _ _ _ _ e]; simp [OutFor, Stopped, stopLane_stopped, LaneSt.stopped])

/-- Every other lane stays as it is. -/
theorem laneOut_others (s : State) (l : Lane) (cause : Nat) : OthersKeep l s (laneOut s l cause) := by
  have keep {t u : State} (k : NoteWork t u) : u.lanes = t.lanes := by rw [k]
  intro k hk
  have e : (setLaneState (stopLane s l) l .out (some cause)).lanes.get k = s.lanes.get k := by
    by_cases h : ((stopLane s l).lanes.get l).st = .out
    · unfold setLaneState
      dsimp only
      rw [if_pos h, stopLane_stopped, Tri.get_set_other _ _ hk]
    · rw [setLaneState_lanes _ _ _ _ h, Tri.get_set_other _ _ hk, stopLane_stopped, Tri.get_set_other _ _ hk]
  unfold laneOut markOut
  dsimp only
  rw [keep (note_work _ _ _ _)]
  split <;> exact e

theorem rejoinEnded_work (s : State) (result : Nat) : LaneWork s (rejoinEnded s result) := by
  unfold rejoinEnded
  split <;> rfl

theorem rejoinFail_work (s : State) (result cause : Nat) : LaneWork s (rejoinFail s result cause) := by
  unfold rejoinFail
  split
  · rfl
  · dsimp only
    have h := fun l => (rejoinEnded_work s result).trans (laneOut_work _ l cause)
    split
    · exact (h _).trans rfl
    · exact h _

theorem proofEnd_work (s : State) (result : Nat) : LaneWork s (proofEnd s result) := by
  unfold proofEnd
  split
  · rfl
  · refine LaneWork.trans ?_ (laneOut_work _ _ _)
    rfl

theorem abandonRejoin_work (s : State) : LaneWork s (abandonRejoin s) := by
  unfold abandonRejoin
  split
  · rfl
  · dsimp only
    split
    · exact (rejoinFail_work _ _ _).trans rfl
    · exact rejoinFail_work _ _ _

/-- No rejoin is in progress: nothing is abandoned. -/
@[simp] theorem abandonRejoin_none (s : State) (h : s.group.rejoin = none) : abandonRejoin s = s := by
  unfold abandonRejoin
  rw [h]

/-! ### Update sessions and changes of level -/

theorem closeSession_work (s : State) (x : Sess) (status : Nat) (f : BankSt → BankSt) : LevelWork s (closeSession s x status f) := by
  unfold closeSession
  dsimp only
  refine LevelWork.trans ?_ (event_work _ _ _ _ _).toLane.toLevel
  have h1 : LevelWork s (setBank (keepSession s x) x.bank f) := by
    unfold setBank
    split <;> rfl
  generalize setBank (keepSession s x) x.bank f = t at *
  have h2 (r : BitVec 16 → Bytes) : LevelWork s (x.waiting.foldl (fun t w => t.defer w.1 w.2.1 status (r w.1)) t) := by
    generalize x.waiting = l
    induction l generalizing t with
    | nil => exact h1
    | cons w l ih => exact ih _ (h1.trans (u := t.defer w.1 w.2.1 status (r w.1)) rfl)
  refine (h2 fun op => if op = 48 then leBytes 2 x.num else leBytes 4 x.recv).trans ?_
  rfl

theorem endSession_work (s : State) : LevelWork s (endSession s) := by
  unfold endSession
  split
  · rfl
  · dsimp only
    exact (closeSession_work _ _ _ _).trans (note_work _ _ _ _).toLane.toLevel

/-- No session is open: nothing ends. -/
@[simp] theorem endSession_none (s : State) (h : s.upd.sess = none) : endSession s = s := by
  unfold endSession
  rw [h]

theorem setLevel_work (s : State) (tgt : Level) (cause : Nat) : LevelWork s (setLevel s tgt cause) := by
  unfold setLevel
  dsimp only
  refine LevelWork.trans ?_ (evgRaise_work _ _).toLane.toLevel
  refine LevelWork.trans ?_ (note_work _ _ _ _).toLane.toLevel
  split <;> rfl

theorem levelEnds_work (s : State) (old tgt : Level) : LevelWork s (levelEnds s old tgt) := by
  have h1 : LevelWork s (if tgt = .reduced ∨ tgt = .bedrock ∨ (old = .stopped ∧ (s.upd.sess.map (·.loam)).getD false = true) then endSession s else s) := by
    split
    · exact endSession_work s
    · rfl
  unfold levelEnds
  dsimp only
  generalize (if tgt = .reduced ∨ tgt = .bedrock ∨ (old = .stopped ∧ (s.upd.sess.map (·.loam)).getD false = true) then endSession s else s) = t at *
  refine h1.trans ?_
  have h2 : LevelWork t (if tgt = .reduced then t.updLanes fun _ x => { x with reg := { x.reg with proposal := none } } else t) := by split <;> rfl
  generalize (if tgt = .reduced then t.updLanes fun _ x => { x with reg := { x.reg with proposal := none } } else t) = u at *
  refine h2.trans ?_
  have h3 := (abandonRejoin_work u).toLevel
  split
  · exact h3.trans (proofEnd_work _ _).toLevel
  · exact h3

/-- A change of the service level touches the level and its history, and what the change ends (R44, R45, R77). -/
theorem changeLevel_work (s : State) (tgt : Level) (cause : Nat) : LevelWork s (changeLevel s tgt cause) := by
  unfold changeLevel
  split
  · rfl
  · exact ((setLevel_work _ _ _).trans (levelEnds_work _ _ _)).trans (inOrder_work _ _).toLane.toLevel

/-- Nothing changes where the level is the one asked for. -/
@[simp] theorem changeLevel_same (s : State) (cause : Nat) : changeLevel s s.level cause = s := by simp [changeLevel]

theorem closeSession_level (s : State) (x : Sess) (status : Nat) (f : BankSt → BankSt) : (closeSession s x status f).level = s.level := by
  have keep {t u : State} (k : EvgWork t u) : u.level = t.level := by rw [k]
  unfold closeSession
  dsimp only
  rw [updEvent, keep (event_work _ _ _ _ _)]
  dsimp only
  have h : (setBank (keepSession s x) x.bank f).level = s.level := by
    unfold setBank
    split <;> rfl
  generalize setBank (keepSession s x) x.bank f = t at *
  generalize x.waiting = l
  induction l generalizing t with
  | nil => exact h
  | cons w l ih => exact ih _ h

theorem endSession_level (s : State) : (endSession s).level = s.level := by
  have keep {t u : State} (k : NoteWork t u) : u.level = t.level := by rw [k]
  unfold endSession
  split
  · rfl
  · dsimp only
    rw [keep (note_work _ _ _ _), closeSession_level]

/-- The level after a change is the one asked for (R44, R45). -/
theorem changeLevel_level (s : State) (tgt : Level) (cause : Nat) : (changeLevel s tgt cause).level = tgt := by
  have lane {t u : State} (k : LaneWork t u) : u.level = t.level := by rw [k]
  have note {t u : State} (k : NoteWork t u) : u.level = t.level := by rw [k]
  unfold changeLevel
  split
  · assumption
  · have h0 : (setLevel s tgt cause).level = tgt := by
      unfold setLevel
      dsimp only
      rw [lane (evgRaise_work _ _).toLane, note (note_work _ _ _ _)]
      rfl
    rw [note (inOrder_work _ _)]
    unfold levelEnds
    dsimp only
    have h1 : (if tgt = .reduced ∨ tgt = .bedrock ∨ (s.level = .stopped ∧ ((setLevel s tgt cause).upd.sess.map (·.loam)).getD false = true) then endSession (setLevel s tgt cause) else setLevel s tgt cause).level = tgt := by
      split
      · rw [endSession_level, h0]
      · exact h0
    generalize (if tgt = .reduced ∨ tgt = .bedrock ∨ (s.level = .stopped ∧ ((setLevel s tgt cause).upd.sess.map (·.loam)).getD false = true) then endSession (setLevel s tgt cause) else setLevel s tgt cause) = t at *
    have h2 : (if tgt = .reduced then t.updLanes fun _ x => { x with reg := { x.reg with proposal := none } } else t).level = tgt := by
      split <;> exact h1
    generalize (if tgt = .reduced then t.updLanes fun _ x => { x with reg := { x.reg with proposal := none } } else t) = u at *
    split
    · rw [lane (proofEnd_work _ _), lane (abandonRejoin_work _), h2]
    · rw [lane (abandonRejoin_work _), h2]

/-- What the membership rules touch (R226). -/
theorem groupLevel_work (s : State) (cause : Nat) : LevelWork s (groupLevel s cause) := by
  unfold groupLevel
  dsimp only
  split
  · split
    · exact changeLevel_work _ _ _
    · split
      · exact changeLevel_work _ _ _
      · rfl
  · exact (abandonRejoin_work _).toLevel

/-! ### The Sieve's latch -/

/-- What leaves at once after what has left before. -/
theorem foldl_emit {α : Type} (f : α → Output) (l : List α) (s : State) : l.foldl (fun t c => t.emit (f c)) s = { s with out := s.out ++ sent s (l.map f) } := by
  induction l generalizing s with
  | nil => simp [sent]
  | cons c l ih => rw [List.foldl_cons, ih, emit_sent]; simp [sent, List.filter_cons]; split <;> simp

/-- Completions that are held touch the held ones, the count of those discarded, and what leaves for PORT_MAINT (R230, R246). -/
theorem holdCompletions_work (s : State) (cs : List Cmpl) : EvgWork s (holdCompletions s cs) := by
  unfold holdCompletions
  dsimp only
  rw [foldl_emit]
  rfl

/-- Withdrawing the queues touches no part of the Sieve (R334). -/
theorem withdrawQueues_sieve (s : State) : (withdrawQueues s).sieve = s.sieve := by
  have late (t : State) (k : Nat) : (lateCan t k).sieve = t.sieve := by
    have ev (u : State) (a b c d : Nat) : (u.event a b c d).sieve = u.sieve := by rw [event_work u a b c d]
    unfold lateCan
    split
    · rfl
    · rename_i x _
      dsimp only
      generalize (if 0 < x.vpass then 0 else x.vqueue.length - x.vpos - (x.vcur.map fun v => if v.cycle = x.vcycle then v.entries.length else 0).getD 0) = n
      split
      · rfl
      · exact ev _ _ _ _ _
  have all (l : List Nat) (t : State) : (l.foldl lateCan t).sieve = t.sieve := by
    induction l generalizing t with
    | nil => rfl
    | cons k l ih => rw [List.foldl_cons, ih, late]
  exact all _ _

/-- The latch is set after it sets (R48). -/
theorem setLatch_latch (s : State) (cause : Nat) : (setLatch s cause).sieve.latch = true := by
  have keep {t u : State} (k : LevelWork t u) : u.sieve.latch = t.sieve.latch := by rw [k]
  have held {t u : State} (k : EvgWork t u) : u.sieve.latch = t.sieve.latch := by rw [k]
  unfold setLatch
  split
  · assumption
  · unfold sieveCompletes
    dsimp only
    rw [held (holdCompletions_work _ _)]
    split
    · exact (keep (changeLevel_work _ _ _)).trans (by rw [withdrawQueues_sieve])
    · rw [withdrawQueues_sieve]

/-! ### The canonical form of the register file -/

theorem record_ok (s : State) (code : BitVec 16) (sev : BitVec 3) (src : Byte) (payload : Bytes) (h : RegsOk s) : RegsOk (s.record code sev src payload) := by
  have stage (t : State) (h : RegsOk t) : RegsOk (recStage t code sev src payload) := by
    unfold recStage
    split
    · exact event_ok _ _ _ _ _ (State.setReg_ok _ _ _ h)
    · dsimp only
      split
      · exact h
      · unfold pfwFlush
        split <;> exact h
  unfold State.record
  split
  · exact h
  · split
    · exact stage _ h
    · split
      · exact event_ok _ _ _ _ _ (State.setReg_ok _ _ _ h)
      · exact stage _ h

theorem note_ok (s : State) (kind : Nat) (sev : BitVec 3) (src : Byte) (h : RegsOk s) : RegsOk (s.note kind sev src) := record_ok _ _ _ _ _ h

theorem setLaneState_ok (s : State) (l : Lane) (st : LaneState) (cause : Option Nat) (h : RegsOk s) : RegsOk (setLaneState s l st cause) := by
  unfold setLaneState
  dsimp only
  split
  · exact h
  · apply evgRaise_ok
    split
    · exact State.setReg_ok _ _ _ h
    · exact h

theorem markOut_ok (s : State) (l : Lane) (cause : Nat) (h : RegsOk s) : RegsOk (markOut s l cause) := by
  have k := setLaneState_ok s l .out (some cause) h
  unfold markOut
  dsimp only
  generalize setLaneState s l .out (some cause) = t at *
  refine note_ok _ _ _ _ ?_
  split <;> exact k

theorem stopLane_regs (s : State) (l : Lane) : (stopLane s l).regs = s.regs := rfl

theorem laneOut_ok (s : State) (l : Lane) (cause : Nat) (h : RegsOk s) : RegsOk (laneOut s l cause) :=
  markOut_ok _ _ _ (by unfold RegsOk; rw [stopLane_regs]; exact h)

theorem rejoinFail_ok (s : State) (result cause : Nat) (h : RegsOk s) : RegsOk (rejoinFail s result cause) := by
  have ended : RegsOk (rejoinEnded s result) := by
    unfold rejoinEnded
    split
    · exact h
    · exact State.setReg_ok _ _ _ (State.setReg_ok _ _ _ h)
  unfold rejoinFail
  split
  · exact h
  · dsimp only
    split
    · exact State.setReg_ok _ _ _ (State.setReg_ok _ _ _ (laneOut_ok _ _ _ ended))
    · exact laneOut_ok _ _ _ ended

theorem proofEnd_ok (s : State) (result : Nat) (h : RegsOk s) : RegsOk (proofEnd s result) := by
  unfold proofEnd
  split
  · exact h
  · exact laneOut_ok _ _ _ (State.setReg_ok _ _ _ (State.setReg_ok _ _ _ h))

theorem abandonRejoin_ok (s : State) (h : RegsOk s) : RegsOk (abandonRejoin s) := by
  unfold abandonRejoin
  split
  · exact h
  · dsimp only
    split
    · exact State.setReg_ok _ _ _ (rejoinFail_ok _ _ _ h)
    · exact rejoinFail_ok _ _ _ h

theorem endSession_ok (s : State) (h : RegsOk s) : RegsOk (endSession s) := by
  unfold endSession
  split
  · exact h
  · rename_i x _
    refine note_ok _ _ _ _ ?_
    unfold closeSession
    refine event_ok _ _ _ _ _ ?_
    have k : RegsOk (setBank (keepSession s x) x.bank fun b => if x.loam then { b with lstate := 0 } else { b with fstate := 0 }) := by
      unfold setBank
      split <;> exact State.setReg_ok _ _ _ (State.setReg_ok _ _ _ (State.setReg_ok _ _ _ h))
    generalize setBank (keepSession s x) x.bank (fun b => if x.loam then { b with lstate := 0 } else { b with fstate := 0 }) = t at *
    generalize x.waiting = l
    dsimp only
    generalize (if (s.level == .reduced || s.level == .bedrock) = true then 9 else 3) = n
    induction l generalizing t with
    | nil => exact k
    | cons w l ih => exact ih _ k

theorem setLevel_ok (s : State) (tgt : Level) (cause : Nat) (h : RegsOk s) : RegsOk (setLevel s tgt cause) := by
  unfold setLevel
  dsimp only
  refine evgRaise_ok _ _ (note_ok _ _ _ _ (State.setReg_ok _ _ _ ?_))
  split <;> exact h

theorem inOrder_ok (b s : State) (h : RegsOk s) : RegsOk (State.inOrder b s) := by
  unfold State.inOrder
  dsimp only
  split <;> exact h

theorem changeLevel_ok (s : State) (tgt : Level) (cause : Nat) (h : RegsOk s) : RegsOk (changeLevel s tgt cause) := by
  unfold changeLevel
  split
  · exact h
  · have h0 : RegsOk (setLevel s tgt cause) := setLevel_ok _ _ _ h
    refine inOrder_ok _ _ ?_
    unfold levelEnds
    dsimp only
    generalize setLevel s tgt cause = r at *
    have h1 : RegsOk (if tgt = .reduced ∨ tgt = .bedrock ∨ (s.level = .stopped ∧ (r.upd.sess.map (·.loam)).getD false = true) then endSession r else r) := by
      split
      · exact endSession_ok _ h0
      · exact h0
    generalize (if tgt = .reduced ∨ tgt = .bedrock ∨ (s.level = .stopped ∧ (r.upd.sess.map (·.loam)).getD false = true) then endSession r else r) = t at *
    have h2 : RegsOk (if tgt = .reduced then t.updLanes fun _ x => { x with reg := { x.reg with proposal := none } } else t) := by
      split <;> exact h1
    generalize (if tgt = .reduced then t.updLanes fun _ x => { x with reg := { x.reg with proposal := none } } else t) = u at *
    split
    · exact proofEnd_ok _ _ (abandonRejoin_ok _ h2)
    · exact abandonRejoin_ok _ h2

theorem groupLevel_ok (s : State) (cause : Nat) (h : RegsOk s) : RegsOk (groupLevel s cause) := by
  unfold groupLevel
  dsimp only
  split
  · split
    · exact changeLevel_ok _ _ _ h
    · split
      · exact changeLevel_ok _ _ _ h
      · exact h
  · exact abandonRejoin_ok _ h

/-! ### Running lanes -/

/-- A change of every running lane changes each that runs, and nothing else (R155). -/
theorem onRunning_running (s : State) (f : Lane → LaneSt → LaneSt) : InEachRunning s (s.onRunning f) fun l x y => y = f l x := by
  refine ⟨rfl, fun l => ?_⟩
  unfold State.onRunning
  rw [State.updLanes_lanes, Tri.get_map]
  split <;> simp_all

/-- A completion joins a lane's words, and the signature follows (R193, R204, R209). -/
@[simp] theorem LaneSt.complete_words (x : LaneSt) (c : Cmpl) : (x.complete c).words = x.words ++ [.cmpl c] := by
  unfold LaneSt.complete LaneSt.reword
  dsimp only
  split
  · rfl
  · split <;> rfl

theorem LaneSt.complete_work (x : LaneSt) (c : Cmpl) : WordsWork x (x.complete c) := by
  unfold LaneSt.complete LaneSt.reword
  dsimp only
  split
  · rfl
  · split <;> rfl

/-- A completion that the module judges is held by every running lane (R204, R245). -/
theorem complete_completes (s : State) (op : BitVec 16) (q : Req) (status : Nat) (result : Bytes) :
    Completes op q status result s (s.complete (mkCmpl op q status s.cyc.cycle result)) := by
  have h := onRunning_running s fun _ x => x.complete (mkCmpl op q status s.cyc.cycle result)
  refine ⟨h.1, fun l => ?_⟩
  have k := h.2 l
  split at k
  · rename_i r
    rw [if_pos r]
    change (s.complete (mkCmpl op q status s.cyc.cycle result)).lanes.get l = _ at k
    rw [k]
    exact ⟨LaneSt.complete_words _ _, LaneSt.complete_work _ _⟩
  · rename_i r
    rw [if_neg r]
    exact k

/-- Clearing no bit of a register changes nothing. -/
theorem State.clrReg_zero (s : State) (off : Nat) (h : RegsOk s) : s.clrReg off 0 = s := by
  have e : s.reg off &&& ~~~(0 : Word) = cellGet regDefault off s.regs := BitVec.and_allOnes
  rw [State.clrReg, State.setReg, e, cellPut_get off s.regs h]

/-- Where a block holds no low word, discarding it changes nothing. -/
theorem dropHeld_none (s : State) (blk : Nat) (h : heldLow s blk = none) : dropHeld s blk = s := by
  have e : s.wrShadow.filter (fun x => x.1 != blk) = s.wrShadow := by
    simp only [heldLow, Option.map_eq_none_iff, List.find?_eq_none] at h
    exact List.filter_eq_self.mpr fun x hx => by simpa using h x hx
  rw [dropHeld, e]

/-- What a command's own register write does where its register takes it whole: the effect alone. -/
theorem ownWrite_clean (eff : State → Wr → State) (s : State) (off : Nat) (v : Word) (r : RegRow) (h : CleanWrite s off v) (hr : rowAt off = some r)
    (hp : plainOf off = off) (hv : viewOf off = 0) (hw : v &&& r.w1c = 0) (hb : (wrOf r (liveReg s off) 0 v).2 = false)
    (hk : ∀ w, ((eff s w).reg off) &&& r.rsvk = s.reg off &&& r.rsvk) :
    ownWrite eff s off v = eff s (wrOf r (liveReg s off) 0 v).1 := by
  obtain ⟨ho, hn, hl, hs⟩ := h
  have split (a b m : Word) : (a ^^^ b) &&& m = (a &&& m) ^^^ (b &&& m) := by
    ext i hi
    simp [Bool.and_xor_distrib_right]
  have hc : rsvkChange s off r v = false := by simp only [rsvkChange, hs r hr, bne_self_eq_false]
  have hd : ∀ w, rsvkChange (eff s w) off r v = false := fun w => by
    simp only [rsvkChange, split, hk]
    rw [← split, hs r hr, bne_self_eq_false]
  have hz : w1cMask r 0 v = 0 := by simp only [w1cMask, true_or, if_true, hw]
  simp only [ownWrite, hr, dropHeld_none s _ hl, hc, takeWith, hp, hv, hz, State.clrReg_zero s off ho, hd, hb, Bool.false_eq_true, false_and, and_false, if_false, hn]

end Sys2Proof.Machine
end

