-- ==== Sys2Proof/Laws/Words.lean ====
section
/-! SUPPORT. Element words in both passes: the bits of a replaced field, the dual of a field write (R184), and what one write of the route engine does (R98, R179, R190). -/

namespace Sys2Proof.Machine

/-- A replaced field holds the low bits of its value, and every other bit stays (R4). -/
theorem testBit_putFld (v lsb w x j : Nat) : (putFld v lsb w x).testBit j = if lsb ≤ j ∧ j < lsb + w then x.testBit (j - lsb) else v.testBit j := by
  have hv : v = 2 ^ lsb * (2 ^ w * (v / 2 ^ lsb / 2 ^ w) + v / 2 ^ lsb % 2 ^ w) + v % 2 ^ lsb := by
    rw [Nat.div_add_mod, Nat.div_add_mod]
  have hp : putFld v lsb w x = 2 ^ lsb * (2 ^ w * (v / 2 ^ lsb / 2 ^ w) + x % 2 ^ w) + v % 2 ^ lsb := by
    unfold putFld fld
    generalize hq : v / 2 ^ lsb = q at *
    generalize v % 2 ^ lsb = r at *
    generalize q / 2 ^ w = a at *
    generalize q % 2 ^ w = b at *
    generalize x % 2 ^ w = y at *
    rw [hv, Nat.mul_add, Nat.mul_add, Nat.mul_comm b, Nat.mul_comm y]
    omega
  have hr : v % 2 ^ lsb < 2 ^ lsb := Nat.mod_lt _ (Nat.two_pow_pos _)
  have hx : x % 2 ^ w < 2 ^ w := Nat.mod_lt _ (Nat.two_pow_pos _)
  have hb : v / 2 ^ lsb % 2 ^ w < 2 ^ w := Nat.mod_lt _ (Nat.two_pow_pos _)
  rw [hp, Nat.testBit_two_pow_mul_add _ hr]
  conv_rhs => rw [hv, Nat.testBit_two_pow_mul_add _ hr, Nat.testBit_two_pow_mul_add _ hb]
  rw [Nat.testBit_two_pow_mul_add _ hx, Nat.testBit_mod_two_pow]
  by_cases h1 : j < lsb
  · simp [h1, Nat.not_le.mpr h1]
  · by_cases h2 : j - lsb < w
    · have : j < lsb + w := by omega
      simp [h1, h2, this, Nat.le_of_not_lt h1]
    · have : ¬ j < lsb + w := by omega
      simp [h1, h2, this]

/-- The same of an information word. -/
theorem getLsbD_iput (x : Info) (lsb w v j : Nat) (hj : j < 24) : (iput x lsb w v).getLsbD j = if lsb ≤ j ∧ j < lsb + w then v.testBit (j - lsb) else x.getLsbD j := by
  unfold iput
  simp only [BitVec.getLsbD_ofNat, hj, decide_true, Bool.true_and]
  rw [testBit_putFld]
  rfl

/-- The complement of 24 bits. -/
theorem testBit_not24 (v j : Nat) (hj : j < 24) : (not24 (v % 2 ^ 24)).testBit j = !v.testBit j := by
  have hlt : v % 2 ^ 24 < 2 ^ 24 := Nat.mod_lt _ (by decide)
  have : not24 (v % 2 ^ 24) = 2 ^ 24 - (v % 2 ^ 24 + 1) := by unfold not24; omega
  rw [this, Nat.testBit_two_pow_sub_succ hlt, Nat.testBit_mod_two_pow]
  simp [hj]

/-- The dual of a field write is the transform of the primary's (R184). -/
theorem dualIput_eq (l : Lane) (x : Info) (lsb w v : Nat) : dualIput l (shadowFwd l x) lsb w (not24 (v % 2 ^ 24)) = shadowFwd l (iput x lsb w v) := by
  unfold dualIput shadowFwd
  have hrot : ∀ y : Info, (y.rotateLeft (rotL l % 24)).rotateRight (rotL l % 24) = y := by
    intro y
    have := shadowInv_shadowFwd l (~~~y)
    unfold shadowInv shadowFwd at this
    simpa using congrArg (fun z => ~~~z) this
  rw [hrot]
  congr 1
  apply BitVec.eq_of_getLsbD_eq
  intro j hj
  rw [BitVec.getLsbD_not, getLsbD_iput _ _ _ _ _ hj, getLsbD_iput _ _ _ _ _ hj]
  split
  · rw [testBit_not24 _ _ (by omega)]
    simp [hj]
  · simp [hj]

/-- The shadow pass of a write of fields agrees with the primary (R184). -/
theorem dualIputs_eq (l : Lane) (fs : List (Nat × Nat × Nat)) (x : Info) : shadowInv l (dualIputs l (shadowFwd l x) fs) = iputs x fs := by
  have h : ∀ (fs : List (Nat × Nat × Nat)) (x : Info), dualIputs l (shadowFwd l x) fs = shadowFwd l (iputs x fs) := by
    intro fs
    induction fs with
    | nil => intro x; rfl
    | cons f t ih =>
      intro x
      unfold dualIputs iputs at *
      simp only [List.foldl_cons]
      rw [dualIput_eq]
      exact ih _
  rw [h, shadowInv_shadowFwd]

theorem loadOkShadow_eq (c : Ctx) (m : Loam) (x : LaneSt) (i : ElemIx) : loadOkShadow c m x i = loadOk c m x i := by
  unfold loadOkShadow loadOk
  congr 1
  funext l v e
  exact checkShadow_eq l v e

/-- A checked load of a word that is right changes nothing (R181). -/
@[simp] theorem ctlLoad_ok (c : Ctx) (m : Loam) (x : LaneSt) (i : ElemIx) (h : loadOk c m x i = true) : ctlLoad c m x i = x := by
  simp [ctlLoad, loadOkShadow_eq, h]

/-- An entry put into a rising list reads back. -/
theorem assoc_assocPutUp {β : Type} (k : Nat) (v : β) (l : List (Nat × β)) : assoc k (assocPutUp k v l) = some v := by
  induction l with
  | nil => simp [assocPutUp, assoc]
  | cons e t ih =>
    obtain ⟨j, w⟩ := e
    unfold assocPutUp
    split
    · simp [assoc]
    · split
      · simp [assoc]
      · rename_i h1 h2
        have : j ≠ k := fun h => h2 h.symm
        simp [assoc, this, ih]

@[simp] theorem LaneSt.unit_updUnit (x : LaneSt) (n : Nat) (f : UnitSt → UnitSt) : (x.updUnit n f).unit n = f (x.unit n) := by
  simp [LaneSt.unit, LaneSt.updUnit, assoc_assocPutUp]

/-- Two passes that agree give the verdict agree (R191). -/
theorem railVerdict_same (v : Info) (k : Nat) : railVerdict (rails v v k k) = some true := by
  simp [railVerdict, rails, rails48]

/-- One write of the route engine (R98, R179, R190, R193): the word holds the fields with its check field at the epoch it had, the element is dirty, the step agrees, and nothing else of the lane changes. -/
theorem ctlSet_ok (c : Ctx) (m : Loam) (x : LaneSt) (i : ElemIx) (fs : List (Nat × Nat × Nat)) (hc : x.cx = none) (hl : loadOk c m x i = true)
    (hd : (x.unit ctlUnit).delay = []) :
    ∃ u, ctlSet c m x i fs = { x with
      sram := sramPut c.lane x.sram i (iputs (infoOf c x i) fs) (checkField c.lane (iputs (infoOf c x i) fs) (epochOf x i))
      units := u, reg := { x.reg with dirty := insertUp i x.reg.dirty } } ∧ (ctlSet c m x i fs).unit ctlUnit =
        { issued := (x.unit ctlUnit).issued + 1, agreed := (x.unit ctlUnit).agreed + 1,
          acc := (x.unit ctlUnit).acc + sigTerm i (iputs (infoOf c x i) fs).toNat, delay := [] } := by
  have h : ctlSet c m x i fs = commitWrite c
      ((x.issue ctlUnit ⟨i, iputs (infoOf c x i) fs, checkField c.lane (iputs (infoOf c x i) fs) (epochOf x i)⟩).settle ctlUnit
        (sigTerm i (iputs (infoOf c x i) fs).toNat))
      ⟨i, iputs (infoOf c x i) fs, checkField c.lane (iputs (infoOf c x i) fs) (epochOf x i)⟩ := by
    have hs : loadOkShadow c m x i = true := by rw [loadOkShadow_eq]; exact hl
    simp only [ctlSet, ctlSets, interleave, List.length_singleton, Nat.min_self, List.replicate_one, List.map_cons, List.map_nil, List.singleton_append,
      List.zip_cons_cons, List.zip_nil_right, List.foldl_cons, List.foldl_nil, ctlSlot, ctlPrimary, hc, hl, Option.isSome_none, Bool.false_eq_true,
      Bool.not_true, if_false]
    have hx : (x.issue ctlUnit ⟨i, iputs (infoOf c x i) fs, checkField c.lane (iputs (infoOf c x i) fs) (epochOf x i)⟩).cx = none := hc
    have hl2 : loadOkShadow c m (x.issue ctlUnit ⟨i, iputs (infoOf c x i) fs, checkField c.lane (iputs (infoOf c x i) fs) (epochOf x i)⟩) i = true := hs
    simp only [ctlShadow, hx, hl2, Option.isSome_none, Bool.false_eq_true, Bool.not_true, if_false]
    change LaneSt.compare _ _ _ _ _ = _
    unfold LaneSt.compare LaneSt.compareTerm
    simp only [LaneSt.issue, LaneSt.unit_updUnit, hd, List.nil_append]
    change (match railVerdict (rails _ (shadowInv c.lane (dualIputs c.lane (shadowFwd c.lane (infoOf c x i)) fs)) _ (checkShadow c.lane (shadowInv c.lane (dualIputs c.lane (shadowFwd c.lane (infoOf c x i)) fs)) (epochOf x i))) with
      | some true => _ | some false => _ | none => _) = _
    rw [dualIputs_eq, checkShadow_eq, railVerdict_same]
  refine ⟨_, h.trans rfl, ?_⟩
  rw [h]
  change LaneSt.unit (LaneSt.settle _ _ _) ctlUnit = _
  unfold LaneSt.settle LaneSt.issue
  rw [LaneSt.unit_updUnit, LaneSt.unit_updUnit, hd]
  rfl

/-- A field of the complement of a word is the complement of its field. -/
theorem fld_complement (n v lsb w : Nat) (hv : v < 2 ^ n) (h : lsb + w ≤ n) : fld (2 ^ n - 1 - v) lsb w = 2 ^ w - 1 - fld v lsb w := by
  apply Nat.eq_of_testBit_eq
  intro j
  have hf : fld v lsb w < 2 ^ w := Nat.mod_lt _ (Nat.two_pow_pos _)
  have h1 : 2 ^ n - 1 - v = 2 ^ n - (v + 1) := by omega
  have h2 : 2 ^ w - 1 - fld v lsb w = 2 ^ w - (fld v lsb w + 1) := by omega
  rw [h2, Nat.testBit_two_pow_sub_succ hf]
  unfold fld
  rw [Nat.testBit_mod_two_pow, Nat.testBit_div_two_pow, h1, Nat.testBit_two_pow_sub_succ hv, Nat.testBit_mod_two_pow, Nat.testBit_div_two_pow]
  by_cases hj : j < w
  · have : j + lsb < n := by omega
    simp [hj, this]
  · simp [hj]

/-- The shadow pass reads the complement of a field (R184). -/
theorem dualField_eq (l : Lane) (x : Info) (lsb w : Nat) (h : lsb + w ≤ 24) : dualField l (shadowFwd l x) lsb w = 2 ^ w - 1 - ifld x lsb w := by
  unfold dualField ifld
  have hrot : (shadowFwd l x).rotateRight (rotL l % 24) = ~~~x := by
    have := shadowInv_shadowFwd l x
    unfold shadowInv at this
    simpa using congrArg (fun z => ~~~z) this
  rw [hrot, BitVec.toNat_not]
  exact fld_complement 24 x.toNat lsb w x.isLt h

/-- The record that both passes build of an element (R184, R190). -/
theorem fieldsDual_eq (l : Lane) (x : Info) (fs : List RecField) (hf : ∀ f ∈ fs, f.1 + f.2.1 ≤ 24)
    (hs : (fs.map fun f => 2 ^ f.2.2.1 * (2 ^ f.2.1 - 1)).sum ≤ 65535) : shadowInv l (fieldsDual l (shadowFwd l x) fs) = fieldsRecord x fs := by
  have key : (fs.map fun f => 2 ^ f.2.2.1 * (if f.2.2.2 then dualField l (shadowFwd l x) f.1 f.2.1 else 2 ^ f.2.1 - 1 - dualField l (shadowFwd l x) f.1 f.2.1)) =
      fs.map fun f => 2 ^ f.2.2.1 * (if f.2.2.2 then 2 ^ f.2.1 - 1 - ifld x f.1 f.2.1 else ifld x f.1 f.2.1) := by
    apply List.map_congr_left
    intro f hm
    rw [dualField_eq l x _ _ (hf f hm)]
    have : ifld x f.1 f.2.1 < 2 ^ f.2.1 := Nat.mod_lt _ (Nat.two_pow_pos _)
    split
    · rfl
    · rw [Nat.sub_sub_self (by omega)]
  have le : (fs.map fun f => 2 ^ f.2.2.1 * (if f.2.2.2 then 2 ^ f.2.1 - 1 - ifld x f.1 f.2.1 else ifld x f.1 f.2.1)).sum ≤
      (fs.map fun f => 2 ^ f.2.2.1 * (2 ^ f.2.1 - 1)).sum := by
    clear key hf hs
    induction fs with
    | nil => simp
    | cons f t ih =>
      simp only [List.map_cons, List.sum_cons]
      have : ifld x f.1 f.2.1 < 2 ^ f.2.1 := Nat.mod_lt _ (Nat.two_pow_pos _)
      have : (if f.2.2.2 then 2 ^ f.2.1 - 1 - ifld x f.1 f.2.1 else ifld x f.1 f.2.1) ≤ 2 ^ f.2.1 - 1 := by split <;> omega
      exact Nat.add_le_add (Nat.mul_le_mul_left _ this) ih
  unfold fieldsDual fieldsRecord
  rw [key]
  generalize (fs.map fun f => 2 ^ f.2.2.1 * (if f.2.2.2 then 2 ^ f.2.1 - 1 - ifld x f.1 f.2.1 else ifld x f.1 f.2.1)).sum = S at *
  have hS : S ≤ 65535 := Nat.le_trans le hs
  have hn : BitVec.ofNat 16 (65535 - S) = ~~~(BitVec.ofNat 16 S) := by
    apply BitVec.eq_of_toNat_eq
    rw [BitVec.toNat_not]
    simp only [BitVec.toNat_ofNat]
    rw [Nat.mod_eq_of_lt (by omega), Nat.mod_eq_of_lt (by omega)]
  rw [hn]
  exact shadowInv_shadowFwd l (BitVec.ofNat 16 S)

theorem commandFields_bounds (t : Nat) (fs : List RecField) (h : commandFields t = some fs) :
    (∀ f ∈ fs, f.1 + f.2.1 ≤ 24) ∧ (fs.map fun f => 2 ^ f.2.2.1 * (2 ^ f.2.1 - 1)).sum ≤ 65535 := by
  unfold commandFields at h
  split at h <;> simp at h <;> subst h <;> decide

theorem peerFields_bounds (t : Nat) (fs : List RecField) (h : peerFields t = some fs) :
    (∀ f ∈ fs, f.1 + f.2.1 ≤ 24) ∧ (fs.map fun f => 2 ^ f.2.2.1 * (2 ^ f.2.1 - 1)).sum ≤ 65535 := by
  unfold peerFields at h
  split at h <;> simp at h <;> subst h <;> decide

/-- The two passes of assembly agree on every record (R184, R190). -/
theorem elemShadow_eq (c : Ctx) (safe : Bool) (x : LaneSt) (i : ElemIx) (e : Elem) : elemShadow c safe x i e = elemRecord c safe x i e := by
  unfold elemShadow elemRecord
  dsimp only
  rw [dualField_eq _ _ _ _ (by decide)]
  have hl : ifld (infoOf c x i) 22 2 < 2 ^ 2 := Nat.mod_lt _ (by decide)
  have hb : decide (2 ^ 2 - 1 - ifld (infoOf c x i) 22 2 ≤ 1) = decide (2 ≤ ifld (infoOf c x i) 22 2) := decide_eq_decide.mpr ⟨fun _ => by omega, fun _ => by omega⟩
  rw [hb]
  split
  · rfl
  · split
    · split
      · unfold peerRecord
        cases h : peerFields e.ty with
        | none => rfl
        | some fs =>
          have b := peerFields_bounds _ _ h
          simp only [Option.map_some, fieldsDual_eq _ _ _ b.1 b.2]
      · rfl
    · split
      · cases safeRecord e.ty <;> simp [shadowInv_shadowFwd]
      · unfold commandRecord
        cases h : commandFields e.ty with
        | none => rfl
        | some fs =>
          have b := commandFields_bounds _ _ h
          simp only [Option.map_some, fieldsDual_eq _ _ _ b.1 b.2]

end Sys2Proof.Machine
end

