-- ==== Sys2Proof/Tests/Slice0.lean ====
section
/-! SUPPORT. The model's own tests: the checks of WellFormed, the words of the table, a concrete case for the hypotheses of each statement, and small results taken from the rules of spec/. -/

namespace Sys2Proof.Tests

open Sys2Proof.Machine

set_option Elab.async false

/-! ### Small states -/

/-- The state after reset. -/
def s0 : State := State.reset

/-- A lane that runs as a member with its rail low. -/
def lane : LaneSt := { LaneSt.reset with st := .member, running := true, rail := false, inReset := false }

/-- Three running members in STOPPED. -/
def up : State := { s0 with lanes := ⟨lane, lane, lane⟩, power := { s0.power with booted := true, kilnDone := true } }

/-- A state with a register field set. -/
def withF (s : State) (off lsb w v : Nat) : State := s.setF off lsb w v

/-- A life-cycle state in force. -/
def inLcs (s : State) (n : BitVec 3) : State :=
  { s with stored := { s.stored with lcs := n, pendLcs := n }, bu := { s.bu with lcs := n } }

/-- An element of a type, with its neighbour words. -/
def el (ty : BitVec 4) (field : Bool) (nbr : List Word) (p : Word) : Elem :=
  { type := ty, field := field, stratum := 0, init := 0, nbr := nbr, rulePtr := 0, ruleLen := 0, param0 := p, obj := 0, chan := 0, net := 0 }

/-! ### The cases of the statements: the queue and power -/

/-- A queue with one command. -/
def one (c : Instr) (s : State) : State := { s with pending := [c] }

/-- A latched Sieve with a command in front that is no reset. -/
def latched : State := one .idcode { s0 with sieve := { s0.sieve with latch := true, armed := true } }

/-- Two counted lanes drive output 3. -/
def driving : State :=
  { up with lanes := ⟨{ lane with drive := 8 }, { lane with drive := 8 }, lane⟩, sieve := { s0.sieve with agree := 7 } }

theorem case_queue : s0.pending = [] ∧ (one .idcode s0).pending = [.idcode] := by decide +kernel

theorem case_memories : MemoryOk s0 ∧ SramOk s0 ∧ ShapeOk s0 ∧ RegsOk s0 ∧ step s0 = .next s0 :=
  ⟨by decide +kernel, fun l => by cases l <;> decide, by decide, by decide, by rfl⟩

theorem case_latch : latched.pending = [.idcode] ∧ mayReset .idcode latched = false ∧ latched.sieve.latch = true ∧
    step latched = .next (tapOut { latched with pending := [] } 0x01 (Config.idcode.setWidth 64)) := ⟨by decide +kernel, by decide, by decide, by rfl⟩

theorem case_energy : driving.sieve.latch = false ∧ energised driving 3 = true ∧ energised driving 4 = false := by decide +kernel

theorem case_reset : s0.bu.valid = true ∧ s0.upd.sess = none ∧ s0.power.por = false ∧ ({ s0 with power := { s0.power with por := true } } : State).power.por = true ∧ s0.power.ioiHot = false ∧
    (∀ k ∈ [6, 7, 8], railFits k (s0.power.rails.getD k 0) = true) ∧ railFits 6 0 = false ∧ railFits 2 800 = true ∧ railFits 2 0 = false ∧ railFits 5 0 = false := by decide +kernel

theorem case_lane_losses : ∀ l : Lane, (up.lanes.get l).st = .member := by intro l; cases l <;> rfl

/-- WARN reads 120 °C at reset: temperatures of 120.25 °C, 118 °C and 114.75 °C fall in its three cases. -/
theorem case_temperature : s0.power.pfw = false ∧ RegsOk s0 ∧ (s0.regF R.PWR_TEMPCFG 0 8 : Int) * 4 < (481 : BitVec 16).toInt ∧
    (459 : BitVec 16).toInt < ((s0.regF R.PWR_TEMPCFG 0 8 : Int) - 5) * 4 ∧
    ¬ ((s0.regF R.PWR_TEMPCFG 0 8 : Int) * 4 < (472 : BitVec 16).toInt) ∧ ¬ ((472 : BitVec 16).toInt < ((s0.regF R.PWR_TEMPCFG 0 8 : Int) - 5) * 4) := by decide +kernel

/-! ### The cases of the statements: boot, Kiln, the test access port, debug -/

/-- A firmware header that passes (R410), up to its CRC-32C, in pieces: TOTAL 1,024, PLEN 512. -/
def fwPieces : List Bytes :=
  [[83, 75, 70, 87, 1, 0, 128, 0, 0, 0, 0, 0, 0, 0, 0, 0, 0, 1, 0, 0, 0, 4, 0, 0, 0, 2, 0, 0, 0, 0, 0], List.replicate 31 0, List.replicate 31 0, List.replicate 31 0]

/-- The header with its CRC-32C. -/
def fwHead : Bytes := fwPieces.flatten ++ leBytes 4 0x9d25ae69

theorem fw_steps : [(0xFFFFFFFF : Word), 0x9ef322f5, 0x267294fe, 0x87e7d069].zipWith (fun c b => b.foldl (crcByteR 0x82F63B78) c) fwPieces = [0x9ef322f5, 0x267294fe, 0x87e7d069, 0x62da5196] := by decide +kernel

theorem fw_crc : crc32c fwPieces.flatten = 0x9d25ae69 := by
  have h := fw_steps
  simp only [fwPieces, List.zipWith_cons_cons, List.zipWith_nil_left, List.cons.injEq] at h
  simp only [crc32c, fwPieces, List.flatten_cons, List.flatten_nil, List.append_nil, List.foldl_append, h.1, h.2.1, h.2.2.1, h.2.2.2.1]
  decide

theorem fw_head_ok : fwHeaderOk fwHead = true := by
  have h : fwHead.take 0x7C = fwPieces.flatten := by decide +kernel
  rw [fwHeaderOk, h, fw_crc]; decide +kernel

/-- Bank 0 holds that header; its state is as given. -/
def bankState (fstate : BitVec 3) (pref : Bool) (trial : Option Bool) : State :=
  { s0 with stored := { s0.stored with lcs := 3, pendLcs := 3, mem0 := bytesPut erasedByte [] 0 fwHead, bank0 := { BankSt.reset with fstate := fstate, pref := pref } }
            bu := { s0.bu with lcs := 3, trial := trial } }

theorem case_boot : s0.power.booted = false ∧ s0.power.por = false ∧ (fixLcs s0).lcs ≠ 4 ∧ RegsOk s0 ∧ (fixLcs (inLcs s0 4)).lcs = 4 ∧
    s0.bu.trial = none ∧ (bankOf s0 false).fstate ≠ 4 ∧ (bankOf s0 true).fstate ≠ 4 := by decide +kernel

theorem case_boot_bank : (fixLcs (bankState 4 true none)).lcs ≠ 4 ∧ (bankState 4 true none).bu.trial = none ∧ (bankOf (bankState 4 true none) false).fstate = 4 ∧
    (bankOf (bankState 4 true none) false).pref = true ∧ (bankOf (bankState 4 true none) true).pref = false ∧
    (bankState 3 false (some false)).bu.trial = some false := by decide +kernel

theorem case_boot_check : bankCheck (bankState 4 true none) false false = 6 ∧ bankCheck s0 false true = 1 ∧ (bankOf (bankState 4 true none) true).fstate ≠ 4 := by decide +kernel

theorem case_boot_header : ∀ b, b = regionBytes (bankState 4 true none) false false 128 → fwHeaderOk b = true := by
  intro b hb
  have h : regionBytes (bankState 4 true none) false false 128 = fwHead := by decide +kernel
  rw [hb, h, fw_head_ok]

/-- Kiln waits for its conditions. -/
def waiting : State := withF s0 R.KLN_STAT 0 3 1

/-- A window with every clock and supply good. -/
def goodWindow : KilnMeas := ⟨0, 0, 0, State.reset.power.rails⟩

theorem case_kiln_start : RegsOk waiting ∧ kilnState waiting = 1 ∧ kilnWhy waiting goodWindow = 0 ∧ kilnWhy waiting { goodWindow with devB := 20001 } = 2 ∧
    kilnWhy waiting { goodWindow with rails := [] } = 4 ∧ kilnWhy { waiting with bu := { waiting.bu with osc := false } } goodWindow = 1 := by decide +kernel

theorem case_kiln_end : kilnState (withF s0 R.KLN_STAT 0 3 2) = 2 ∧ s0.power.refused = false ∧ RegsOk (withF s0 R.KLN_STAT 0 3 2) ∧ (s0.lanes.get .a).st ≠ .dead ∧ (s0.lanes.get .a).hot = false ∧ loamBank s0 = none ∧
    (({ s0 with lanes := ⟨{ LaneSt.reset with st := .dead }, lane, lane⟩ } : State).lanes.get .a).st = .dead ∧ (⟨3, 80, 1, 0, 0⟩ : KilnFail).unit = 3 := by decide +kernel

/-- A direct run on lane A in progress. -/
def inDirect : State := { up with kiln := { up.kiln with direct := some .a } }

theorem case_direct : klnOpen up .maint = true ∧ (1 : Word).getLsbD 0 = true ∧ laneOf (fld (1 : Word).toNat 1 2) = some .a ∧ directOk up .a = true ∧ (up.lanes.get .a).st = .member ∧
    directOk { up with lanes := ⟨{ lane with st := .out }, lane, lane⟩ } .a = true ∧ directOk inDirect .a = false ∧
    inDirect.kiln.direct = some .a ∧ (inDirect.lanes.get .a).st ≠ .dead ∧ (inDirect.lanes.get .a).st ≠ .out := by decide +kernel

theorem case_kilnreg : (inLcs s0 2).lcs = 2 ∧ (2 ^ 39 : BitVec 40).getLsbD 39 = true ∧ (8 * 2 ^ 32 : BitVec 40).getLsbD 39 = false ∧
    0x110000 + 4 * fld (8 * 2 ^ 32 : BitVec 40).toNat 32 7 = R.KLN_EVDIS ∧ (inLcs s0 3).lcs ≠ 0 ∧ (inLcs s0 3).lcs ≠ 2 ∧
    (0 : BitVec 48).getLsbD 23 = false := by decide +kernel

/-- Debug control is open, with EN set. -/
def dbg : State := withF (inLcs up 2) R.DBG_CTRL 0 1 1

/-- The image of the cases: an entry signal, a field-bound point, an exit signal, a route with its timer, a key and a track section. -/
def img : Loam :=
  { imageId := 1, imageVer := 1, hcrc := 1, certId := [], canary := 6, strata := 1, propmax := 1, signed := []
    elems := [el 3 false [] 0, el 2 true [] 0, el 3 false [] 0, el 5 false [0, 0, 0, 0x800004] 0, el 8 false [] 5, el 9 true [] 0, el 1 false [] 0]
    routes := [⟨0, 0, 2, none, 0, 0⟩], path := [], rules := [], keymap := [⟨5, true, true, true⟩] }

/-- The lanes stand halted. -/
def halted : State := { dbg with dbg := { dbg.dbg with halted := true }, loam := some img }

theorem case_debug : dbgOpen dbg .maint = true ∧ dbg.regBit R.DBG_CTRL 0 = true ∧ dbg.dbg.halted = false ∧ RegsOk dbg ∧ dbgOpen halted .maint = true ∧
    halted.regBit R.DBG_CTRL 0 = true ∧ halted.dbg.halted = true ∧ dbgOpen dbg .pcie = false := by decide +kernel

theorem case_element_write : halted.lcs = 2 ∧ (2 ^ 23 + 1 + 5 * 2 ^ 24 : BitVec 48).getLsbD 23 = true ∧ elemOpen halted (fld (2 ^ 23 + 1 + 5 * 2 ^ 24 : BitVec 48).toNat 0 23) = true ∧
    (halted.lanes.get .a).running = true ∧ Memory.wf (spareByte .a) (halted.lanes.get .a).sram = true ∧ (s0.lanes.get .a).running = false := by decide +kernel

/-! ### The cases of the statements: the host interface -/

/-- Submission ring 2 and completion ring 3, of 16 entries each, enabled and bound; three descriptors wait from index 0. -/
def rings : State :=
  let r := withF (withF (withF (withF (withF s0 (R.HIF_SQ_CFG 2) 0 12 0x134) (R.HIF_CQ_CFG 3) 0 32 0x00000204) (R.HIF_SQ_CTRL 2) 0 1 1) (R.HIF_CQ_CTRL 3) 0 1 1) R.HIF_CTRL 0 1 1
  { r with hif := { r.hif with ready := true, sq := setAt r.hif.sq 2 fun q => { q with tail := 3 } } }

theorem case_doorbells : sqOn rings (2 : BitVec 4).toNat = true ∧ 2 ^ rings.regF (R.HIF_SQ_CFG (2 : BitVec 4).toNat) 0 4 = 16 ∧ (sqAt rings 2).head = 0 ∧ (sqAt rings 2).tail = 3 ∧
    ((3 : Int) - 0) % 16 ≤ ((15 : Int) - 0) % 16 ∧ ¬ ((3 : Int) - 0) % 16 ≤ ((2 : Int) - 0) % 16 ∧ cqOn rings (3 : BitVec 4).toNat = true ∧
    2 ^ rings.regF (R.HIF_CQ_CFG (3 : BitVec 4).toNat) 0 4 = 16 ∧ (cqAt rings 3).head = 0 ∧ (cqAt rings 3).tail = 0 ∧ sqOn s0 0 = false ∧ cqOn s0 0 = false := by decide +kernel

/-- Completion ring 3 is stopping and owes nothing. -/
def stopping : State := updCq rings 3 fun c => { c with stopping := true }

theorem case_ring_enables : sqOn s0 0 = false ∧ (1 : Word).getLsbD 0 = true ∧ (0 : Word).getLsbD 0 = false ∧ cqOn s0 0 = false ∧ sqOn rings 2 = true ∧ cqOn rings 3 = true ∧ RegsOk rings ∧
    rings.regF (R.HIF_SQ_CFG 2) 4 4 = 3 ∧ (∀ k < 16, sqOn s0 k = true → s0.regF (R.HIF_SQ_CFG k) 4 4 ≠ 3) ∧
    (cqAt stopping 3).stopping = true ∧ (cqAt stopping 3).credit = 0 ∧ stopping.hif.held = [] := by decide +kernel

/-- A turn on ring 2 with two reads issued. -/
def turning : State := { rings with hif := { rings.hif with turn := some ⟨2, 2⟩ } }

theorem case_fetch : mayRequest rings = true ∧ rings.regBit R.HIF_CTRL 0 = true ∧ rings.hif.turn = none ∧ nextRing rings = some 2 ∧ s0.regBit R.HIF_CTRL 0 = false ∧
    turning.hif.turn = some ⟨2, 2⟩ ∧ RegsOk turning := by decide +kernel

/-- One completion of ring 2 is held. -/
def owing (imm : Bool) : State :=
  { rings with hif := { rings.hif with held := [{ sq := 2, seq := 0, tag := 7, status := 0, opcode := 6, cycle := 1, result := List.replicate 16 0, imm := imm, buf := 0, data := [], maint := false }] } }

theorem case_completion : mayRequest (owing false) = true ∧ (owing false).hif.held.map (·.imm) = [false] ∧ (owing false).hif.held.map (cqOf (owing false)) = [3] ∧ (cqAt (owing false) 3).unsig + 1 < (owing false).regF (R.HIF_CQ_CFG 3) 8 8 ∧
    RegsOk (owing false) ∧ (owing true).hif.held.map (·.imm) = [true] := by decide +kernel

theorem case_moderation : (withF rings (R.HIF_CQ_CFG 3) 16 16 9).regF (R.HIF_CQ_CFG (3 : BitVec 4).toNat) 16 16 ≠ 0 ∧
    0 < (cqAt (updCq (withF rings (R.HIF_CQ_CFG 3) 16 16 9) 3 fun c => { c with unsig := 1, oldest := some 0 }) (3 : BitVec 4).toNat).unsig := by decide +kernel

theorem case_function : s0.hif.d3hot = false ∧ ({ s0 with hif := { s0.hif with d3hot := true } } : State).hif.d3hot = true ∧ s0.hif.turn = none ∧ s0.hif.held = [] ∧ s0.regBit R.HIF_CTRL 0 = false ∧
    turning.hif.turn = some ⟨2, 2⟩ ∧ s0.evg.fnMask = false ∧ ({ s0 with evg := { s0.evg with vecPend := 4 } } : State).evg.vecPend.getLsbD (2 : BitVec 4).toNat = true ∧
    s0.evg.vecPend.getLsbD (2 : BitVec 4).toNat = false := by decide +kernel

/-! ### The cases of the statements: the Event Gate and register access -/

/-- Sources 5 and 9 pending in the normal class with priorities 3 and 7, source 57 active on the stack with priority 2. -/
def gate : State :=
  let s := { s0 with evg := { s0.evg with pend := withSource (withSource 0 5) 9, active := withSource 0 57, line := withSource 0 57, nstack := [57] } }
  (((s.setReg (R.EVG_NEN 0) 0xFFFFFFFF).setReg (R.EVG_PRIO 0) 0x300000).setReg (R.EVG_PRIO 1) 0x70).setReg (R.EVG_PRIO 7) 0x20

theorem case_candidate : evgCandidate gate .normal = some 9 ∧ evgCandidate gate .fast = none ∧ RegsOk gate ∧ evgStack gate .normal = [57] ∧ (57 : Word).toNat % 128 = 57 ∧ evgIsLevel 57 = true ∧
    evgStack { gate with evg := { gate.evg with nstack := [9] } } .normal = [9] ∧ evgIsLevel 9 = false := by decide +kernel

theorem case_failed_completion : (∀ k rest, evgStack gate .normal = k :: rest → (9 : Word).toNat % 128 ≠ k) ∧ ∀ k rest, evgStack s0 .normal = k :: rest → (9 : Word).toNat % 128 ≠ k :=
  ⟨fun _ _ h => by cases h; decide, fun _ _ h => by cases h⟩

theorem case_level_source : evgIsLevel (70 : BitVec 7).toNat = true ∧ evgIsLevel (71 : BitVec 7).toNat = true := by decide +kernel

/-- SBY_EVTEN: EN in bits 5 to 0, the other bits reserved, no effect of a write beyond its own bits (R364). -/
theorem case_views : RegsOk s0 ∧ writeOpen s0 .pcie = true ∧ R.SBY_EVTEN = plainOf (BitVec.ofNat 22 R.SBY_EVTEN).toNat ∧ R.SBY_EVTEN % 4 = 0 ∧
    rowAt R.SBY_EVTEN = some ⟨"SBY_EVTEN", 0x0C0014, 0x0, 1, 0x0000003F, 0x00000000, 0x00000000, 0xFFFFFFC0, 0x00000000, false, []⟩ ∧
    isWideRw R.SBY_EVTEN = false ∧ isWideRw (R.SBY_EVTEN - 4) = false ∧ (rowAt R.SBY_EVTEN).map (slowOf R.SBY_EVTEN) = some none ∧
    (1 : Word) &&& 0xFFFFFFC0 = s0.reg R.SBY_EVTEN &&& 0xFFFFFFC0 ∧ (0xFFFFFFC0 : Word) &&& 0xFFFF0000 = 0xFFFF0000 := by decide +kernel

theorem case_views_effect : ∀ (u : State) (w : Wr), wrReg u .pcie R.SBY_EVTEN w = putRw u R.SBY_EVTEN w := fun _ _ => rfl

theorem case_unassigned : (inLcs s0 3).lcs ≠ 4 ∧ (0x140000 : BitVec 22).toNat % 4 = 0 ∧ rowAt (plainOf (0x140000 : BitVec 22).toNat) = none ∧ rowAt (plainOf (0x13FFFC : BitVec 22).toNat) = none ∧
    writeOpen s0 .maint = true ∧ 0x140000 ≤ (0x3FFFFF : BitVec 22).toNat ∧ RegsOk s0 := by decide +kernel

/-- GLB_DEVICE has no bits that an alias writes, GLB_SCRATCH has RW bits in both halves, HIF_CTRL has reserved bits. -/
theorem case_refused : writeOpen s0 .pcie = true ∧ ((3 : Nat) ≠ 4 ∧ (3 : Nat) ≠ 8) ∧ (2 : BitVec 22).toNat % 4 ≠ 0 ∧ (4 : BitVec 22).toNat % 8 ≠ 0 ∧ (8 : BitVec 22).toNat % 8 = 0 ∧
    (rowAt (plainOf (BitVec.ofNat 22 R.GLB_DEVICE).toNat)).map (fun r => r.rw ||| r.w1c) = some 0 ∧
    (rowAt (plainOf (BitVec.ofNat 22 R.GLB_SCRATCH).toNat)).map (fun r => (decide (r.rw ||| r.w1c ≠ 0), decide (r.rsvk &&& 0xFFFF0000 ≠ 0xFFFF0000))) = some (true, true) ∧
    (inLcs s0 3).lcs = 3 ∧ (rowAt (plainOf (BitVec.ofNat 22 R.HIF_CTRL).toNat)).map (fun r => decide ((2 : Word) &&& r.rsvk ≠ (inLcs s0 3).reg R.HIF_CTRL &&& r.rsvk)) = some true := by
  decide +kernel

theorem case_wide : (inLcs s0 3).lcs ≠ 4 ∧ R.CYC_TB_LO ∈ [R.GLB_OPTIME_LO, R.CYC_NUM_LO, R.CYC_T0_LO, R.CYC_TB_LO] ∧ RegsOk s0 ∧ writeOpen s0 .pcie = true ∧ chkOpen s0 (0 : BitVec 2).toNat = true := by
  decide +kernel

theorem case_posted : RegsOk s0 ∧ writeOpen s0 .pcie = true ∧ s0.regBit (R.PSTAT 0x12) 0 = false ∧ (60 : Word) &&& 0xFFFFFF00 = s0.reg R.PWR_TEMPCFG &&& 0xFFFFFF00 ∧ s0.posted = [] ∧
    60 ≤ ((60 : Word) &&& 0xFF).toNat ∧ ((125 : Word) &&& 0xFF).toNat ≤ 125 ∧ (0x10000 : Word).getLsbD 16 = true := by decide +kernel

/-! ### The cases of the statements: requests -/

/-- A lane's memory with some words written, at epoch 0. -/
def lw (l : Lane) (ws : List (Nat × Info)) : List Host.Cell := ws.foldl (fun m x => sramPut l m x.1 x.2 (checkField l x.2 0)) []

/-- Three running members in FULL with the image and some element words, in cycle 10. -/
def serving (ws : List (Nat × Info)) : State :=
  { up with level := .full, loam := some img, cyc := { up.cyc with cycle := 10, started := true }
            lanes := ⟨{ lane with sram := lw .a ws }, { lane with sram := lw .b ws }, { lane with sram := lw .c ws }⟩ }

/-- The same with the key of element 5 turned (R51). -/
def keyed (ws : List (Nat × Info)) : State :=
  let s := serving ((5, 0x72000) :: ws)
  s.updLanes fun _ x => { x with logicPrev := true, stepped := [5] }

/-- A change of every lane. -/
def lanesWith (s : State) (f : LaneSt → LaneSt) : State := s.updLanes fun _ x => f x

/-- A request from the host with its argument bytes. -/
def rq (args : Bytes) : Req :=
  { sq := 0, index := 0, seq := 1, tag := 2, flags := 0, bufaddr := 0, length := 0, args := padTo 44 args, bufFailed := false, maint := false }

/-- The same with a buffer. -/
def rqb (args : Bytes) (n : Word) : Req := { rq args with bufaddr := 64, length := n }

/-- The request names element i. -/
def rqe (i : Byte) (more : Bytes) : Req := rq ([i, 0, 0, 0] ++ more)

theorem sramOk_of {s : State} (h : ∀ l ∈ allLanes, Memory.wf (spareByte l) (s.lanes.get l).sram = true) : SramOk s := fun l => by cases l <;> exact h _ (by decide)

theorem sramWord_spare {l : Lane} {m : List Host.Cell} {j : Nat} (h : ∀ c ∈ m, c.1 < 6 * j) : sramWord l m j = codedWord 0 (baseL l) := by
  have g : ∀ k, 6 * j ≤ k → cellGet (spareByte l) k m = spareByte l k := by
    intro k hk
    induction m with
    | nil => rfl
    | cons c t ih =>
      have hc := h c List.mem_cons_self
      have : c.1 ≠ k := by omega
      obtain ⟨a, b⟩ := c
      simp only [cellGet]
      rw [if_neg (by simpa using this), ih fun d hd => h d (List.mem_cons_of_mem _ hd)]
  have e : ∀ i, (6 * j + i) % 6 = i % 6 := fun i => by omega
  simp only [sramWord, bytesGet, Nat.add_assoc]
  rw [g _ (le_refl _), g _ (by omega), g _ (by omega), g _ (by omega), g _ (by omega), g _ (by omega)]
  simp only [spareByte, e, Nat.mul_mod_right]
  cases l <;> decide

theorem loadsOk_of {m : Loam} {s : State} (h : ∀ l ∈ allLanes, ((s.lanes.get l).sram.all fun c => decide (c.1 < 6 * m.elems.length)) = true ∧
    ∀ j < m.elems.length, loadOk (ctxOf s l) m (s.lanes.get l) j = true) : LoadsOk m s := by
  intro l j _
  obtain ⟨h1, h2⟩ := h l (by cases l <;> decide)
  by_cases hj : j < m.elems.length
  · exact h2 j hj
  · rw [loadOk, loadChecked, if_neg hj, beq_iff_eq]
    exact sramWord_spare fun c hc => by have := of_decide_eq_true (List.all_eq_true.1 h1 c hc); have hk : m.elems.length ≤ j := Nat.le_of_not_lt hj; omega

theorem ctlIdle_of {s : State} (h : ∀ l ∈ allLanes, ((s.lanes.get l).unit ctlUnit).delay = []) : CtlIdle s := fun l _ => by cases l <;> exact h _ (by decide)

theorem ready_of {op : BitVec 16} {q : Req} {s : State} (h : q.maint = false ∧ s.loam = some img ∧ reqIndex q < img.elems.length ∧ (∀ l ∈ allLanes, (s.lanes.get l).cx = none ∧ ((s.lanes.get l).unit ctlUnit).delay = []) ∧
    engineFirst op q s = none ∧ ∀ l ∈ allLanes, loadOk (ctxOf s l) img (s.lanes.get l) (reqIndex q) = true) : Ready op q img s :=
  ⟨h.1, h.2.1, h.2.2.1, fun l => by cases l <;> exact (h.2.2.2.1 _ (by decide)).1, fun l _ => by cases l <;> exact (h.2.2.2.1 _ (by decide)).2, h.2.2.2.2.1, fun l _ => by cases l <;> exact h.2.2.2.2.2 _ (by decide)⟩

/-- The point of the image is PROVEN and FREE, claimed, or faulted. -/
theorem case_point : (∀ ws ∈ [[((1 : Nat), (0xC00000 : Info))], [(1, 0x080000)], []], SramOk (serving ws) ∧ Ready opPointMove (rqe 1 [1]) img (serving ws)) ∧
    Ready opPointMove (rqe 0 [1]) img (serving []) := by
  refine ⟨fun ws h => ?_, ready_of (by decide +kernel)⟩
  rcases List.mem_cons.1 h with rfl | h
  · exact ⟨sramOk_of (by decide +kernel), ready_of (by decide +kernel)⟩
  · rcases List.mem_cons.1 h with rfl | h
    · exact ⟨sramOk_of (by decide +kernel), ready_of (by decide +kernel)⟩
    · rcases List.mem_singleton.1 h with rfl
      exact ⟨sramOk_of (by decide +kernel), ready_of (by decide +kernel)⟩

theorem case_point_words : (img.elem 1).field = true ∧ (img.elem 1).ty = tyPnt ∧ (img.elem 0).field = false ∧ (img.elem 0).ty ≠ tyPnt ∧
    (∀ l ∈ allLanes, claimOf (ctxOf (serving [(1, 0xC00000)]) l) ((serving [(1, 0xC00000)]).lanes.get l) 1 = 0 ∧
      statusOf (ctxOf (serving [(1, 0xC00000)]) l) ((serving [(1, 0xC00000)]).lanes.get l) 1 = 3 ∧
      claimOf (ctxOf (serving [(1, 0x080000)]) l) ((serving [(1, 0x080000)]).lanes.get l) 1 ≠ 0 ∧
      statusOf (ctxOf (serving []) l) ((serving []).lanes.get l) 1 ≠ 3) := by decide +kernel

theorem case_signal : Ready opRestore (rqe 0 []) img (serving []) ∧ (img.elem 0).ty = tySig ∧ Ready opRestore (rqe 1 []) img (serving []) ∧ (img.elem 1).ty ≠ tySig :=
  ⟨ready_of (by decide +kernel), by decide, ready_of (by decide +kernel), by decide⟩

theorem case_block : (rqe 1 []).args.length = 44 ∧ (img.elem 1).ty ≠ tyNone ∧ Ready opBlock (withAction (rqe 1 []) 1) img (serving []) ∧ Ready opBlock (withAction (rqe 1 []) 0) img (serving []) ∧
    Ready opBlock (withAction (rqe 1 []) 2) img (serving []) ∧ Ready opBlock (withAction (rqe 1 []) 2) img (keyed []) ∧ Ready opBlock (withAction (rqe 1 []) 2) img (keyed [(1, 0x400000)]) ∧ SramOk (keyed []) :=
  ⟨by decide, by decide, ready_of (by decide +kernel), ready_of (by decide +kernel), ready_of (by decide +kernel), ready_of (by decide +kernel), ready_of (by decide +kernel), sramOk_of (by decide +kernel)⟩

theorem case_block_key : ∀ l ∈ allLanes, keyAuthority (ctxOf (serving []) l) img ((serving []).lanes.get l) (·.reset) = false ∧
    keyAuthority (ctxOf (keyed []) l) img ((keyed []).lanes.get l) (·.reset) = true ∧ statusOf (ctxOf (keyed []) l) ((keyed []).lanes.get l) 1 = 0 ∧
    statusOf (ctxOf (keyed [(1, 0x400000)]) l) ((keyed [(1, 0x400000)]).lanes.get l) 1 ≠ 0 := by decide +kernel

/-- A wave record in use. -/
def wave (n : Nat) : Wave :=
  { num := BitVec.ofNat 8 n, st := .searching, rte := 3, age := 0, accepted := 1, wait := false, altok := false, cancel := false, fail := 0, failElem := none, trail := [],
    part := .path, here := 0, inPort := 0, dirUp := true, stepNo := 0, fwd := 0, flanks := [], retreat := .retry, committed := 0, req := rqe 3 [], copied := false }

/-- The lanes with every record in use. -/
def full256 : State := lanesWith (serving []) fun x => { x with reg := { x.reg with waves := (List.range 256).map wave } }

theorem case_route_set : Ready opRouteSet (rqe 3 []) img (serving []) ∧ Ready opRouteSet (rqe 3 []) img full256 ∧ (img.elem 3).ty = tyRte ∧
    (∀ l ∈ allLanes, rowOk img ((serving []).lanes.get l) 3 = true ∧ rstateOf (ctxOf (serving []) l) ((serving []).lanes.get l) 3 = 0 ∧ freeRecord ((serving []).lanes.get l) = some 0) ∧
    ∀ l ∈ allLanes, freeRecord (full256.lanes.get l) = none :=
  ⟨ready_of (by decide +kernel), ready_of (by decide +kernel), by decide, by decide +kernel, by decide +kernel⟩

/-- The route of the image in a state of R107, with the word of element 3. -/
theorem case_route_cancel : timerOf img 3 = some 4 ∧ (∀ w ∈ [(0x300 : Info), 0x284, 0, 0x380], Ready opRouteCancel (rqe 3 []) img (serving [(3, w)])) ∧
    ∀ l ∈ allLanes, (rowOf img ((serving []).lanes.get l) 3).entry = 0 ∧ (∀ j < 7, loadOk (ctxOf (serving [(3, 0x300)]) l) img ((serving [(3, 0x300)]).lanes.get l) j = true) ∧
      rstateOf (ctxOf (serving [(3, 0x300)]) l) ((serving [(3, 0x300)]).lanes.get l) 3 = 6 ∧ rstateOf (ctxOf (serving [(3, 0x284)]) l) ((serving [(3, 0x284)]).lanes.get l) 3 = 5 ∧
      wfld (ctxOf (serving [(3, 0x284)]) l) ((serving [(3, 0x284)]).lanes.get l) 3 2 1 = 1 ∧ rstateOf (ctxOf (serving [(3, 0x380)]) l) ((serving [(3, 0x380)]).lanes.get l) 3 = 7 := by
  refine ⟨by decide, fun w h => ?_, by decide +kernel⟩
  fin_cases h <;> exact ready_of (by decide +kernel)

theorem case_emergency : Ready opEmergency (rqe 3 []) img (serving [(3, 0x180)]) ∧ (∀ w ∈ [(0x180 : Info), 0x380], Ready opEmergency (rqe 3 []) img (keyed [(3, w)])) ∧
    ∀ l ∈ allLanes, keyAuthority (ctxOf (serving []) l) img ((serving []).lanes.get l) (·.erelease) = false ∧ keyAuthority (ctxOf (keyed []) l) img ((keyed []).lanes.get l) (·.erelease) = true ∧
      rstateOf (ctxOf (keyed [(3, 0x180)]) l) ((keyed [(3, 0x180)]).lanes.get l) 3 = 3 ∧ rstateOf (ctxOf (keyed [(3, 0x380)]) l) ((keyed [(3, 0x380)]).lanes.get l) 3 = 7 := by
  refine ⟨ready_of (by decide +kernel), fun w h => ?_, by decide +kernel⟩
  fin_cases h <;> exact ready_of (by decide +kernel)

/-- An image whose timer may be changed, and a request that names it with a value. -/
def img2 : Loam := { img with elems := img.elems.set 4 (el 8 false [] 0x80000005) }
def tuning : State := { serving [] with loam := some img2 }
def propose (v : Byte) (tag : Bytes) : Req := rqe 4 ([v, 0, 0, 0x80] ++ tag)

/-- An open proposal of element 4, for 9. -/
def proposal : Proposal := { elem := 4, value := 0x80000009, ptag := 8, cycle := 8 }

theorem case_parameters : reqIndex (propose 9 []) = 4 ∧ reqArg (propose 9 []) 24 4 = 0x80000009 ∧ tuning.loam = some img2 ∧ (∀ l ∈ allLanes, (tuning.lanes.get l).cx = none) ∧
    malformed opPropose (propose 9 []) = false ∧ malformed opConfirm (propose 9 [8, 0]) = false ∧ 4 < img2.elems.length ∧ paramRangeOk (img2.elem 4).ty 0x80000009 = true ∧ (propose 9 []).maint = false ∧
    tuning.upd.recovery = false ∧ tuning.level = .full ∧ (∀ l ∈ allLanes, (ctxOf tuning l).standby = false) ∧ changeOk (img2.elem 4).ty (img2.elem 4).param0.toNat 0x80000009 = true ∧
    (∀ l ∈ allLanes, (tuning.lanes.get l).reg.proposal = none ∧ (tuning.lanes.get l).reg.overrides.length < 4096) ∧
    proposal.cycle ≠ tuning.cyc.cycle ∧ names (propose 9 [8, 0]) proposal = true ∧ names (propose 7 [8, 0]) proposal = false := by decide +kernel

theorem case_element_read : malformed opRead (rqe 1 [1, 0]) = false ∧ malformed opRead { rqe 1 [2, 0] with bufaddr := 64, length := 16 } = false ∧
    reqIndex (rqe 1 [2, 0]) + reqArg (rqe 1 [2, 0]) 24 2 ≤ img.elems.length ∧ (∀ l ∈ allLanes, ∀ j < img.elems.length, loadOk (ctxOf (serving []) l) img ((serving []).lanes.get l) j = true) ∧
    (rqe 1 []).maint = false := by decide +kernel

theorem case_first : engineFirst opRouteSet (rqe 3 []) (serving []) = none ∧ engineFirst opRouteSet (rqe 3 []) { serving [] with level := .stopped } = some stLevel ∧
    engineFirst opRouteSet (rqe 3 []) { serving [] with level := .bedrock } = some stLevel ∧ engineFirst opRouteSet { rqe 3 [] with maint := true } (serving []) = some stPort ∧
    engineFirst opRouteSet (rqe 3 []) { serving [] with upd := { s0.upd with recovery := true } } = some stState ∧
    engineFirst opRouteSet (rqe 3 []) { serving [] with sby := { s0.sby with takeover := some 10 } } = some stState ∧
    paramFirst opPropose (propose 9 []) tuning = none ∧ paramFirst opPropose (propose 9 []) { tuning with level := .reduced } = some stLevel := by decide +kernel

theorem case_checks : ([opRouteSet, opRouteCancel, opEmergency, opPointMove, opRestore, opBlock].all fun op => allLanes.all fun l => firstChecks (ctxOf (serving []) l) op (rqe 9 []) == some stMalformed) = true ∧
    ([opRecord, opOpen, opWrite, opClose, opActivate, opHealth, opRelease, opRejoin, opAttest, opMode, opSwitch].all fun op => malformed op { rq [] with flags := 2 }) = true ∧
    (0x71 : BitVec 16) ∉ [opRouteSet, opRouteCancel, opEmergency, opPointMove, opRestore, opRead, opBlock, opPropose, opConfirm, opRecord, opOpen, opWrite, opClose, opActivate, opHealth, opRelease,
      opRejoin, opAttest, opMode, opSwitch] := by decide +kernel

/-! ### The cases of the statements: requests that the module judges, and updates -/

/-- Cycle 8 after reset with the image loaded, in STOPPED and SERVICE. -/
def leaving : State := { inLcs up 3 with loam := some img, cyc := { up.cyc with cycle := 8 } }

/-- The active of a pair with an eligible partner. -/
def active : State :=
  { serving [] with sby := { s0.sby with
      role := .active, pairenNow := true
      partner := some { level := 3, role := 2, elig := true, imageId := 1, imageVer := 1, hcrc := 1, pairfmt := 0, tcyc := 50, cycle := 1, t0Diff := 0 } } }

theorem case_mode : malformed opMode (rq [3]) = false ∧ (rq [3]).maint = false ∧ leaving.upd.recovery = false ∧ 2 ≤ reqArg (rq [2]) 20 1 ∧ mayLeave leaving = true ∧ mayLeave s0 = false ∧
    malformed opMode (rq [0]) = false ∧ reqArg (rq [0]) 20 1 = 0 ∧ (keyed []).level ≠ .stopped ∧ (keyed []).loam = some img ∧
    keyAuthority (ctxOf (keyed []) (judgeLane (keyed []))) img ((keyed []).lanes.get (judgeLane (keyed []))) (·.stop) = true ∧
    keyAuthority (ctxOf (serving []) (judgeLane (serving []))) img ((serving []).lanes.get (judgeLane (serving []))) (·.stop) = false := by decide +kernel

theorem case_switch : malformed opSwitch (rq []) = false ∧ active.upd.recovery = false ∧ active.sby.pairenNow = true ∧ active.level.serves = true ∧ active.sby.role = .active ∧
    active.sby.takeover ≠ some active.cyc.cycle ∧ (active.sby.partner.map (·.elig)) = some true ∧ active.sby.handover = none := by decide +kernel

/-- Lane C is out. -/
def twoLanes : State := { serving [] with level := .reduced, lanes := ⟨lane, lane, LaneSt.reset⟩ }

theorem case_lane_requests : malformed opRelease (rq [2]) = false ∧ reqArg (rq [2]) 20 1 = laneNo .c ∧ (serving []).level = .full ∧ twoLanes.level ≠ .full ∧ malformed opRejoin (rq [2]) = false ∧
    twoLanes.level = .reduced ∧ 2 ≤ setSize (memberSet twoLanes) ∧ (twoLanes.lanes.get .c).st = .out ∧ (twoLanes.lanes.get .c).running = false ∧ twoLanes.group.rejoin = none ∧
    twoLanes.group.proof = none ∧ ({ twoLanes with level := .bedrock } : State).level = .bedrock ∧ RegsOk twoLanes ∧ twoLanes.upd.recovery = false := by decide +kernel

/-- The snapshot of an idle cycle. -/
def snap : Snap :=
  { cycle := 10, tb := 0, verdict := none, descs := [], etlF := [], etlR := [], can := [], vio := none, newTick := false, holdLost := false, set := Settings.reset, recOldest := 5,
    recNewest := 9, upd := Progress.reset, copies := [], align := false, brks := [], halt := false, shown := [] }

/-- LOGIC is about to begin in STOPPED, with one request in the snapshot. -/
def heldLogic (op : BitVec 16) (q : Req) : State :=
  { up with cyc := { up.cyc with started := true, cycle := 10 } }.updLanes fun _ x => { x with snap := some { snap with descs := [(op, q)] }, decided := true, place := .entry }

theorem logicHolds_of {l : Lane} {op : BitVec 16} {q : Req} (h : consensusOpen (heldLogic op q) = false) : LogicHolds l op q [] (heldLogic op q) := by
  refine ⟨fun k => ?_, Or.inl rfl, h, ?_, ?_, ?_, ?_, ⟨{ snap with descs := [(op, q)] }, ?_, rfl⟩, rfl, rfl, rfl⟩
  · cases k <;> exact ⟨rfl, rfl, rfl⟩
  all_goals cases l <;> rfl

/-- A ROUTE_SET and an ATTEST from PORT_MAINT in that LOGIC. -/
theorem case_logic_holds (l : Lane) : LogicHolds l opRouteSet { rqe 3 [] with maint := true } [] (heldLogic opRouteSet { rqe 3 [] with maint := true }) ∧
    LogicHolds l opAttest { rqb [] 1024 with maint := true } [] (heldLogic opAttest { rqb [] 1024 with maint := true }) ∧
    malformed opRouteSet { rqe 3 [] with maint := true } = false ∧ (heldLogic opRouteSet { rqe 3 [] with maint := true }).loam = none :=
  ⟨logicHolds_of (by decide +kernel), logicHolds_of (by decide +kernel), by decide +kernel, rfl⟩

/-- A request for two records from a number. -/
def rqr (n : Byte) : Req := rqb [n, 0, 0, 0, 2, 0] 64

/-- The snapshot holds records 5 to 9; of 30 none is returned; with no block written every record reads as an empty slot. -/
theorem case_records : malformed opRecord (rqr 6) = false ∧ (rqr 6).maint = false ∧ recordRange snap.recOldest snap.recNewest (BitVec.ofNat 32 (reqArg (rqr 6) 20 4)) (reqArg (rqr 6) 24 2) = some (6, 2) ∧
    recordRange snap.recOldest snap.recNewest (BitVec.ofNat 32 (reqArg (rqr 30) 20 4)) (reqArg (rqr 30) 24 2) = none := by decide +kernel

theorem case_attest : malformed opAttest (rqb [] 1024) = false ∧ (serving []).level = .full ∧ (rqb [] 1024).maint = false ∧ (serving []).lcs ≠ 4 ∧ (serving []).group.upd.attesting = false ∧
    ({ serving [] with group := { s0.group with upd := { s0.group.upd with attesting := true } } } : State).group.upd.attesting = true := by decide +kernel

/-- UPDATE_OPEN for 1,024 bytes of firmware, and a session that it opened. -/
def rqOpen : Req := rq [0, 4, 0, 0, 0]
def sess : Sess := { num := 1, loam := false, maint := false, bank := true, total := 1024, recv := 64, erased := true, lastAt := 0, waiting := [] }
def withSess (x : Sess) (s : State) : State :=
  { s with upd := { s.upd with sess := some x, booted := some false }
           group := { s.group with upd := { s.group.upd with sess := some { num := x.num, loam := x.loam, maint := x.maint, total := x.total, recv := x.recv } } } }

/-- What the lanes know of the update engine. -/
def knows (f : Progress → Progress) (s : State) : State := { s with group := { s.group with upd := f s.group.upd } }

/-- A waiting write of 64 bytes at offset 64. -/
def rqWrite : Req := rqb [1, 0, 0, 0, 64, 0, 0, 0] 64

theorem case_records_stored : recordBad (recordBytes 1 0 0 6 0 0 []) = false ∧
    ∀ k < 2, recordBad (recordAt { s0 with shale := { s0.shale with buf := [recordBytes 1 0 0 6 0 0 [], recordBytes 1 0 0 7 0 0 []] } } ((6 : Word) + BitVec.ofNat 32 k)) = false := by decide +kernel

theorem case_update_open : malformed opOpen rqOpen = false ∧ totalOk rqOpen = true ∧ (serving []).level = .full ∧ updPort (serving []) rqOpen = true ∧ (serving []).lcs ≠ 4 ∧ openLoam rqOpen = false ∧
    (serving []).group.upd.trial = none ∧ (serving []).upd.activate = false ∧ ({ serving [] with upd := { s0.upd with booted := some false } } : State).upd.booted = some false ∧
    (withSess sess (serving [])).upd.sess = some sess ∧ (withSess sess (serving [])).group.upd.sess ≠ none ∧ (serving []).group.upd.sess = none ∧ (serving []).power.pfw = false ∧ s0.upd.erasing = none ∧
    openLoam (rq [0, 4, 0, 0, 1]) = true ∧ totalOk (rq [0, 4, 0, 0, 1]) = true ∧ totalOk (rq [0]) = false ∧ updPort (inLcs (serving []) 3) { rqOpen with maint := true } = false := by decide +kernel

theorem case_update_write : sess.num = reqArg rqWrite 20 2 ∧ sess.maint = rqWrite.maint ∧ malformed opWrite rqWrite = false ∧ reqArg rqWrite 24 4 + rqWrite.length.toNat ≤ sess.total ∧
    reqArg rqWrite 24 4 = sess.recv ∧ reqArg rqWrite 24 4 ≠ { sess with recv := 0 }.recv ∧ (namedSession (withSess sess (serving [])) rqWrite).map (·.recv) = some 64 ∧
    namedSession (serving []) rqWrite = none ∧ { sess with total := 100 }.total < reqArg rqWrite 24 4 + rqWrite.length.toNat := by decide +kernel

/-- A session whose bytes have all been received; bank 1 holds the header of `bankState`. -/
def received : State := withSess { sess with recv := 1024 } { serving [] with stored := { s0.stored with mem1 := bytesPut erasedByte [] 0 fwHead } }

theorem case_update_close : malformed opClose (rq [1]) = false ∧ sess.num = reqArg (rq [1]) 20 2 ∧ sess.recv < sess.total ∧ { sess with recv := 1024 }.total ≤ { sess with recv := 1024 }.recv ∧
    closeCheck received { sess with recv := 1024 } = 0 := by
  have h : regionBytes received true false 128 = fwHead := by decide +kernel
  refine ⟨by decide +kernel, by decide +kernel, by decide +kernel, by decide +kernel, ?_⟩
  simp only [closeCheck, sess, Bool.false_eq_true, if_false, h, fw_head_ok]
  decide +kernel

theorem case_update_close_bad : closeCheck { received with stored := { s0.stored with mem1 := [] } } { sess with recv := 1024 } ≠ 0 := by decide +kernel

theorem case_update_activate : malformed opActivate (rq [1]) = false ∧ updPort (serving []) (rq [1]) = true ∧
    (knows (fun y => { y with readyF := [(1, true)] }) (serving [])).group.upd.readyF.find? (·.1 == reqArg (rq [1]) 20 2) = some (1, true) ∧ (serving []).sby.role ≠ .active ∧
    (knows (fun y => { y with readyL := [(1, true)] }) up).group.upd.readyL.find? (·.1 == reqArg (rq [1]) 20 2) = some (1, true) ∧ up.group.upd.readyF = [] ∧ up.level = .stopped ∧ up.upd.recovery = false ∧
    updPort up (rq [1]) = true ∧ active.sby.role = .active ∧ active.sby.partner.map (·.elig) = some true := by decide +kernel

theorem case_update_health : malformed opHealth (rq []) = false ∧ (knows (fun y => { y with trial := some true, trialEnd := 120000000 }) (serving [])).group.upd.trial = some true ∧
    (serving []).cyc.lastT0 < 120000000 ∧ updPort (serving []) (rq []) = true ∧ twoLanes.level = .reduced ∧ malformed opActivate (rq []) = false := by decide +kernel

theorem case_engine : MemoryOk (withSess { sess with erased := false, waiting := [(opOpen, rqOpen, [])] } s0) ∧ MemoryOk (withSess { sess with waiting := [(opWrite, rqWrite, List.replicate 64 1)] } s0) ∧
    s0.power.pfw = false ∧ s0.upd.sess = none ∧ s0.upd.trial = none := by decide +kernel

/-- The header of a Loam image of one element without a type, up to its CRC-32C, in pieces of 42 bytes. -/
def loamPieces : List Bytes :=
  [[76, 79, 65, 77, 1, 0, 0, 1, 0, 0, 0, 0, 0, 0, 0, 0, 0, 0, 0, 0, 1, 0, 0, 0, 0, 0, 0, 0, 0, 0, 0, 0, 0, 0, 0, 0, 1, 1, 2, 0, 1, 0],
   [0, 0, 0, 1, 0, 0, 32, 0, 0, 0, 170, 54, 145, 138, 4, 0, 0, 0, 64, 1, 0, 0, 0, 0, 0, 0, 0, 0, 0, 0] ++ List.replicate 12 0,
   List.replicate 42 0, List.replicate 42 0, [70] ++ List.replicate 41 0, List.replicate 42 0]

/-- The image; it passes every check of R106. -/
def loamBytes : Bytes := loamPieces.flatten ++ leBytes 4 1957906011 ++ List.replicate (64 + 384) 0

theorem crc_steps : [(0xFFFFFFFF : Word), 0x524b67c8, 0x31c6426b, 0x5c7175b3, 0xd1849941, 0x9b735545].zipWith (fun c b => b.foldl (crcByteR 0x82F63B78) c) loamPieces =
    [0x524b67c8, 0x31c6426b, 0x5c7175b3, 0xd1849941, 0x9b735545, 0x8b4cb9a4] := by decide +kernel

theorem loam_crc : crc32c loamPieces.flatten = 1957906011 := by
  have h := crc_steps
  simp only [loamPieces, List.zipWith_cons_cons, List.zipWith_nil_left, List.cons.injEq] at h
  simp only [crc32c, loamPieces, List.flatten_cons, List.flatten_nil, List.append_nil, List.foldl_append, h.1, h.2.1, h.2.2.1, h.2.2.2.1, h.2.2.2.2.1, h.2.2.2.2.2.1]
  decide

theorem loam_head_ok : loamHeaderOk loamBytes = true := by
  have h : loamBytes.take 0xFC = loamPieces.flatten := by decide +kernel
  rw [loamHeaderOk, h, loam_crc]; decide +kernel

theorem loam_sects_ok : loamSectsOk loamBytes (parseLoam loamBytes) = true := by decide +kernel
theorem loam_limits_ok : loamLimitsOk loamBytes = true := by decide +kernel
theorem loam_entries_ok : loamEntriesOk loamBytes (parseLoam loamBytes) = true := by decide +kernel
theorem loam_rest_ok : ((parseLoam loamBytes).rules.all ruleOk && (sweepCost (parseLoam loamBytes) == leAt loamBytes 0xA8 4) && decide (sweepCost (parseLoam loamBytes) ≤ 1440000)) = true := by decide +kernel

theorem case_loam : loamTables loamBytes = some (parseLoam loamBytes) ∧ s0.upd.load = none ∧
    ({ s0 with upd := { s0.upd with load := some (true, rq [1]) } } : State).upd.load = some (true, rq [1]) := by
  have h := loam_rest_ok
  simp only [Bool.and_eq_true] at h
  refine ⟨?_, by decide +kernel, by decide +kernel⟩
  simp [loamTables, loam_head_ok, loam_sects_ok, loam_limits_ok, loam_entries_ok, h.1.1, h.1.2, of_decide_eq_true h.2]

/-- A transition token to PROVISIONED in MANUFACTURE, and a key load in DEVELOPMENT (R407). -/
def withToken (w1 w4 : Word) (s : State) : State :=
  { ((s.setReg (R.UPD_TOKEN 0) 0x434C4B53).setReg (R.UPD_TOKEN 1) w1).setReg (R.UPD_TOKEN 4) w4 with upd := { s.upd with tokenBusy := true } }

theorem case_token : (1 : Word).getLsbD 0 = true ∧ s0.upd.tokenBusy = false ∧ (withToken 0x101 0 s0).upd.tokenBusy = true ∧ RegsOk (withToken 0x101 0 s0) ∧
    tokenFail (withToken 0x101 0 s0) (tokenBytes (withToken 0x101 0 s0)) true = 0 ∧ leAt (tokenBytes (withToken 0x101 0 s0)) 4 1 = 1 ∧
    tokenFail (withToken 0x101 0 s0) (tokenBytes (withToken 0x101 0 s0)) false ≠ 0 ∧ s0.power.pfw = false := by decide +kernel

/-! ### The cases of the statements: the cycle -/

/-- A snapshot that names three members. -/
def vsnap : Snap := { snap with verdict := some { members := 7, agree := 7, excluded := 0, check := some (requiredCheck 7 9), voted := 7, before := 7, cycle := 9 } }

/-- Each lane holds that snapshot and equal digests, and has ended CONSENSUS. -/
def decidedLanes (sn : Snap) (x : LaneSt) : LaneSt := { x with snap := some sn, digests := ⟨some 5, some 5, some 5⟩, decided := true }

def cycling (sn : Snap) : State := { lanesWith (serving []) (decidedLanes sn) with snap := some sn, sieve := { s0.sieve with members := 7 } }

theorem noHalt_of {s : State} (h : ∀ l ∈ allLanes, laneDbg s l = false ∧ (s.lanes.get l).passHalt = false ∧ (s.lanes.get l).dbgHold = false) : NoHalt s :=
  fun l => by cases l <;> exact h _ (by decide)

theorem case_boundary : t0Due s0 = false ∧ t0Due (serving []) = true ∧ (serving []).upd.activate = false ∧ ({ serving [] with upd := { s0.upd with activate := true } } : State).upd.activate = true ∧
    (serving []).cyc.started = true ∧ (serving []).level ≠ .stopped ∧ t0Due { up with cyc := { s0.cyc with timeBase := 1000000 } } = true ∧
    t0Due { up with loam := some img } = true ∧ up.cyc.started = false ∧ up.group.release = [] ∧ up.group.rejoin = none ∧ up.group.directLeave = none ∧ up.group.modeTo = none ∧ up.loamNext = none ∧
    (∀ l ∈ allLanes, (up.lanes.get l).running = true) ∧ up.loam.isNone = true := by decide +kernel

/-- The snapshot stands ready and no lane has it yet. -/
def offered : State := { serving [] with snap := some vsnap }

theorem case_snapshot : NoHalt offered ∧ offered.snap = some vsnap ∧ (offered.lanes.get .a).running = true ∧ (offered.lanes.get .a).snap = none ∧ (offered.lanes.get .a).st ≠ .silent ∧
    (vsnap.verdict.map fun v => inSet v.members .b) = some true ∧ (offered.lanes.get .a).digests.get .b = none ∧ (s0.lanes.get .a).running = false :=
  ⟨noHalt_of (by decide +kernel), by decide +kernel, by decide +kernel, by decide +kernel, by decide +kernel, by decide +kernel, by decide +kernel, by decide +kernel⟩

/-- Lane A has its own digest and lane C's; lane B's is still to come. -/
def digesting (d : DWord) : State := offered.updLane .a fun x => { x with snap := some vsnap, digests := ⟨some (snapDigest vsnap), none, some d⟩ }

theorem case_digest (d : DWord) : Lane.b ≠ .a ∧ ((digesting d).lanes.get .a).running = true ∧ ((digesting d).lanes.get .a).decided = false ∧ ((digesting d).lanes.get .a).snap = some vsnap ∧
    ((digesting d).lanes.get .a).digests.get .a = some (snapDigest vsnap) ∧ ((digesting d).lanes.get .a).digests.get .c = some d ∧ snapDigest vsnap + 1 ≠ snapDigest vsnap ∧
    inSet (7 : BitVec 3) .a = true ∧ inSet (7 : BitVec 3) .b = true ∧ inSet (7 : BitVec 3) .c = true :=
  ⟨by decide, rfl, rfl, rfl, rfl, rfl, fun h => absurd (add_eq_left.1 h) (by decide), by decide, by decide, by decide⟩

theorem case_deadline : (cycling vsnap).cyc.started = true ∧ (cycling vsnap).cyc.consensusDone = false ∧ anyHold (cycling vsnap) = false ∧
    (∀ l ∈ allLanes, (((cycling vsnap).lanes.get l).snap.isSome = true ∧ ((cycling vsnap).lanes.get l).decided = true) ∧ ((cycling vsnap).lanes.get l).running = true) ∧
    bedrockCauses (cycling vsnap) = [] ∧ 2 ≤ setSize (railLow (cycling vsnap) (cycling vsnap).sieve.members) ∧ (cycling vsnap).sieve.digests = ⟨none, none, none⟩ ∧
    (cycling { vsnap with holdLost := true }).snap.map (·.holdLost) = some true ∧ 2 ≤ setSize (memberSet (cycling { vsnap with holdLost := true })) ∧
    consensusHeld (cycling { vsnap with holdLost := true }) = true ∧ (serving []).level.serves = true := by decide +kernel

/-- In STOPPED without an image, CONSENSUS has ended. -/
def idling : State := { lanesWith up (decidedLanes vsnap) with snap := some vsnap }

theorem case_logic : NoHalt idling ∧ idling.level = .stopped ∧ idling.loam = none ∧ (∀ l ∈ allLanes, (idling.lanes.get l).running = true ∧ (idling.lanes.get l).st = .member ∧ (idling.lanes.get l).decided = true ∧
      (idling.lanes.get l).cx = none ∧ (idling.lanes.get l).snap = some vsnap ∧ (idling.lanes.get l).place = .entry ∧ (idling.lanes.get l).dbgHold = false) ∧ vsnap.descs = [] ∧ idling.group.shown = [] :=
  ⟨noHalt_of (by decide +kernel), by decide +kernel, by decide +kernel, by decide +kernel, by decide +kernel, by decide +kernel⟩

/-- An image of a timer, a point, a crossing and a field-bound signal, each with a program that ends at once; the point and the crossing stand at the last time unit of a movement, and the signal at its second mismatch. -/
def img3 : Loam := { img with rules := [0], elems := [el 8 false [] 5, { el 2 true [] 9 with ruleLen := 1 }, { el 4 true [] 7 with ruleLen := 1 }, { el 3 true [] 0xFFFF with ruleLen := 1 }] }
def timing : State := { serving [(0, 0x20001), (1, 0x000088), (2, 0x000086), (3, 0x000082)] with loam := some img3 }

theorem case_timers : SramOk timing ∧ timing.loam = some img3 ∧ (img3.elem 0).ty = tyTmr ∧ (img3.elem 1).ty = tyPnt ∧ (img3.elem 2).ty = tyXng ∧ (img3.elem 3).ty = tySig ∧ (img3.elem 3).field = true ∧ logicLive timing = true ∧
    (∀ l ∈ allLanes, (timing.lanes.get l).cx = none ∧ ((timing.lanes.get l).unit ctlUnit).delay = [] ∧ (∀ j < 4, loadOk (ctxOf timing l) img3 (timing.lanes.get l) j = true ∧ countedNow (timing.lanes.get l) j = false) ∧
      wfld (ctxOf timing l) (timing.lanes.get l) 0 17 2 = 1 ∧ timerFields 0 (ctxOf timing l) img3 (timing.lanes.get l) ≠ [] ∧ moveFields 1 (ctxOf timing l) img3 (timing.lanes.get l) ≠ [] ∧
      moveFields 2 (ctxOf timing l) img3 (timing.lanes.get l) ≠ [] ∧ mismFields 3 (ctxOf timing l) img3 (timing.lanes.get l) ≠ [] ∧ moveFields 3 (ctxOf timing l) img3 (timing.lanes.get l) = [] ∧
      timerFields 1 (ctxOf timing l) img3 (timing.lanes.get l) = []) ∧ s0.loam = none := ⟨sramOk_of (by decide +kernel), by decide +kernel⟩

/-- Lane A's word of the timer fails its check. -/
def mistimed : State := timing.updLane .a fun x => { x with sram := sramPut .a x.sram 0 0x20001 0 }

theorem case_timer_fault : (mistimed.lanes.get .a).st = .member ∧ loadOk (ctxOf mistimed .a) img3 (mistimed.lanes.get .a) 0 = false ∧ loadOk (ctxOf mistimed .b) img3 (mistimed.lanes.get .b) 0 = true ∧
    timerFields 0 (ctxOf mistimed .a) img3 (mistimed.lanes.get .a) ≠ [] ∧ logicLive mistimed = true := by decide +kernel

/-- Lane A is inside propagation, or inside the passes. -/
def inRipple : State := (serving []).updLane .a fun x => { x with place := .ripple 0 0 [1] }
def inPass : State := (serving []).updLane .a fun x => { x with place := .pass 2 }

theorem case_limits : (inRipple.lanes.get .a).place = .ripple 0 0 [1] ∧ (inPass.lanes.get .a).place = .pass 2 ∧ ((serving []).lanes.get .a).place = .entry := by decide +kernel

/-- A searching wave with and without claims, a LOCKING wave, and the age 100 cycles on. -/
def searching (w : Wave) : State := { lanesWith (serving []) (fun x => { x with reg := { x.reg with waves := [w] } }) with cyc := { s0.cyc with cycle := 101 } }
def claimed : TrailEntry := { elem := 0, exit := 0, pos := 0, role := .path, shared := false, inPort := 0, untried := none }

theorem case_waves : SramOk (searching (wave 7)) ∧ (searching (wave 7)).loam = some img ∧
    (∀ l ∈ allLanes, ((searching (wave 7)).lanes.get l).cx = none ∧ ∀ j < img.elems.length, loadOk (ctxOf (searching (wave 7)) l) img ((searching (wave 7)).lanes.get l) j = true) ∧
    (∀ l ∈ allLanes, waveOf ((searching (wave 7)).lanes.get l) (7 : BitVec 8).toNat = some (wave 7) ∧ waveOf ((searching (wave 7)).lanes.get l) (8 : BitVec 8).toNat = none ∧
      waveOf ((searching { wave 7 with trail := [claimed] }).lanes.get l) (7 : BitVec 8).toNat = some { wave 7 with trail := [claimed] } ∧
      waveOf ((searching { wave 7 with st := .locking }).lanes.get l) (7 : BitVec 8).toNat = some { wave 7 with st := .locking }) ∧
    (wave 7).st = .searching ∧ (wave 7).trail = [] ∧ (wave 7).rte < img.elems.length ∧ ∀ l ∈ allLanes, ((searching (wave 7)).lanes.get l).set.wavelife ≤ (searching (wave 7)).cyc.cycle - (wave 7).accepted :=
  ⟨sramOk_of (by decide +kernel), by decide +kernel⟩

theorem case_confirm_window : ∀ x ∈ [({ lane with reg := { lane.reg with proposal := some proposal } } : LaneSt)], x.reg.proposal = some proposal ∧ 28 ≤ proposal.cycle + x.set.window ∧
    proposal.cycle + x.set.window < 29 := by decide +kernel

/-- Every lane stands at the end of its OUTPUT; then each has closed its signature. -/
def closing : State := lanesWith (serving []) fun x => { x with place := .done }
def committing : State := lanesWith (serving []) fun x => { x with place := .done, closed := true, skip := [.stat] }

/-- Lane B's evaluator 3 has issued a step that its comparator has not agreed; lane C's still holds one in its delay registers. -/
def unequal : State :=
  (closing.updLane .b fun x => { x with units := [(3, ⟨2, 1, 0, []⟩)] }).updLane .c fun x => { x with units := [(3, ⟨1, 1, 0, [⟨1, 0, 0⟩]⟩)], sram := sramPut .c x.sram 6 1 0 }

theorem case_close : (∀ l ∈ allLanes, (closing.lanes.get l).running = true ∧ (closing.lanes.get l).place = .done ∧ (closing.lanes.get l).closed = false ∧ (closing.lanes.get l).dbgHold = false ∧
      loadOk (ctxOf closing l) (imageOf closing) (closing.lanes.get l) (canaryIx closing) = true ∧ (closing.lanes.get l).drained = true ∧ (closing.lanes.get l).units = [] ∧ (closing.lanes.get l).st = .member) ∧
    (∃ u ∈ (unequal.lanes.get .b).units, u.2.issued ≠ u.2.agreed) ∧ (unequal.lanes.get .c).drained = false ∧
    loadOk (ctxOf unequal .c) (imageOf unequal) (unequal.lanes.get .c) (canaryIx unequal) = false := by decide +kernel

theorem case_commit : NoHalt committing ∧ committing.sby.pairenNow = false ∧ committing.sby.role = .alone ∧ commitDue committing = true ∧ commitDue s0 = false ∧ committing.cyc.started = true ∧
    s0.cyc.started = false ∧ RegsOk committing := ⟨noHalt_of (by decide +kernel), by decide +kernel⟩

/-- A verdict names the lanes that agree, so lane A reports. -/
def reporting : State := { serving [] with sieve := { s0.sieve with agree := 7 } }

/-- Each running lane has presented its digest, and the housekeeping is due. -/
def presenting : State := lanesWith { serving [] with cyc := { (serving []).cyc with committed := true } } fun x => { x with digest := some 0, skip := [.stat] }

theorem case_house : NoHalt presenting ∧ houseDue presenting = true ∧ houseDue s0 = false ∧ committing.sby.acting = .alone ∧ committing.sby.plan = 0 :=
  ⟨noHalt_of (by decide +kernel), by decide +kernel⟩

/-- Lane C is in COPY, out of lane reset, in a rejoin. -/
def copying : State :=
  { twoLanes with lanes := ⟨lane, lane, { LaneSt.reset with st := .copy, inReset := false }⟩, cyc := { twoLanes.cyc with started := true }
                  group := { twoLanes.group with rejoin := some { lane := .c, r := 3, step := 1, fromA := [], fromB := [], ended := 0, k := none, silOk := 0, proof := false, limit := 1000, gotRegions := false } } }

theorem case_watched : watched copying .c = true ∧ (copying.lanes.get .c).running = false ∧ (copying.lanes.get .c).dbgHold = false ∧ copying.cyc.started = true ∧ watched s0 .a = false ∧
    copying.group.scanBad = 0 := by decide +kernel

theorem case_reports : (lanesOf reporting.sieve.agree).head? = some .a ∧ (lanesOf reporting.sieve.agree).head? ≠ some .b ∧ reporting.cyc.near = false ∧ RegsOk reporting ∧
    ({ reporting with level := .stopped } : State).level.serves = false ∧ (reporting.lanes.get .a).dbgHold = false := by decide +kernel

/-- A word of lane A whose check field is wrong. -/
def disturbed : State := (serving []).updLane .a fun x => { x with sram := sramPut .a x.sram 1 0 0 }

theorem case_scrub : loadOk (ctxOf (serving []) .a) (imageOf (serving [])) ((serving []).lanes.get .a) 1 = true ∧ loadOk (ctxOf disturbed .a) (imageOf disturbed) (disturbed.lanes.get .a) 1 = false ∧
    (disturbed.lanes.get .a).st = .member ∧ regionSum (lane.reg) + 1 ≠ regionSum lane.reg := ⟨by decide +kernel, by decide +kernel, by decide +kernel, fun h => absurd (add_eq_left.1 h) (by decide)⟩

/-- The channel between lanes A and B after two failures. -/
def failing : State := { up with chans := [{ chan := .inter .a .b, toggle := true, attempts := 2, stopped := false, req := true, ack := false, rej := true, word := none }] }

theorem case_channels : (chanOf s0 (.inter .a .b)).stopped = false ∧ (chanOf s0 (.inter .a .b)).attempts < 2 ∧ crc16 (beBytes 8 (0 : DWord).toNat) = 0x313E ∧ crc16 (beBytes 8 (0 : DWord).toNat) ≠ 0 ∧
    2 ≤ (chanOf failing (.inter .a .b)).attempts ∧ (failing.lanes.get .b).st = .member ∧
    (chanOf { s0 with chans := [{ chan := .toBu, toggle := true, attempts := 0, stopped := true, req := true, ack := false, rej := true, word := none }] } .toBu).stopped = true := by decide +kernel

/-! ### The cases of the statements: the vote, the membership and the proof test -/

/-- Lanes A, B and C are members; the Sieve holds lane A's digest and its words. -/
def voting : State := { serving [] with sieve := { s0.sieve with members := 7, digests := ⟨some 5, none, none⟩, words := ⟨[.msg ⟨.etlR, 0, 9, 1, 2, 3⟩], [.msg ⟨.etlR, 0, 9, 1, 2, 3⟩], []⟩ } }

/-- The vote has concluded with lanes A and B. -/
def concluded : State := { serving [] with sieve := { s0.sieve with members := 7, concluded := true, agree := 3, value := some 5, digests := ⟨some 5, some 5, none⟩ } }

/-- Two members, with lane A's digest there. -/
def twoMembers : State := { serving [] with sieve := { s0.sieve with members := 3, digests := ⟨some 5, none, none⟩ } }

theorem case_vote : (voting.lanes.get .b).rail = false ∧ (voting.lanes.get .a).rail = false ∧ inSet voting.sieve.members .b = true ∧ inSet voting.sieve.members .a = true ∧ voting.sieve.concluded = false ∧
    voting.sieve.digests.get .b = none ∧ voting.sieve.digests.get .a = some 5 ∧ voting.sieve.digests.get .c = none ∧ voting.sieve.words.get .a = voting.sieve.words.get .b ∧
    lanesOf concluded.sieve.agree = .a :: [.b] ∧ inSet concluded.sieve.members .c = true ∧ concluded.sieve.digests.get .c = none ∧ (concluded.lanes.get .c).st = .member ∧
    concluded.sieve.value = some 5 ∧ chanOpen voting (.laneOut .b) = true ∧ voting.cyc.started = true ∧ concluded.sieve.concluded = true ∧ twoMembers.sieve.members = laneBit .a ||| laneBit .b ∧ twoMembers.sieve.concluded = false ∧ twoMembers.sieve.digests.get .b = none ∧
    twoMembers.sieve.latch = false ∧ twoMembers.level.serves = true ∧ (s0.lanes.get .a).rail = true := by decide +kernel

/-- Lanes A and C have presented digests that differ; lane B's is still to come. -/
def twoOfThree : State := { voting with sieve := { voting.sieve with digests := ⟨some 5, none, some 6⟩ } }

theorem case_three_digests : (∀ e ∈ allLanes, (twoOfThree.lanes.get e).rail = false ∧ (twoOfThree.lanes.get e).st = .member) ∧ twoOfThree.sieve.members = 7 ∧ twoOfThree.cyc.started = true ∧
    twoOfThree.sieve.concluded = false ∧ twoOfThree.sieve.digests.get .b = none ∧ twoOfThree.sieve.digests.get .a = some 5 ∧ twoOfThree.sieve.digests.get .c = some 6 ∧ voting.sieve.digests.get .c = none ∧
    voting.sieve.digests.get .a = some 5 ∧ twoOfThree.level = .full ∧ twoOfThree.sieve.latch = false ∧ chanOpen twoOfThree (.laneOut .b) = true := by decide +kernel

/-- The Sieve holds two check words of three. -/
def threeChecks : State := { serving [] with sieve := { s0.sieve with members := 7, checks := ⟨some 5, some 5, none⟩ } }

theorem case_three_checks : threeChecks.sieve.checks.get .a = some 5 ∧ threeChecks.sieve.checks.get .b = some 5 ∧ chanOpen threeChecks (.laneOut .c) = true := by decide +kernel

/-- The Sieve holds lane A's check word, or lane A's demand; the keep-clear hold is armed, or suspended. -/
def checked : State := { serving [] with sieve := { s0.sieve with members := 7, checks := ⟨some 5, none, none⟩ } }
def demanded : State := { serving [] with sieve := { s0.sieve with members := 7, demands := 1 } }
def armed (p : Bool) : State := { serving [] with sieve := { s0.sieve with armed := true, suspended := p, latch := false } }

theorem case_check_words : (checked.lanes.get .b).rail = false ∧ (checked.lanes.get .a).rail = false ∧ inSet checked.sieve.members .b = true ∧ inSet checked.sieve.members .a = true ∧
    checked.sieve.checks.get .c = none ∧ checked.sieve.checks.get .a = some 5 ∧ voting.sieve.checks.get .a = none ∧ voting.sieve.checks.get .c = none ∧ checked.sieve.demands = 0 ∧ demanded.sieve.demands = laneBit .a ∧
    demanded.sieve.latch = false ∧ demanded.level.serves = true ∧ (armed false).sieve.armed = true ∧ (armed false).sieve.suspended = false ∧ (armed true).sieve.suspended = true ∧
    (armed false).sieve.latch = false ∧ (armed false).level.serves = true := by decide +kernel

/-- A channel that has ended. -/
def ended (c : Chan) (s : State) : State := { s with chans := [{ chan := c, toggle := false, attempts := 3, stopped := true, req := true, ack := false, rej := true, word := none }] }

/-- Lane C runs silent, or copies, with its rejoin at a step. -/
def rejoin (step : BitVec 3) (a b : List CopyItem) : Rejoin :=
  { lane := .c, r := 2, step := step, fromA := a, fromB := b, ended := 0, k := none, silOk := 1, proof := false, limit := 4, gotRegions := false }

theorem case_vote_closed : chanOpen (ended (.laneOut .b) voting) (.laneOut .b) = false ∧ chanOpen (ended .agreed voting) .agreed = false ∧ chanOpen (ended .agreed voting) (.laneOut .b) = true ∧
    ({ concluded with sieve := { concluded.sieve with agree := 0 } } : State).sieve.agree = 0 ∧ concluded.sieve.agree ≠ 0 := by decide +kernel

/-- Lane C is silent beside the vote of A and B. -/
def quiet (s : State) : State := ({ s with sieve := { s.sieve with members := 3 }, group := { s0.group with rejoin := some (rejoin 3 [] []) } }).updLane .c fun x => { x with st := .silent }

theorem case_silent_digest : ∀ s ∈ [quiet voting, quiet concluded], (s.lanes.get .c).rail = false ∧ s.sieve.digests.get .c = none ∧ chanOpen s (.laneOut .c) = true ∧ inSet s.sieve.members .c = false ∧
    (s.lanes.get .c).st = .silent ∧ s.group.rejoin = some (rejoin 3 [] []) ∧ (rejoin 3 [] []).lane = .c ∧ RegsOk s ∧ s.sieve.concluded = (s.sieve.agree != 0) := by decide +kernel

/-- Lane C returns: its copy runs with some items waiting. -/
def returning (a b : List CopyItem) : State := ({ serving [] with level := .reduced, group := { s0.group with rejoin := some (rejoin 2 a b) } }).updLane .c fun x => { x with st := .copy }

theorem case_copy : s0.group.rejoin = none ∧ (rejoin 2 [] []).step = 2 ∧ ((returning [] []).lanes.get .a).st = .member ∧ ((returning [] []).lanes.get .a).running = true ∧
    isFirstSender (returning [] []) .a = true ∧ isFirstSender (returning [.elem 1 7] []) .b = false ∧ ((returning [.elem 1 7] []).lanes.get .b).st = .member ∧ ((returning [.elem 1 7] []).lanes.get .b).running = true ∧
    (returning [.elem 1 7] []).group.rejoin = some (rejoin 2 [.elem 1 7] []) ∧ ((returning [.elem 1 7] []).lanes.get .c).st = .copy ∧ RegsOk (returning [.elem 1 7] []) ∧
    (rejoin 2 [] []).r + 1 + (rejoin 2 [] []).limit ≤ (returning [] []).cyc.cycle ∧ copyDone (returning [] []) (rejoin 2 [] []) (returning [] []).cyc.cycle = false ∧
    ({ returning [] [] with cyc := { s0.cyc with cycle := 3 } } : State).cyc.cycle < 2 + 1 + 4 ∧ chanOpen (returning [] []) (.inter .a .c) = true ∧
    chanOpen (ended (.inter .a .c) (returning [] [])) (.inter .a .c) = false := by decide +kernel

theorem case_copy_memory : SramOk (returning [.elem 1 7] []) := sramOk_of (by decide +kernel)

/-- A proof test is due, with lane A next; lane A has passed its tests. -/
def due : State := { (serving []).setReg R.LANE_PTDUE 0 with sieve := { s0.sieve with concluded := true, members := 7 }, cyc := { (serving []).cyc with timeBase := 9000, lastT0 := 9000 } }
def proving : State := ({ serving [] with group := { s0.group with proof := some .a } }).updLane .a fun x => { x with st := .proof }

theorem case_proof : laneOf (due.regF R.LANE_PTSTAT 0 2) = some .a ∧ proofDue due = true ∧ due.sieve.concluded = true ∧ due.group.rejoin = none ∧ atBoundary due = true ∧ atBoundary s0 = false ∧ 2 ≤ setSize (railLow due due.sieve.members &&& ~~~laneBit .a) ∧ due.sieve.digests = ⟨none, none, none⟩ ∧ RegsOk due ∧
    proofDue s0 = false ∧ proving.group.proof = some .a ∧ (proving.lanes.get .a).st = .proof ∧ RegsOk proving ∧ s0.group.proof = none := by decide +kernel

/-! ### The cases of the statements: records, the tick, the check units, vital inputs and outputs -/

/-- Shale's buckets hold two tokens; one record waits to be flushed. -/
def recording : State := { s0 with shale := { s0.shale with burst := 2, flushing := some 1, buf := [recordBytes 1 0 0 6 0 0 []] } }

/-- The same with one flushed block in flash, and the erase of the next one due. -/
def erasing : State := { recording with shale := { recording.shale with eraseDue := true, blocks := [(eraseTarget recording.shale, 1)] } }

theorem case_record_entries : s0.shale.pfwStop = false ∧ s0.shale.buf.length < 8192 ∧ recTokens recording 7 = 2 ∧ recTokens { s0 with shale := { s0.shale with burst := 0 } } 7 = 0 ∧ ({ s0 with shale := { s0.shale with pfwStop := true } } : State).shale.pfwStop = true ∧
    (0 : Word).getLsbD 1 = false ∧ s0.shale.flushing = none ∧ MemoryOk recording ∧ recording.shale.flushing = some 1 ∧ recording.shale.buf = recordBytes 1 0 0 6 0 0 [] :: [] ∧
    (recordBytes 1 0 0 6 0 0 []).length = 32 ∧ recording.shale.wslot < 8192 ∧ ((0 : Byte).toNat = recording.shale.wblock) ∧ recording.shale.bad.contains recording.shale.wblock = false ∧
    (1 : Byte).toNat = eraseTarget recording.shale ∧ recording.shale.bad.contains 1 = false ∧ (2 : Byte).toNat ≠ recording.shale.wblock ∧ (2 : Byte).toNat ≠ eraseTarget recording.shale := by decide +kernel

theorem case_erase : MemoryOk erasing ∧ erasing.shale.eraseDue = true ∧ erasing.shale.eraseHeld = false ∧ blockWanted erasing (eraseTarget erasing.shale) = false ∧ (erasing.shale.blocks.map (·.1)).Nodup ∧
    (eraseTarget erasing.shale, 1) ∈ erasing.shale.blocks ∧ recording.shale.eraseDue = false ∧ ({ erasing with shale := { erasing.shale with wslot := 8192 } } : State).shale.wslot = 8192 := by decide +kernel

theorem case_records_full : 8192 ≤ ({ s0 with shale := { s0.shale with buf := List.replicate 8192 [] } } : State).shale.buf.length := by
  show 8192 ≤ (List.replicate 8192 ([] : Bytes)).length
  rw [List.length_replicate]

/-- Unit 0 with a source, a length and a busy bit. -/
def unit (src len : Nat) (busy : Bool) : State := ((s0.setF (R.CHKU_CFG 0) 4 3 src).setReg (R.CHKU_LEN 0) (BitVec.ofNat 32 len)).setF (R.CHKU_STAT 0) 0 1 (b2n busy)

theorem case_check_units : (∀ b ∈ [true, false], RegsOk (unit 1 4 b) ∧ chkOwned (unit 1 4 b) 0 = false ∧ chkBusy (unit 1 4 b) 0 = b ∧ chkSrc (unit 1 4 b) 0 ≠ 4 ∧ chkSrc (unit 1 4 b) 0 ≠ 3 ∧
      (unit 1 4 b).regN (R.CHKU_LEN 0) = 4 ∧ (unit 1 4 b).reg (R.CHKU_LEN 0) ≠ 0) ∧ ((unit 1 4 false).wide (R.CHKU_ADDR_LO 0)).toNat + 4 ≤ srcSize (chkSrc (unit 1 4 false) 0) ∧
    srcSize (chkSrc (unit 0 0x600001 false) 0) < ((unit 0 0x600001 false).wide (R.CHKU_ADDR_LO 0)).toNat + (unit 0 0x600001 false).regN (R.CHKU_LEN 0) ∧
    (chkSrc (unit 4 4 true) 0 = 4 ∧ (unit 4 4 true).hif.d3hot = false) := by decide +kernel

theorem case_check_compare : chkCmpEn ((unit 1 4 true).setF (R.CHKU_CFG 0) 7 1 1) 0 = true ∧
    ((unit 1 4 true).setF (R.CHKU_CFG 0) 7 1 1).wide (R.CHKU_EXP_LO 0) = 0 ∧ overWidth (chkAlg (unit 1 4 true) 0) 0 = 0 := by decide +kernel

/-- The background scan runs on CHK4. -/
def scanning : State := setBg (((s0.setF R.CHK_CTRL 0 1 1).setF (R.CHKU_STAT 3) 4 1 1)) true

theorem case_background : s0.regBit R.CHK_CTRL 0 = false ∧ RegsOk s0 ∧ scanning.regBit R.CHK_CTRL 0 = true ∧ RegsOk scanning ∧ bgRunning scanning = true ∧ scanning.regF R.CHK_BGSTAT 16 16 < 0xFFFF ∧ bgRunning s0 = false := by decide +kernel

/-- The field side runs at 24 V with output 2 energised and closed. -/
def field : State := { driving with vio := { s0.vio with inReset := false, s2 := 8, mv := 24000, uv := false, ov := false, otest := 0, ovld := 0, runs := List.replicate 32 7 } }

theorem case_vital : RegsOk field ∧ field.vio.inReset = false ∧ crcOk 6 (withCrc [0, 1, 0, 4]) = true ∧ crcOk 6 [] = false ∧ crcOk 14 (upFrame field.vio) = true ∧ crcOk 14 [] = false ∧
    ({ field with vio := { field.vio with inReset := true } } : State).vio.inReset = true ∧ field.vio.runs.length = 32 ∧ outputOn field 3 = true ∧ outputOn field 4 = false := by decide +kernel

/-! ### The cases of the statements: the standby pairing -/

/-- A paired module in a role, before or after start-up. -/
def paired (r : Role) (elig up : Bool) : State := { s0 with sby := { s0.sby with pairenNow := true, role := r, elig := elig, link := true, copy := if r = .active then 1 else 0, cpLimit := 0 }, cyc := { s0.cyc with started := up } }

theorem case_paired : (∀ up ∈ [true, false], (paired .active false up).sby.pairenNow = true ∧ (paired .active false up).sby.role ≠ .standby ∧ (paired .standby true up).sby.role = .standby ∧
      (paired .standby true up).sby.elig = true ∧ (paired .active false up).cyc.started = up ∧ (paired .standby false up).sby.elig = false) ∧ (paired .active false true).regBit R.FRN_CTRL 0 = false ∧
    (paired .active false false).sby.timeDone = false ∧ (paired .active false true).sby.link = true ∧ (paired .active false true).sby.copy = 1 ∧
    (paired .active false true).sby.copyStart + (paired .active false true).sby.cpLimit ≤ (paired .active false true).cyc.cycle ∧ (paired .standby false true).sby.copy ≠ 1 ∧
    (paired .active false false).sby.strap = false ∧ s0.sby.pairenNow = false := by decide +kernel

/-! ### The cases of the statements: the field star -/

/-- Port 2 takes part in mode 0: node 3 owns slot 1 at 100, slot 2 at 200 is its downlink; node 3 and the claims are as given. -/
def star (n : NodeSt) (cs : List Claim) : State :=
  let x := { PortSt.reset with on := true, link := true, nodes := setAt PortSt.reset.nodes 3 fun _ => n, claims := cs }
  { s0 with fsn := { s0.fsn with sched := [(129, BitVec.ofNat 32 (100 + 50 * 2 ^ 10 + 2 ^ 21 + 3 * 2 ^ 23)), (130, BitVec.ofNat 32 (200 + 100 * 2 ^ 10 + 2 ^ 20 + 2 ^ 21 + 3 * 2 ^ 23))]
                                 ports := setAt s0.fsn.ports 2 fun _ => x } }

def admitted : NodeSt := { NodeSt.reset with st := 2 }

/-- NULL frames of node 3 and of node 1. -/
def nullOf (k : Byte) : Bytes := withFcs [0x40 + k, 0, 0, 0, 0, 0, 0, 0, 0, 0]

/-- The uplink slot and the downlink slot. -/
def upSlot : Slot := { start := 100, len := 50, down := false, kind := 1, node := 3, scree := 0, rest := 0 }

theorem case_star : ShapeOk (star admitted []) ∧ portOn (star admitted []) (2 : BitVec 4).toNat = true ∧ windowSlot (star admitted []) 2 800 = some (1, upSlot) ∧ windowSlot (star admitted []) 2 0 = none ∧
    slotOwner (star admitted []) 2 upSlot = some 3 ∧ modeState (star admitted []) ≠ 1 ∧ frameNode (nullOf 3) = 3 ∧ frameNode (nullOf 1) ≠ 3 ∧ tooLong (star admitted []) 800 upSlot 14 = false ∧
    (nullOf 3).length = 14 ∧ frameOk (star admitted []) (nullOf 3) true upSlot = true ∧ frameNode [0x43] = 3 ∧ tooLong (star admitted []) 800 upSlot 1 = false ∧ frameOk (star admitted []) [0x43] true upSlot = false ∧
    (nodeAt (star admitted []) 2 3).st ≠ 0 ∧ portOn s0 2 = false ∧ RegsOk (star admitted []) := by decide +kernel

theorem case_star_down : (slotAt (star admitted []) (curMode (star admitted [])) 2 2).kind = 1 ∧ (slotAt (star admitted []) (curMode (star admitted [])) 2 2).down = true ∧ (portAt (star admitted []) 2).queue = [] ∧
    0 < min ((capacity (accw s0) 100 - 4) / 13) 1 := by decide +kernel

def gone : NodeSt := { admitted with silent := 15 }
def starting (b : Option Nat) : NodeSt := { NodeSt.reset with st := 1, badStart := b, heard := true }

theorem case_nodes : absentDue (star gone []) 2 3 = true ∧ modeState (star gone []) ≠ 1 ∧ absentDue (star admitted []) 2 3 = false ∧ (∀ b ∈ [none, some 0], absentDue (star (starting b) []) 2 3 = false ∧
      startDue (star (starting b) []) 2 3 = true ∧ (nodeAt (star (starting b) []) 2 3).badStart = b) ∧ startDue (star admitted []) 2 3 = false ∧ (star (starting (some 0)) []).fsn.round < 0 + 8 := by decide +kernel

/-- Port 2 holds the claim of Scree number 5 for node 3, absent long enough. -/
def claiming : State := star NodeSt.reset [{ scree := 5, node := 3, absent := 65536 }]

theorem case_claims : ShapeOk claiming ∧ ((portAt claiming 2).claims.any fun c => c.scree == 5 && claimDue claiming 2 c) = true ∧
    ((portAt s0 2).claims.any fun c => c.scree == 5 && claimDue s0 2 c) = false ∧ (portAt (withF (star admitted []) R.FSN_CTRL 2 1 1) 2).on = true ∧ (withF (star admitted []) R.FSN_CTRL 2 1 1).regBit R.FSN_CTRL 2 = true ∧
    isStandby (withF (star admitted []) R.FSN_CTRL 2 1 1) = false ∧ (portAt s0 4).on = false ∧ s0.regBit R.FSN_CTRL 4 = false ∧ (portAt s0 4).linkNow = (portAt s0 4).link ∧ (portAt s0 4).claims = [] := by decide +kernel

/-- Mode 1 is valid beside the current mode 0, port 2 is enabled with node 3 admitted, and the switch stands in a state. -/
def modes (st : Nat) : State := withF (withF (withF (star admitted []) R.FSN_STAT 4 2 3) R.FSN_CTRL 2 1 1) R.FSN_MODE 4 3 st

/-- A schedule whose only slot is too short. -/
def shortSlot : State := { s0 with fsn := { s0.fsn with sched := [(1, BitVec.ofNat 32 (100 + 2 ^ 10 + 2 ^ 21))] } }

/-- A schedule that holds nothing but its SYNC slots. -/
def syncOnly : State := { s0 with fsn := { s0.fsn with sched := (List.range 16).map fun p => (64 * p, BitVec.ofNat 32 (16 * 2 ^ 10 + 2 ^ 20 + 2 ^ 21)) } }

theorem case_schedule : RegsOk syncOnly ∧ scheduleFault syncOnly ((4 : Word).toNat % 4) = none ∧ scheduleFault shortSlot ((4 : Word).toNat % 4) = some (1, 1, 0) ∧ (4 : Word).getLsbD 2 = true ∧ (0 : Word).getLsbD 2 = false ∧ RegsOk shortSlot := by decide +kernel

theorem case_modes : RegsOk (modes 0) ∧ modeValid (modes 0) (curMode (modes 0)) = true ∧ modeValid s0 (curMode s0) = false ∧ (1 : Word) &&& 0xFFFF &&& ~~~s0.reg R.FSN_CTRL ≠ 0 ∧ (0x500 : Word).getLsbD 10 = true ∧
    fld (0x500 : Word).toNat 8 2 = 1 ∧ switching (modes 1) = true ∧ switching (modes 0) = false ∧ modeValid (modes 0) 1 = true ∧ modeValid (modes 0) 2 = false ∧ curMode (modes 0) = 0 ∧
    (modes 0).regBit R.FSN_CTRL 2 = true ∧ (nodeAt (modes 0) 2 3).st = 2 ∧ modeState (modes 1) = 1 ∧
    (withF (modes 1) R.FSN_MODECFG 0 8 0).fsn.goRound + (withF (modes 1) R.FSN_MODECFG 0 8 0).regF R.FSN_MODECFG 0 8 ≤ (withF (modes 1) R.FSN_MODECFG 0 8 0).fsn.round ∧
    modeState (modes 2) = 2 ∧ (modes 2).fsn.swRound ≤ (modes 2).fsn.round + 1 ∧ modeState (modes 0) ≠ 2 := by decide +kernel

/-! ### The cases of the statements: the federation ring -/

/-- Member 0 runs with member 1 configured, in a state of synchronisation. -/
def ring (sync : Nat) : State := withF (withF (withF s0 R.FRN_CTRL 0 1 1) R.FRN_MEMBERS 0 2 3) R.FRN_STAT 0 3 sync

/-- A DATA frame of member 1 from its slot 2, without entries. -/
def dataFrame : Bytes := withFcs ([0x20, 1, 0, 0] ++ beBytes 4 0 ++ beBytes 8 61440 ++ beBytes 8 0 ++ beBytes 4 0 ++ beBytes 2 0 ++ [0, 0])

theorem case_ring : ringOn s0 = false ∧ receives 0 = false ∧ receives (1 : BitVec 2).toNat = true ∧ ShapeOk (ring 5) ∧ RegsOk (ring 5) ∧ ringOn (ring 5) = true ∧ ringFcsOk dataFrame = true ∧
    (ringHdr dataFrame).src ≠ ownMember (ring 5) ∧ (ringHdr dataFrame).type = 2 ∧ ringTypeFits (ring 5) (ringHdr dataFrame) = true ∧ ringLenFits dataFrame (ringHdr dataFrame) = true ∧
    srcOk (ring 5) (ringHdr dataFrame) = true ∧ (seenOn (ring 5) 1).contains (frameKey (ringHdr dataFrame)) = false ∧ (ring 5).frn.accepted.contains (frameKey (ringHdr dataFrame)) = false ∧
    (seenOn (markSeen (ring 5) 1 (frameKey (ringHdr dataFrame))) 1).contains (frameKey (ringHdr dataFrame)) = true ∧ (ringHdr dataFrame).hops < 79 ∧ ringLooped (ring 5) 0 = false ∧
    ringFcsOk [] = false ∧ syncState (ring 5) ≠ 2 := by decide +kernel

theorem case_origination : mayOriginate s0 = false ∧ mayOriginate (ring 5) = true ∧ isScree (ring 5) (ownMember (ring 5)) = false ∧ (ring 5).frn.queue = [] ∧ ringLooped (ring 5) 0 = false ∧ ringLooped (ring 5) 1 = false ∧
    linkFailed (ring 5) 1 = false ∧ linkFailed (withF (ring 5) (R.FRN_L_STAT 1) 1 1 1) 1 = true ∧ 64 ≤ (linkAt (updLink (ring 5) 1 fun x => { x with probeRun := 64 }) 1).probeRun := by decide +kernel

/-- The same 100 rounds on; as the master of its time. -/
def later (sync : Nat) : State := { ring sync with fsn := { s0.fsn with round := 100 } }
def master : State := withF (withF (ring 5) R.FRN_STAT 3 2 1) R.FRN_TIMECFG 12 1 1

theorem case_ring_time : (∀ n ∈ [1, 3, 5, 6], RegsOk (later n) ∧ ringOn (later n) = true ∧ isStandby (later n) = false ∧ syncState (later n) = n) ∧ (later 1).frn.everSynced = false ∧
    max (later 1).frn.enabledAt ((later 1).frn.lastAny.getD 0) + 64 ≤ (later 1).fsn.round + 1 ∧ (later 3).frn.backoffEnd ≤ (later 3).fsn.round ∧ isMaster (later 5) = false ∧ lastRefRound (later 5) + 8 ≤ (later 5).fsn.round + 1 := by
  decide +kernel

theorem case_steering : RegsOk master ∧ ringOn master = true ∧ isMaster master = true ∧ master.regBit R.FRN_TIMECFG 12 = true ∧ master.frn.steered = false ∧ tickError 100 ≠ 0 ∧ 0 < tickError 100 ∧ tickError 1023999900 < 0 ∧
    -1500 ≤ signedReg master R.FRN_RATE 16 ∧ signedReg master R.FRN_RATE 16 ≤ 1500 ∧ isMaster s0 = false := by decide +kernel

/-! ### The cases of the statements: the CAN FD controllers -/

/-- Controller 0 with control bits and some changes of its state. -/
def can (bits : Nat) (f : CanSt → CanSt) : State := updCan (withF s0 (R.CAN_CTRL 0) 0 8 bits) 0 f

def requested : CanSt → CanSt := fun x => { x with txb := setAt x.txb 1 fun _ => { pending := true, cancel := false, res := 7, rvalid := true } }

/-- A nominal prescaler of 0. -/
def untimed : State := withF s0 (R.CAN_NBT 0) 0 6 0

def sendObj (p : Bool) : ObjSt := { ObjSt.reset with id := 0xC0000007, tt := 0x2000000, tx := { TxSt.reset with pending := p } }

theorem case_can_control : canBit s0 0 0 = false ∧ canTimingOk s0 0 (1 &&& 0xFF) = true ∧ canBit untimed 0 0 = false ∧ canTimingOk untimed 0 (1 &&& 0xFF) = false ∧ canBit (can 1 id) 0 0 = true ∧ canBit (can 3 id) 0 1 = true ∧
    canBit (can 1 id) 0 1 = false ∧ (canAt (can 1 id) 0).cur = none ∧ ShapeOk (can 1 requested) ∧ RegsOk (can 1 requested) ∧ (2 : Word) &&& 7 = BitVec.ofNat 32 (2 ^ 1) ∧ (txAt (can 1 requested) 0 (.buf 1)).pending = true := by decide +kernel

theorem case_can_objects : ∀ p ∈ [true, false], canBit (can 3 fun x => { x with objs := [(5, sendObj p)] }) 0 1 = true ∧ isSend (objAt (can 3 fun x => { x with objs := [(5, sendObj p)] }) 0 5) = true ∧
    (objAt (can 3 fun x => { x with objs := [(5, sendObj p)] }) 0 5).tx.pending = p ∧ fld (0x185 : Word).toNat 0 7 = 5 ∧ (0x185 : Word).getLsbD 7 = true ∧ (0x185 : Word).getLsbD 8 = true := by decide +kernel

theorem case_can_sending : sending (can 1 id) 0 = none ∧ sending (can 1 fun x => { x with cur := some (.buf 1) }) 0 = some (.buf 1) ∧ (txAt (can 1 requested) 0 (.buf 1)).cancel = false ∧
    canRuns (can 1 id) 0 = true ∧ canRuns s0 0 = false ∧ (canAt (can 1 fun x => { x with st := 2, recovering := true }) 0).st = 2 ∧ (canAt (can 1 fun x => { x with st := 2, recovering := true }) 0).recovering = true := by decide +kernel

def frame (fdf : Bool) (d : Bytes) : CanFrame := { id := 7, ide := false, fdf := fdf, brs := false, esi := false, rtr := false, dlc := 12, data := d }

/-- Filter 0 takes every standard identifier. -/
def filtered : State := withF (withF (can 1 id) (R.FLT_ID 0 0) 31 1 1) (R.FLT_MASK 0 0) 0 29 0

/-- The vital path takes every standard identifier. -/
def vitalIn : State := withF (can 0x81 id) (R.CAN_VINMASK 0) 0 29 0

theorem case_can_frames : canRuns filtered 0 = true ∧ isReference filtered 0 (frame true []) = false ∧ isVital filtered 0 (frame true []) = false ∧ canBit filtered 0 1 = false ∧ filtered.regBit (R.FLT_ID 0 0) 31 = true ∧
    idMatches (frame true []) (filtered.reg (R.FLT_ID 0 0)) (filtered.reg (R.FLT_MASK 0 0)) = true ∧ (canAt filtered 0).fifo.length < 32 ∧
    32 ≤ (canAt (updCan filtered 0 fun x => { x with fifo := List.replicate 32 ⟨frame true [], 0⟩ }) 0).fifo.length := by decide +kernel

theorem case_can_memory : canRuns (can 3 fun x => { x with objs := [(5, { ObjSt.reset with id := 0x80000007 })] }) 0 = true ∧
    matchObj (can 3 fun x => { x with objs := [(5, { ObjSt.reset with id := 0x80000007 })] }) 0 (frame true []) = some 5 ∧ (canAt (can 3 id) 0).lock = false ∧ isReference (can 3 id) 0 (frame true []) = false ∧
    isVital (can 3 id) 0 (frame true []) = false ∧ (objAt s0 0 (objSel s0 0)).shadow = none ∧
    (objAt (can 3 fun x => { x with objs := [(0, { ObjSt.reset with shadow := some (frame true []) })] }) 0 0).shadow = some (frame true []) ∧ objSel s0 0 = 0 := by decide +kernel

theorem case_can_vital : isVital vitalIn 0 (frame true [0, 0, 0, 0, 0, 0, 1]) = true ∧ canRuns vitalIn 0 = true ∧ isReference vitalIn 0 (frame true []) = false ∧ isStandby vitalIn = false ∧
    beAt (frame true [0, 0, 0, 0, 0, 0, 1]).data 6 1 = 1 ∧ 8 + 13 ≤ dlcLen (frame true []).dlc.toNat true := by decide +kernel

/-- Time-triggered operation as the master, with a send object whose trigger is enabled. -/
def tt : State := can 0x43 fun x => { x with ttMaster := true, ttSync := true, objs := [(5, sendObj false)] }

theorem case_can_tt : canRuns tt 0 = true ∧ canTT tt 0 = true ∧ (canAt tt 0).ttMaster = true ∧ canBit tt 0 4 = false ∧ (canAt tt 0).ttSync = true ∧ isSend (objAt tt 0 (5 : BitVec 7).toNat) = true ∧
    (objAt tt 0 (5 : BitVec 7).toNat).tt.getLsbD 25 = true ∧ cycleMatches (objAt tt 0 (5 : BitVec 7).toNat) (canAt tt 0).ttCount = true ∧ (withF tt (R.CAN_TTCFG 0) 3 1 1).regBit (R.CAN_TTCFG 0) 3 = true ∧ canTT s0 0 = false ∧
    canRuns (can 0x43 id) 0 = true ∧ isReference (can 0x43 id) 0 (frame false []) = true ∧ isVital (can 0x43 id) 0 (frame false []) = false ∧ (canAt (can 0x43 id) 0).ttMaster = false := by decide +kernel

/-! ### The cases of the statements: writes of a command's own row, and faults of a lane in each of its states -/

/-- Whether a write of v to a register is clean. -/
def clean (s : State) (off : Nat) (v : Word) : Bool :=
  decide (RegsOk s) && !s.power.retired && (heldLow s (off / 0x10000)).isNone && match rowAt off with | none => true | some r => (v ^^^ s.reg off) &&& r.rsvk == 0

theorem clean_of {s : State} {off : Nat} {v : Word} (h : clean s off v = true) : CleanWrite s off v := by
  simp only [clean, Bool.and_eq_true, Bool.not_eq_true', decide_eq_true_eq, Option.isNone_iff_eq_none] at h
  refine ⟨h.1.1.1, h.1.1.2, h.1.2, fun r hr => ?_⟩
  have h2 := h.2
  rw [hr] at h2
  exact eq_of_beq h2

/-- The writes that the statements' clauses name, a clean one each, with the bits that they set or clear. -/
def cleanWrites : List (State × Nat × Word) :=
  [(up, R.KLN_CMD, 1), (up, R.KLN_CMD, 7), (s0, R.KLN_CMD, 0), (s0, R.HIF_SQ_CTRL 2, 1), (rings, R.HIF_SQ_CTRL 2, 0), (s0, R.HIF_CQ_CTRL 3, 1), (rings, R.HIF_CQ_CTRL 3, 0), (gate, R.EVG_NCOMPLETE, 57),
   (gate, R.EVG_FCOMPLETE, 9), (gate, R.EVG_SETPEND 3, 1), (gate, R.EVG_CLRPEND 1, 1), (gate, R.EVG_FAST 1, 1), (gate, R.EVG_PRIO 7, 1), (s0, R.GLB_ACCCNT, 0x10000), (s0, R.GLB_ACCCNT, 0),
   (s0, R.REC_CTRL, 0), (s0, R.REC_CTRL, 3), (unit 1 4 true, R.CHKU_CTRL 0, 1), (unit 1 4 false, R.CHKU_CTRL 0, 3), (unit 1 4 true, R.CHKU_CTRL 0, 4), (s0, R.CHK_CTRL, 1), (scanning, R.CHK_CTRL, 0),
   (syncOnly, R.FSN_SCHCHK, 4), (shortSlot, R.FSN_SCHCHK, 4), (s0, R.FSN_SCHCHK, 0), (s0, R.FSN_CTRL, 1), (modes 0, R.FSN_CTRL, 1), (modes 0, R.FSN_MODE, 0x500), (modes 0, R.FSN_MODE, 0x600), (modes 1, R.FSN_MODE, 0x500),
   (s0, R.FSN_MODE, 0), (s0, R.CAN_CTRL 0, 1), (untimed, R.CAN_CTRL 0, 1), (can 1 requested, R.CAN_CTRL 0, 0), (can 1 requested, R.CAN_CTRL 0, 3), (can 1 requested, R.CAN_TXREQ 0, 2), (can 1 requested, R.CAN_TXCAN 0, 2),
   (can 3 id, R.CAN_TXCAN 0, 2), (can 3 fun x => { x with objs := [(5, sendObj false)] }, R.CAN_OBJREQ 0, 0x85), (can 3 fun x => { x with objs := [(5, sendObj true)] }, R.CAN_OBJREQ 0, 0x105),
   (can 3 id, R.CAN_OBJSEL 0, 4), (s0, R.UPD_LCCMD, 1), (s0, R.UPD_LCCMD, 0)]

theorem case_clean_writes : ∀ x ∈ cleanWrites, CleanWrite x.1 x.2.1 x.2.2 := by
  intro x hx
  have h : cleanWrites.all (fun x => clean x.1 x.2.1 x.2.2) = true := by decide +kernel
  exact clean_of (List.all_eq_true.1 h x hx)

theorem case_clean_bits : laneOf (fld (7 : Word).toNat 1 2) = none ∧ klnOpen up .maint = true ∧ klnOpen (inLcs s0 3) .maint = false ∧ (7 : Word).getLsbD 0 = true ∧ (unit 1 4 true).reg R.CHK_CTRL = 0 ∧
    chkOwned scanning 3 = true ∧ (4 : Word).getLsbD 2 = true ∧ fld (0x600 : Word).toNat 8 2 = 2 ∧ (3 : Word) &&& 0xFF ≠ (can 1 requested).reg (R.CAN_CTRL 0) &&& 0xFF := by decide +kernel

/-- A lane in each of the states in which a fault may find it: copying, silent, under proof test, out. -/
theorem case_faulted_lanes : ((returning [] []).lanes.get .c).st = .copy ∧ (returning [] []).group.rejoin.map (·.lane) = some .c ∧ ((quiet voting).lanes.get .c).st = .silent ∧
    (quiet voting).group.rejoin.map (·.lane) = some .c ∧ (proving.lanes.get .a).st = .proof ∧ proving.group.proof = some .a ∧ (s0.lanes.get .a).st = .out ∧ s0.group.rejoin = none ∧ s0.group.proof = none ∧
    inDirect.kiln.direct = some .a := by decide +kernel

/-! ### The cases of the statements: power, boot and Kiln once more -/

theorem case_power : (withF s0 R.KLN_STAT 0 3 2).power.pfw = false ∧ kilnState (withF s0 R.KLN_STAT 0 3 2) = 2 ∧ kilnState s0 ≠ 2 ∧ ({ s0 with power := { s0.power with pfw := true } } : State).power.pfw = true ∧
    s0.power.por = false ∧ up.power.booted = true ∧ ({ s0 with power := { s0.power with por := true } } : State).power.por = true ∧ ({ s0 with bu := { s0.bu with valid := false } } : State).bu.valid = false := by decide +kernel

/-- Both banks hold the header and are CONFIRMED, bank 0 is preferred or on trial, and bank 1 holds the active image. -/
def twoBanks (trial : Option Bool) : State :=
  let x := bankState 4 true trial
  { x with stored := { x.stored with mem1 := x.stored.mem0, bank1 := { BankSt.reset with fstate := 4, lact := true } } }

theorem case_boot_banks : (∀ t ∈ [none, some false], (fixLcs (twoBanks t)).lcs ≠ 4 ∧ (twoBanks t).power.booted = false ∧ (twoBanks t).power.por = false ∧ (bankOf (twoBanks t) false).fstate = 4 ∧
      (bankOf (twoBanks t) false).pref = true ∧ (bankOf (twoBanks t) true).pref = false ∧ (bankOf (twoBanks t) true).fstate = 4 ∧ loamBank (twoBanks t) = some true ∧ (twoBanks t).bu.trial = t ∧
      bankCheck (twoBanks t) false false ≠ 0) ∧ (bankOf (bankState 4 true none) true).fstate ≠ 4 ∧ loamBank (bankState 4 true none) = none := by decide +kernel


theorem case_kiln_blocks : ((⟨3, 80, 1, 0, 0⟩ : KilnFail).block.toNat = 80) ∧ (⟨0, 64, 1, 0, 0⟩ : KilnFail).unit.toNat = laneNo .a ∧ 64 ≤ (⟨0, 64, 1, 0, 0⟩ : KilnFail).block.toNat ∧
    (⟨0, 63, 1, 0, 0⟩ : KilnFail).block.toNat ≤ 63 ∧ (s0.lanes.get .a).evalOff = none ∧ kilnState waiting ≠ 2 ∧ s0.kiln.direct = none ∧ dbg.lcs = 2 ∧ elemOpen dbg 1 = false := by decide +kernel

/-! ### The cases of the statements: the host interface once more -/

/-- An UPDATE_WRITE descriptor of 64 bytes at address 64. -/
def writeDesc : Bytes := padTo 64 (leBytes 2 opWrite.toNat ++ leBytes 2 0 ++ leBytes 4 7 ++ leBytes 8 64 ++ leBytes 4 64 ++ leBytes 2 1)

/-- The completion of `owing` is of a descriptor that ring 2 brought, and one more is due for the signal. -/
def bound (imm : Bool) : State := { withF (owing imm) (R.HIF_CQ_CFG 3) 8 8 1 with hif := { (owing imm).hif with bound := [(0, 3)] } }

theorem case_host_interface : readsBuffer (parseDesc 2 0 0 writeDesc) = true ∧ readsBuffer (parseDesc 2 0 0 []) = false ∧ rings.power.refused = false ∧ mayRequest (bound true) = true ∧
    (∀ i ∈ [true, false], (assoc (0 : Word) (bound i).hif.bound).isSome = true ∧ (bound i).regF (R.HIF_CQ_CFG 3) 8 8 ≤ 1 ∧ (assoc (0 : Word) (owing i).hif.bound).isNone = true) ∧ s0.evg.table.length = 16 ∧
    0x100 ≤ (0x1000 : BitVec 13).toNat ∧ (unit 4 4 true).hif.d3hot = false ∧ chkOwned (unit 4 4 true) 0 = false ∧ (∀ k < 2, fetchable s0 k = false) ∧ heldLow s0 1 = none ∧
    (∀ src ∈ [Src.pcie, .maint], readOpen s0 src 0x140000 = true) ∧ readOpen (inLcs s0 4) .maint 0x140000 = false ∧ (2 ≠ 4 ∧ 2 ≠ 8) ∧ (s0.hif.turn = none ∧ mayRequest s0 = false) := by decide +kernel

/-! ### The cases of the statements: the lanes' words and the vote once more -/

theorem case_loads : LoadsOk img (serving [(3, 0x300)]) ∧ LoadsOk img (serving []) ∧ CtlIdle (serving []) ∧ LoadsOk img3 timing ∧ CtlIdle timing :=
  ⟨loadsOk_of (by decide +kernel), loadsOk_of (by decide +kernel), ctlIdle_of (by decide +kernel), loadsOk_of (by decide +kernel), ctlIdle_of (by decide +kernel)⟩

/-- A silent lane, a lane that no verdict names, and snapshots without a verdict. -/
theorem case_snapshots : snapOpen offered .a = true ∧ snapOpen (ended (.snapshot .a 3) offered) .a = false ∧ ((quiet offered).lanes.get .c).st = .silent ∧ inSet (3 : BitVec 3) .c = false ∧
    snap.verdict = none ∧ (offered.lanes.get .a).decided = false ∧ consensusOpen idling = false ∧ consensusOpen (serving []) = false ∧ chanOpen offered (.inter .b .a) = true ∧
    chanOpen (ended (.inter .b .a) offered) (.inter .b .a) = false ∧ offered.snap ≠ none ∧ (offered.lanes.get .a).snap = none ∧ offered.sieve.digests = ⟨none, none, none⟩ ∧ cycleMsgs idling .a = [] ∧
    logicLive (serving []) = true ∧ logicLive idling = false ∧ (disturbed.lanes.get .a).st = .member ∧
    loadOk (ctxOf disturbed .b) (imageOf disturbed) (disturbed.lanes.get .b) 1 = true := by decide +kernel

/-- A running timer whose word fails its check in lane A alone. -/
def badTimer : State := timing.updLane .a fun x => { x with sram := sramPut .a x.sram 0 0x20001 0 }

theorem case_bad_timer : logicLive timing = true ∧ timerFields 0 (ctxOf badTimer .a) img3 (badTimer.lanes.get .a) ≠ [] ∧ loadOk (ctxOf badTimer .a) img3 (badTimer.lanes.get .a) 0 = false ∧
    (∀ k ∈ [Lane.b, .c], loadOk (ctxOf badTimer k) img3 (badTimer.lanes.get k) 0 = true) ∧ (badTimer.lanes.get .a).st = .member ∧
    wfld (ctxOf timing .a) (timing.lanes.get .a) 0 0 17 ≤ (timing.lanes.get .a).set.tcyc := by decide +kernel

/-- A free search at its limit, with and without a claim. -/
def atLimit (w : Wave) : State := { searching w with loam := some { img with routes := [⟨0, 1, 2, none, 0, 0⟩] } }

theorem case_search_limit : (∀ l ∈ allLanes, (rowOf { img with routes := [⟨0, 1, 2, none, 0, 0⟩] } ((atLimit (wave 7)).lanes.get l) 3).kind = 1 ∧
      ((atLimit (wave 7)).lanes.get l).set.searchmax ≤ ({ wave 7 with fwd := 65535 } : Wave).fwd ∧ ((inPass.lanes.get l).set.wsteps ≤ { (inPass.lanes.get l).rpt with steps := 65535 }.steps)) ∧
    (imageOf inRipple).propmax ≤ 1 ∧ (imageOf inRipple).strata ≤ 1 ∧ inRipple.cyc.started = true := by decide +kernel

theorem case_house_due : houseDue s0 = false ∧ houseDue { committing with cyc := { committing.cyc with committed := true, housed := false } } = false ∧
    houseDue { lanesWith committing (fun x => { x with digest := some 0 }) with cyc := { committing.cyc with committed := true, housed := false } } = true := by decide +kernel

theorem case_all_checks : ({ checked with sieve := { checked.sieve with checks := ⟨some 5, some 5, none⟩ } } : State).sieve.checks.get .b = some 5 ∧ (∀ e ∈ allLanes, (checked.lanes.get e).rail = false) ∧
    chanOpen checked (.laneOut .b) = true ∧ checkNamed 5 = some .a ∧ checkNamed 8 = none ∧ inSet demanded.sieve.demands .a = true ∧
    ((demanded.updLane .a fun x => { x with rail := true }).lanes.get .a).rail = true := by decide +kernel

/-! ### The cases of the statements: the standby pairing once more -/

/-- A block with its codes, and one with a wrong code. -/
def block (b : CopyBody) : CopyBlock := { cycle := 5, number := 0, body := b, code1 := vmp1 (blockBytes 5 0 b), code2 := vmp2 (blockBytes 5 0 b) }
def spoilt (b : CopyBody) : CopyBlock := { block b with code1 := ~~~(block b).code1 }

theorem case_blocks : blockKind (.close 7 true) = 4 ∧ blockKind (.delta []) ≠ 4 ∧ (∀ b, blockOk (block b) = true ∧ blockOk (spoilt b) = false ∧ (block b).body = b) := by
  refine ⟨by decide, by decide, fun b => ⟨by simp [blockOk, block], ?_, rfl⟩⟩
  have h : ∀ x : Word, (x == ~~~x) = false := fun x => beq_eq_false_iff_ne.2 fun e => by bv_omega
  simp [blockOk, spoilt, block, h]

/-- A standby that has been offered the handover, with the interlock line static; one whose link was heard in each of the last rounds. -/
def offeredHandover (min : BitVec 2) : State :=
  let x := paired .standby true true
  { x with sby := { x.sby with offered := true, min := min, vote := none, heardNow := true, heard := 15 } }

theorem case_standby : (offeredHandover 0).sby.min ≠ 1 ∧ (offeredHandover 1).sby.min = 1 ∧ (offeredHandover 1).sby.offered = true ∧ (offeredHandover 1).sby.vote = none ∧ (paired .standby true true).sby.offered = false ∧
    (offeredHandover 1).sby.heard &&& 7 = 7 ∧ (paired .active false true).sby.heard &&& 7 ≠ 7 ∧ ({ s0 with sby := { s0.sby with pairenNow := true, link := false } } : State).sby.link = false ∧
    (paired .standby false true).sby.fullDone = false ∧ (paired .standby false false).cyc.started = false ∧ (withF s0 R.FRN_CTRL 0 1 1).regBit R.FRN_CTRL 0 = true ∧
    ({ paired .standby false true with sby := { (paired .standby false true).sby with timeDone := true } } : State).sby.timeDone = true := by decide +kernel

theorem case_eligibility : CycleShared { active with cyc := { active.cyc with tcyc := 50 } } ∧ ¬ImageShared s0 ∧ FirstFailing s0 1 ∧
    (∀ c, ¬FirstFailing { active with sby := { active.sby with role := .standby, link := true, partner := active.sby.partner.map fun p => { p with pairfmt := pairFmt active } }, cyc := { active.cyc with tcyc := 50 } } c) := by
  refine ⟨⟨_, rfl, by decide, by decide⟩, fun ⟨_, _, h, _⟩ => by simp [s0, State.reset, SbySt.reset] at h, Or.inl ⟨rfl, by decide⟩, fun c h => ?_⟩
  rcases h with ⟨_, h⟩ | ⟨_, _, h⟩ | ⟨_, _, _, h⟩ | ⟨_, _, _, _, h, _⟩
  · exact absurd h (by decide +kernel)
  · exact h ⟨_, img, rfl, rfl, by decide +kernel⟩
  · exact h ⟨_, rfl, by decide +kernel⟩
  · exact h (by decide +kernel)

/-! ### The cases of the statements: the networks once more -/

/-- Slot 1 is a Scree slot without an owner. -/
def screeStar : State :=
  let s := star admitted []
  { s with fsn := { s.fsn with sched := [(129, BitVec.ofNat 32 (100 + 50 * 2 ^ 10 + 2 * 2 ^ 21 + 5 * 2 ^ 26))] } }

theorem case_scree_slot : (windowSlot screeStar 2 800).map (fun x => (slotOwner screeStar 2 x.2, tooLong screeStar 800 x.2 14, frameOk screeStar (withFcs [0x33, 0, 0, 0, 0, 0, 0, 0, 0, 0]) false x.2)) = some (none, false, true) := by decide +kernel

theorem case_star_more : tooLong (star admitted []) 800 upSlot 2000 = true ∧ (nodeAt (star NodeSt.reset []) 2 3).st = 0 ∧ (portAt claiming 2).claims.map (fun c => (c.scree, (nodeAt claiming 2 3).st)) = [(5, 0)] ∧
    claiming.regF R.FSN_GCFG 16 16 ≤ 65536 + 1 ∧ portsShut (modes 0) (nextRound (modes 0)) = false ∧ (portAt (modes 0) 2).linkLost = false ∧ (portAt (modes 0) 2).asked = [] ∧ allAcked (modes 1) = false ∧
    allAcked s0 = true ∧ modeState (modes 2) = 2 ∧ (modes 2).fsn.swRound ≤ nextRound (modes 2) := by decide +kernel

/-- A frame of a type from a member for the ring's state, in its slot. -/
def ringFrameOf (ty src tx : Nat) (body : Bytes) : Bytes := withFcs ([BitVec.ofNat 8 (16 * ty), BitVec.ofNat 8 src, 0, 0] ++ beBytes 4 0 ++ beBytes 8 tx ++ beBytes 8 0 ++ beBytes 4 0 ++ beBytes 2 body.length ++ [0, 0] ++ body)

theorem case_ring_frames : (∀ x ∈ [(5, 1), (2, 1), (1, 5), (3, 5), (2, 5), (5, 5), (6, 1)], (ring x.1).frn.accepted.contains (frameKey (ringHdr (ringFrameOf x.2 1 0 (List.replicate 12 0)))) = false ∧
      RingAccepts 1 (ringFrameOf x.2 1 (if x.2 = 2 then 61440 else 0) (if x.2 = 2 then [] else List.replicate 12 0)) (ring x.1) ∧ syncState (ring x.1) = x.1 ∧ isMaster (ring x.1) = false) ∧
    RingAccepts 1 (ringFrameOf 1 1 0 (List.replicate 12 0)) master ∧ (ringHdr (ringFrameOf 4 0 30720 [])).src = ownMember (ring 5) ∧ ringFcsOk (ringFrameOf 4 0 30720 []) = true ∧
    ringTypeFits (ring 5) (ringHdr (ringFrameOf 2 1 0 [])) = false ∧ syncState (ring 2) = 2 := by
  refine ⟨?_, ?_, by decide +kernel, by decide +kernel, by decide +kernel, by decide +kernel⟩
  · intro x hx
    fin_cases hx <;> exact ⟨by decide +kernel, ⟨by decide +kernel, by decide +kernel, by decide +kernel, Or.inl (by decide +kernel), by decide +kernel, by decide +kernel, by decide +kernel, by decide +kernel⟩, by decide +kernel, by decide +kernel⟩
  · exact ⟨by decide +kernel, by decide +kernel, by decide +kernel, Or.inl (by decide +kernel), by decide +kernel, by decide +kernel, by decide +kernel, by decide +kernel⟩

/-- A module that takes the roles of time: a candidate, a master that yields, and an ungranted Scree member. -/
theorem case_ring_roles : ppsUsed master 100 = true ∧ ppsUsed { master with frn := { master.frn with ppsLast := some 100 } } 200 = false ∧
    ({ ring 6 with cyc := { s0.cyc with holdSince := some 0 } } : State).cyc.holdSince = some 0 ∧ 64 ≤ 63 + (if true then 1 else 0) ∧ yieldsRole { master with frn := { master.frn with lastRef := [(0, 0, master.fsn.round)] } } = decide (0 < ownRank master) := by
  decide +kernel

/-- Frame 1 of a controller holds its cancel; an object is selected and locked; duplicates have come. -/
def cancelled : State := can 1 fun x => { x with cur := some (.buf 1), txb := setAt x.txb 1 fun _ => { pending := true, cancel := true, res := 7, rvalid := true } }
def vitalOut (m : Option Nat) : State := can 0x81 fun x => { x with cur := some .vital, vqueue := [⟨.can, 1, 2, 3, 4, 5⟩], markDue := m }

theorem case_can_more : sending cancelled 0 = some (.buf 1) ∧ (txAt cancelled 0 (.buf 1)).cancel = true ∧ (1 < 3) ∧ (∀ m ∈ [none, some 5], sending (vitalOut m) 0 = some .vital ∧ (canAt (vitalOut m) 0).markDue = m) ∧
    matchObj (can 3 id) 0 (frame true []) = none ∧ (can 3 fun x => { x with lock := true, objs := [(0, { ObjSt.reset with shadow := some (frame true []) })] }).can.map (·.lock) = [true, false, false, false] ∧
    dlcLen (frame true []).dlc.toNat true ≤ (frame true (List.replicate 24 0)).data.length ∧ ObjSt.reset.data.length = 16 ∧ beAt (frame true [0, 0, 0, 0, 0, 0, 5]).data 6 1 = 5 ∧
    canBit (can 3 id) 0 1 = true ∧ (canAt filtered 0).fifo = [] := by decide +kernel

/-! ### The cases of the statements: the boundary and LOGIC -/

/-- A boundary at which lane C is in a state, and what waits on it. -/
def waitAt (lv : Level) (st : LaneState) (g : GroupSt → GroupSt) : State :=
  { (serving []).updLane .c (fun x => { x with st := st }) with level := lv, group := g s0.group, sieve := { s0.sieve with concluded := true, members := 7, agree := 7, latch := false }, cyc := { (serving []).cyc with cycle := 10 } }

theorem calm_of {s : State} (hd : ∀ l ∈ allLanes, laneDbg s l = false ∧ (s.lanes.get l).passHalt = false ∧ (s.lanes.get l).dbgHold = false)
    (h : t0Due s = true ∧ s.upd.activate = false ∧ s.cyc.started = true ∧ s.sieve.concluded = true ∧ s.sieve.latch = false ∧ chanOpen s .agreed = true ∧ s.sby.acting = s.sby.role ∧
      s.regN R.LANE_TICK < s.regN R.LANE_PTDUE ∧ s.group.proof = none ∧ nextT0 s - s.cyc.lastT0 ≤ 1000000 + s.cyc.halted) : CalmT0 1000000 1000000 1000000 ⟨0, []⟩ ⟨0, []⟩ ⟨0, []⟩ s := by
  obtain ⟨h1, h2, h3, h4, h5, h6, h7, h8, h9, h10⟩ := h
  refine ⟨h1, h2, h3, h4, h5, h6, h7, noHalt_of hd, h8, h9, fun iv hi => ?_, fun m hm => ?_⟩
  · simp only [List.mem_cons, List.not_mem_nil, or_false, or_self] at hi; subst hi; exact_mod_cast h10
  · simp only [List.mem_cons, List.not_mem_nil, or_false, or_self] at hm; subst hm; decide

theorem members_of {n : Nat} {s : State} (h : setSize (memberSet s) = n ∧ ∀ l ∈ allLanes, (s.lanes.get l).st = .member → (s.lanes.get l).rail = false) : Members n s :=
  ⟨h.1, fun l => by cases l <;> exact h.2 _ (by decide)⟩

/-- The boundaries of the cases: with a request for a level, a release, a lane for a direct run, and an image. -/
def bounds : List State :=
  [waitAt .full .member id, waitAt .stopped .member fun g => { g with modeTo := some .full }, waitAt .full .member fun g => { g with modeTo := some .stopped }, waitAt .reduced .out id, waitAt .full .out id, waitAt .bedrock .member id,
   waitAt .full .member fun g => { g with release := [(.b, rq [])] }, waitAt .reduced .out fun g => { g with release := [(.b, rq [])] }, waitAt .reduced .out fun g => { g with release := [(.c, rq [])] },
   waitAt .full .member fun g => { g with directLeave := some .a }, { waitAt .full .member id with loamNext := some img2 }]

theorem case_bounds : ∀ s ∈ bounds, CalmT0 1000000 1000000 1000000 ⟨0, []⟩ ⟨0, []⟩ ⟨0, []⟩ s := by
  intro s hs
  have h : ∀ s ∈ bounds, (∀ l ∈ allLanes, laneDbg s l = false ∧ (s.lanes.get l).passHalt = false ∧ (s.lanes.get l).dbgHold = false) ∧
    (t0Due s = true ∧ s.upd.activate = false ∧ s.cyc.started = true ∧ s.sieve.concluded = true ∧ s.sieve.latch = false ∧ chanOpen s .agreed = true ∧ s.sby.acting = s.sby.role ∧
      s.regN R.LANE_TICK < s.regN R.LANE_PTDUE ∧ s.group.proof = none ∧ nextT0 s - s.cyc.lastT0 ≤ 1000000 + s.cyc.halted) := by decide +kernel
  exact calm_of (h s hs).1 (h s hs).2

theorem case_bounds_wait : (∀ x ∈ bounds.zip [(3, none), (3, some .full), (3, some .stopped), (2, none), (2, none), (3, none)], Waits x.2.2 none [] none none x.1 ∧ setSize (memberSet x.1) = x.2.1) ∧
    (∀ x ∈ (bounds.drop 6).zip [(3, Lane.b), (2, Lane.b), (2, Lane.c)], Waits none none [(x.2.2, rq [])] none none x.1 ∧ setSize (memberSet x.1) = x.2.1) ∧
    (∀ s ∈ (bounds.drop 9).take 1, Waits none none [] (some .a) none s ∧ setSize (memberSet s) = 3 ∧ (s.lanes.get .a).st = .member) ∧
    (∀ s ∈ bounds.drop 10, Waits none none [] none (some img2) s ∧ setSize (memberSet s) = 3) ∧ (∀ s ∈ bounds, ∀ l ∈ allLanes, (s.lanes.get l).st = .member → (s.lanes.get l).rail = false) ∧
    (∀ s ∈ bounds, s.sieve.excluded = 0 ∧ (nextCycle s).1 = 11) := by
  unfold Waits; decide +kernel

/-- Lane C in a state, at a step of its rejoin. -/
def atStep (st : LaneState) (step : BitVec 3) (r lim : Nat) (f : Rejoin → Rejoin) : State :=
  waitAt .reduced st fun g => { g with rejoin := some (f { rejoin step [] [] with r := r, limit := lim }) }

/-- The boundaries of a rejoin: the lane leaves reset, hot or not; its copy begins, is late, goes on, is complete; the silent cycles go on and end, with each outcome. -/
def steps : List State :=
  [atStep .copy 1 10 4 id, (atStep .copy 1 10 4 id).updLane .c fun x => { x with hot := true }, atStep .copy 1 9 4 id, atStep .copy 2 5 4 id, atStep .copy 2 5 9 id, atStep .copy 2 5 9 fun r => { r with ended := 3 },
   atStep .silent 3 3 9 fun r => { r with k := some 9 }, atStep .silent 3 3 9 fun r => { r with k := some 7, silOk := 3 }, atStep .silent 3 3 9 fun r => { r with k := some 7 }]

theorem case_steps : ∀ s ∈ steps, CalmT0 1000000 1000000 1000000 ⟨0, []⟩ ⟨0, []⟩ ⟨0, []⟩ s ∧ Members 2 s := by
  intro s hs
  have h : ∀ s ∈ steps, ((∀ l ∈ allLanes, laneDbg s l = false ∧ (s.lanes.get l).passHalt = false ∧ (s.lanes.get l).dbgHold = false) ∧
    (t0Due s = true ∧ s.upd.activate = false ∧ s.cyc.started = true ∧ s.sieve.concluded = true ∧ s.sieve.latch = false ∧ chanOpen s .agreed = true ∧ s.sby.acting = s.sby.role ∧
      s.regN R.LANE_TICK < s.regN R.LANE_PTDUE ∧ s.group.proof = none ∧ nextT0 s - s.cyc.lastT0 ≤ 1000000 + s.cyc.halted)) ∧ setSize (memberSet s) = 2 ∧ ∀ l ∈ allLanes, (s.lanes.get l).st = .member → (s.lanes.get l).rail = false := by
    decide +kernel
  exact ⟨calm_of (h s hs).1.1 (h s hs).1.2, members_of (h s hs).2⟩

theorem case_steps_wait : (∀ s ∈ steps, Waits none s.group.rejoin [] none none s ∧ s.group.rejoin.map (·.lane) = some .c ∧ (s.lanes.get .c).st ≠ .member ∧ s.level ≠ .full ∧ RegsOk s ∧ (nextCycle s).1 = 11) ∧
    (∀ x ∈ steps.zip [some false, some true], some (x.1.lanes.get .c).hot = x.2 ∧ railsHeld x.1 .c = true ∧ (x.1.lanes.get .c).evalOff = none) ∧
    (∀ s ∈ (steps.drop 3).take 2, s.group.rejoin.map (fun r => copyDone s r 10) = some false) ∧ (∀ s ∈ (steps.drop 5).take 1, s.group.rejoin.map (fun r => copyDone s r 10) = some true) := by
  unfold Waits; decide +kernel

/-- The failures of the compare paths of the returning lane: none, one evaluator's, two. -/
theorem case_path_failures : pathFailures .c [] = [] ∧ pathFailures .c [⟨2, 5, 1, 0, 0⟩] = [5] ∧ pathFailures .c [⟨2, 5, 1, 0, 0⟩, ⟨2, 9, 2, 0, 0⟩] = [5, 9] ∧ OutFor { LaneSt.reset with cause := 9 } 9 ∧
    pathCases .a = true ∧ pathCases .b = true ∧ pathCases .c = true := by unfold OutFor Stopped; decide +kernel

/-- A lane's LOGIC is about to begin in cycle 10 of a serving level, with one dirty element and one changed input. -/
def logical (lv : Level) (ws : List (Nat × Info)) (f : LaneSt → LaneSt) : State :=
  (lanesWith { serving ws with level := lv } fun x => f { x with snap := some snap, decided := true, place := .entry, inputs := [(1, 1)], reg := { x.reg with dirty := [6] } })

theorem case_logic_runs : ∀ lv ∈ [Level.full, .bedrock], (fun s : State => s.loam = some img ∧ s.level ≠ .stopped ∧ s.sby.takeover ≠ some s.cyc.cycle ∧ isStandby s = false ∧ s.group.shown = [] ∧ consensusOpen s = false ∧
    (s.lanes.get .a).snap.isSome = true ∧ (s.lanes.get .a).decided = true ∧ (s.lanes.get .a).place = .entry ∧ (s.lanes.get .a).goesOn = true ∧
    (fun y : LaneSt => y.goesOn = true ∧ y.place = .output ∧ y.cx = none) (logicOf (fun y => ctxOf (s.updLane .a fun _ => y) .a) img (s.lanes.get .a))) (logical lv [(1, 0xC00000)] id) := by
  decide +kernel

/-- The context of lane A, and its lane with some element words. -/
def ca : Ctx := ctxOf (logical .full [] id) .a
def la (ws : List (Nat × Info)) : LaneSt := (logical .full ws id).lanes.get .a

theorem ctlReady_of {c : Ctx} {m : Loam} {x : LaneSt} (h : Memory.wf (spareByte c.lane) x.sram = true ∧ x.cx = none ∧ (x.unit ctlUnit).delay = [] ∧ (x.sram.all fun k => decide (k.1 < 6 * m.elems.length)) = true ∧
    ∀ j < m.elems.length, loadOk c m x j = true) : CtlReady c m x := by
  obtain ⟨h1, h2, h3, h4, h5⟩ := h
  refine ⟨h1, h2, h3, fun j => ?_⟩
  by_cases hj : j < m.elems.length
  · exact h5 j hj
  · rw [loadOk, loadChecked, if_neg hj, beq_iff_eq]
    exact sramWord_spare fun k hk => by have := of_decide_eq_true (List.all_eq_true.1 h4 k hk); have hk : m.elems.length ≤ j := Nat.le_of_not_lt hj; omega

theorem case_stratum : Memory.wf (spareByte .a) (la []).sram = true ∧ (la []).cx = none ∧ (la []).drained = true ∧ ([1, 6].filter fun i => (img.elem i).stratum == 0) = [1, 6] ∧
    (∀ i ∈ [1, 6], i < img.elems.length ∧ (∀ k ∈ stepLoads img i, loadOk ca img (la []) k = true) ∧ (programOf img (img.elem i)).all ruleOk = true ∧ ∀ j ∈ [1, 6], j ∉ nbrsOf (img.elem i)) := by decide +kernel

/-- A wave of route element 3, searching from the entry signal; a change that has been confirmed for the timer. -/
theorem case_logic_begins : CtlReady ca img ((la []).startLogic 10) ∧ ((la []).reg.confirmed = none) ∧ (wave 7).copied = false ∧ (img.elem 4).ty = tyTmr ∧
    assoc 1 (la []).inputs ≠ assoc 1 (la []).prevInputs ∧ ({ (la []).reg with confirmed := some proposal } : Regions).confirmed = some proposal ∧ proposal.elem < img.elems.length :=
  ⟨ctlReady_of (by decide +kernel), by decide +kernel⟩

/-- An image with an element of every type, each with a program that ends at once; elements 1 to 4, 9 and 10 are field-bound. -/
def img4 : Loam :=
  { img with rules := [0], elems := ((List.range 12).map fun t => { el (BitVec.ofNat 4 t) (t ∈ [1, 2, 3, 4, 9, 10]) (if t = 1 then [0, 0x8000000C + 0x800000] else []) 4 with ruleLen := 1 }) ++ [el 1 false [] 0] }

/-- Lane A of that image, with input records of the elements that a value names. -/
def lt (ins : List (Nat × BitVec 16)) : LaneSt := { la [(1, 0x000022), (3, 0x000083), (8, 0x020009)] with inputs := ins }

theorem case_type_tables : (∀ i < 12, (img4.elem i).ty = i ∧ Plain img4 (img4.elem i) ∧ (img4.elem i).ruleLen ≠ 0) ∧ Plain img (img.elem 1) ∧ (img.elem 1).ruleLen = 0 ∧
    (∀ i ∈ [1, 2, 3, 4, 9, 10], takesInput 0 (img4.elem i) = true ∧ stepInput ca img4 (lt [(i, 2)]) i = some 2 ∧ stepInput ca img4 (lt [(i, 1)]) i = some 1 ∧ stepInput ca img4 (lt []) i = none) ∧ takesInput 0 (img4.elem 12) = false ∧
    (img4.elem 12).ty = tyTrk ∧ ca.mem = 0 ∧ ((programOf img4 (img4.elem 1)).all ruleOk) = true ∧ (lt []).stepped = [] ∧ (1 : BitVec 16).getLsbD 0 = true ∧ (2 : BitVec 16).getLsbD 0 = false ∧
    ifld (infoOf ca (lt []) 1) 3 4 = fld (paramOf img4 (lt []) 1) 0 4 ∧ ifld (infoOf ca (lt []) 1) 10 1 = 0 := by unfold Plain; decide +kernel

/-- A neighbour word: the element, the far port, and whether leaving goes down. -/
def nb (i far : Nat) (down : Bool) : Word := BitVec.ofNat 32 (i + 2 ^ 23 + far * 2 ^ 24 + if down then 2 ^ 26 else 0)

/-- A yard: route 0 with its timer 8, from signal 1 by track 2, point 3 and track 4 to signal 5; overlap 6 with its timer 9 ends at track 13 by track 12; flank group 7 holds the point; track 10 lies before the entry, 11 on the diverging leg. -/
def yard (kind : BitVec 2) (ovl : Option ElemIx) : Loam :=
  { img with
    elems := [el 5 false [0, 0, 0, nb 8 0 false] 0, el 3 false [nb 10 1 true, nb 2 0 false] 0xFFFF, el 1 false [nb 1 1 true, nb 3 0 false] 0, el 2 true [nb 2 1 true, nb 4 0 false, nb 11 0 false, nb 7 0 false] 20,
      el 1 false [nb 3 1 true, nb 5 0 false] 0, el 3 false [nb 4 1 true, nb 12 0 false] 0xFFFF, el 6 false [nb 5 1 false, nb 13 0 false, 0, nb 9 0 false] 0, el 7 false [nb 3 3 false] 0, el 8 false [] 7, el 8 false [] 9,
      el 1 false [0, nb 1 0 false] 0, el 1 false [nb 3 2 true] 0, el 1 false [nb 5 1 true, nb 13 0 false] 0, el 1 false [nb 12 1 true] 0]
    routes := [⟨1, kind, 5, ovl, 0, 4⟩], path := [⟨1, 1, 0⟩, ⟨2, 1, 0⟩, ⟨3, 1, 1⟩, ⟨4, 1, 0⟩] }

/-- A trail entry of a path, and a wave of route 0 whose trail names some elements, at an element. -/
def ent (i : ElemIx) : TrailEntry := { elem := i, exit := 1, pos := if i = 3 then 1 else 0, role := .path, shared := false, inPort := 0, untried := none }
def wv (st : WaveState) (t : List ElemIx) (at_ : ElemIx) : Wave := { wave 7 with rte := 0, st := st, trail := t.map ent, here := at_, stepNo := t.length, accepted := 9 }

/-- A lane of the yard with its waves. -/
def ly (ws : List (Nat × Info)) (v : List Wave) : LaneSt := { la ws with reg := { (la ws).reg with waves := v } }

/-- Proven and free: a clear track, a point normal, a signal dark. -/
def freeWords : List (Nat × Info) := [(1, 0xC00000), (2, 0xC00400), (3, 0xC00280), (4, 0xC00400), (5, 0xC00000), (6, 0xC00000), (7, 0xC00000), (12, 0xC00400), (13, 0xC00400)]

theorem case_yard_ready : ∀ k o ws v, (k, o) ∈ [((1 : BitVec 2), some 6), (1, none), (0, none)] → ws ∈ [[], freeWords] → CtlReady ca (yard k o) (ly ws v) := by
  intro k o ws v h1 h2
  have h : ∀ x ∈ [((1 : BitVec 2), some 6), (1, none), (0, none)], ∀ ws ∈ [[], freeWords], Memory.wf (spareByte ca.lane) (la ws).sram = true ∧ (la ws).cx = none ∧ ((la ws).unit ctlUnit).delay = [] ∧
    ((la ws).sram.all fun k => decide (k.1 < 6 * (yard x.1 x.2).elems.length)) = true ∧ ∀ j < (yard x.1 x.2).elems.length, loadOk ca (yard x.1 x.2) (la ws) j = true := by decide +kernel
  have g := ctlReady_of (h _ h1 _ h2)
  exact ⟨g.1, g.2.1, g.2.2.1, fun j => g.2.2.2 j⟩

/-- Waves that retreat, lock, search and pause, each the one of its lane. -/
theorem case_wave_stages : (∀ w ∈ [wv .retreating [1] 2, wv .retreating [1, 2] 3, wv .locking [1, 2] 3, wv .locking [1] 3, wv .paused [] 1, wv .searching [1] 2], waveOf (ly freeWords [w]) 7 = some w ∧ w.rte < (yard 1 none).elems.length ∧ w.num.toNat = 7) ∧
    ({ wv .retreating [1] 2 with retreat := .ending 7 } : Wave).retreat = .ending 7 ∧ (wv .retreating [1] 2).trail = [] ++ [ent 1] ∧ (wv .retreating [1, 2] 3).trail = [ent 1] ++ [ent 2] ∧ (wv .locking [1, 2] 3).trail[0]? = some (ent 1) ∧
    (wv .locking [1] 3).committed + 1 = (wv .locking [1] 3).trail.length ∧ (ent 1).elem ≠ (wv .locking [1] 3).rte := by decide +kernel

/-- A free search examines a free element, one with two legs, a blocked, a faulted and a claimed one. -/
theorem case_examines : Examines ca (yard 1 none) (ly freeWords [wv .searching [1] 2]) (wv .searching [1] 2) (1, 0) [] ∧ Examines ca (yard 1 none) (ly freeWords [wv .searching [1, 2] 3]) (wv .searching [1, 2] 3) (1, 1) [(2, 2)] ∧
    Examines ca (yard 1 none) (ly [] [wv .searching [1] 2]) (wv .searching [1] 2) (1, 0) [] ∧ claimOf ca (ly freeWords []) 2 = 0 ∧ wfld ca (ly freeWords []) 2 21 1 = 0 ∧ 2 ≤ statusOf ca (ly freeWords []) 2 ∧ clearOf ca (ly freeWords []) 2 = true ∧
    demandOf (yard 1 none) 3 1 = some [(7, 0)] ∧ claimOf ca (ly [] []) 2 = 0 ∧ statusOf ca (ly [(2, 0x400000)] []) 2 = 1 ∧ statusOf ca (ly [(2, 0x000000)] []) 2 = 0 ∧ wfld ca (ly [(2, 0xE00000)] []) 2 21 1 = 1 ∧
    (∀ st ∈ [WaveState.retreating, .searching, .locking], claimOf ca (ly [(2, 0xC80800)] []) 2 = 1 ∧ waveOf (ly [(2, 0xC80800)] [wv .searching [1] 2, { wave 1 with st := st, age := 5 }]) (tagOf ca (ly [(2, 0xC80800)] []) 2) = some { wave 1 with st := st, age := 5 }) ∧
    older (wv .searching [1] 2) { wave 1 with age := 5 } = true ∧ older { wave 1 with age := 5 } (wv .searching [1] 2) = false := by unfold Examines; decide +kernel

/-- A flank member free, and one held already; the exit reached, with and without an overlap; the OVL element; a path step that names another element; a wave that restarts. -/
theorem case_flanks : claimOf ca (ly freeWords []) 7 = 0 ∧ 2 ≤ statusOf ca (ly freeWords []) 7 ∧ ((yard 1 none).elem 7).ty = tyFlk ∧ claimOf ca (ly [(7, 0xD80800)] []) 7 = 3 ∧ tagOf ca (ly [(7, 0xD80800)] []) 7 < 255 ∧
    (rowOf (yard 1 none) (ly [] []) 0).kind = 1 ∧ (rowOf (yard 1 none) (ly [] []) 0).overlap = none ∧ (rowOf (yard 1 (some 6)) (ly [] []) 0).overlap = some 6 ∧ portOk (yard 1 (some 6)) 5 1 (some !true) = true ∧ (rowOf (yard 1 none) (ly [] []) 0).exit = 5 ∧
    claimOf ca (ly freeWords []) 6 = 0 ∧ 2 ≤ statusOf ca (ly freeWords []) 6 ∧ ((yard 1 (some 6)).elem 6).ty = tyOvl ∧ (rowOf (yard 0 none) (ly [] []) 0).kind ≠ 1 ∧ pathStep (yard 0 none) (rowOf (yard 0 none) (ly [] []) 0) 1 = some ⟨2, 1, 0⟩ ∧
    1 < (rowOf (yard 0 none) (ly [] []) 0).pathLen ∧ (wv .searching [1] 4).stepNo = 1 ∧ ca.cycle - (wv .paused [] 1).accepted < (ly [] []).set.wavelife := by decide +kernel

/-- The words of a route that stands: the route in a state of R107, its entry signal, its path locked with exit port 1, its overlap, and the flank group proven. -/
def standing (rs : Nat) (more : List (Nat × Info)) : List (Nat × Info) :=
  [(0, BitVec.ofNat 24 (0xC00000 + 128 * rs)), (1, 0xD00800), (2, 0xD00C00), (3, 0xD00A80), (4, 0xD00C00), (5, 0xC00000), (6, 0xD00A00), (7, 0xD80C00), (8, 0x040000), (9, 0xC40000), (12, 0xD00C00), (13, 0xD00C00)] ++ more

/-- The chains of the route, and what its items find in each state. -/
theorem case_route_items : ∀ c ∈ [ca], ∀ m ∈ [yard 1 (some 6)], (routeChains c m (ly (standing 5 []) []) 0).2 = ([1, 2, 3, 4], [12, 13]) ∧ (rowOf m (ly [] []) 0).entry = 1 ∧ (m.elem 0).ty = tyRte ∧ (m.elem 1).ty = tySig ∧ timerOf m 0 = some 8 ∧
    (∀ rs ∈ [0, 3, 4, 5, 6, 7, 8, 9, 10], rstateOf c (ly (standing rs []) []) 0 = rs) ∧ (∀ k ∈ [1, 2, 3, 4, 12, 13], 2 ≤ statusOf c (ly (standing 5 []) []) k ∧ ((m.elem k).ty = tyTrk → clearOf c (ly (standing 5 []) []) k = true)) ∧
    detOf c (ly (standing 3 []) []) 3 = cmdOf c (ly (standing 3 []) []) 3 ∧ demandedGroups c m (ly (standing 4 []) []) [1, 2, 3, 4, 12, 13] = [(3, [7])] ∧ demandClaims m 3 [7] = [(7, 0)] ∧ wfld c (ly (standing 5 []) []) 7 10 1 = 1 ∧
    pathIntact c m (ly (standing 5 []) []) 0 [1, 2, 3, 4] = none ∧ overlapIntact c m (ly (standing 5 []) []) 0 [12, 13] = none ∧ firstTrk m [1, 2, 3, 4] = some 2 ∧ seqOf c (ly (standing 6 [(2, 0xD00C80)]) []) 2 = 1 ∧
    seqOf c (ly (standing 7 [(2, 0xD00D00)]) []) 2 = 2 ∧ wfld c (ly (standing 6 []) []) 1 7 4 = 0 ∧ wfld c (ly (standing 8 []) []) 8 17 2 = 2 ∧ wfld c (ly (standing 9 []) []) 1 3 4 = 0 := by decide +kernel

/-- An orphan, a lost proof, a flank that is lost, and an overlap that is timed and released. -/
theorem case_other_items : ∀ c ∈ [ca], ∀ m ∈ [yard 1 (some 6)], claimOf c (ly [(2, 0xC80800)] []) 2 = 1 ∧ waveOf (ly [(2, 0xC80800)] []) (tagOf c (ly [(2, 0xC80800)] []) 2) = none ∧ claimOf c (ly (standing 6 [(4, 0xD00800)]) []) 4 = 2 ∧
    clearOf c (ly (standing 6 [(4, 0xD00800)]) []) 4 = false ∧ (headFrom c m (visit c m (ly (standing 6 [(4, 0xD00800)]) []) 4) 4).2 = 1 ∧ isEntry c m (ly (standing 6 [(4, 0xD00800)]) []) 1 = true ∧ claimOf c (ly [(3, 0x580800)] []) 3 = 3 ∧
    statusOf c (ly [(3, 0x580800)] []) 3 ≤ 1 ∧ groupsOf m 3 = [7] ∧ claimOf c (ly (standing 7 []) []) 6 = 2 ∧ nbrIx ((m.elem 6).port 0) = 5 ∧ nbrPresent ((m.elem 6).port 0) = true ∧ overlapHead c m (ly (standing 7 []) []) 5 = some 12 ∧
    wfld c (ly (standing 7 []) []) 6 9 2 = 1 ∧ nbrIx ((m.elem 5).port 0) = 4 ∧ timerOf m 6 = some 9 ∧ seqOf c (ly (standing 7 [(4, 0xD00C80)]) []) 4 = 1 ∧ wfld c (ly (standing 7 [(6, 0xD00C00)]) []) 6 9 2 = 2 ∧
    wfld c (ly (standing 7 []) []) 9 17 2 = 2 ∧ (chainFrom c m (visit c m (ly (standing 7 []) []) 6) 12).2 = [12, 13] := by decide +kernel

/-! ### The cases of the statements: the recorder, the scans and the networks once more -/

/-- The flushed block is full and the next one holds a record that a completion still owes to the host. -/
def wantedBlock : State :=
  { erasing with shale := { erasing.shale with wslot := 8192 }
                 hif := { s0.hif with held := [mkCmpl opRecord (rqr 1) 0 10 ([1, 0, 0, 0] ++ [2, 0])] } }

theorem case_wanted_block : MemoryOk wantedBlock ∧ blockWanted wantedBlock (eraseTarget wantedBlock.shale) = true ∧ blockWanted { wantedBlock with hif := s0.hif } (eraseTarget wantedBlock.shale) = false ∧ nextHolds wantedBlock.shale = true ∧
    wantedBlock.shale.wslot = 8192 ∧ wantedBlock.shale.flushing = some 1 := by decide +kernel

theorem case_scan_waits : chkOwned scanning 3 = true ∧ bgRunning (setBg scanning false) = false ∧ (setBg scanning false).chk.ticks = 0 ∧ chkOwned (setBg scanning false) 3 = true ∧ chkOwned (unit 1 4 true) 0 = false ∧
    (withF scanning R.CHK_BGCFG 0 16 1).regF R.CHK_BGCFG 0 16 ≤ 1 ∧ (scanning.regF R.CHK_BGCFG 0 16 ≤ scanning.chk.ticks + 1 ∨ scanning.chk.ticks + 1 < scanning.regF R.CHK_BGCFG 0 16) := by decide +kernel

/-- A port whose EN has been cleared in the round; a Scree member with one CLAIM, and with two. -/
def screeMember (n : Nat) : State :=
  withF { master with frn := { master.frn with claims := (List.range n).map fun k => { src := 3, serial := BitVec.ofNat 64 k, round := 0, fresh := true } } } R.FRN_SCREE 3 1 1

theorem case_networks_more : ({ PortSt.reset with on := true, dropped := true } : PortSt).dropped = true ∧ (portAt (star admitted []) 2).dropped = false ∧ ((screeMember 1).frn.claims.filter fun c => c.fresh && c.src.toNat == 3).length = 1 ∧
    isScree (screeMember 1) 3 = true ∧ isGranted (screeMember 1) 3 = false ∧ ringGrant (screeMember 1) = some 3 ∧ ringGrant (screeMember 2) = none ∧ (ring 4).cyc.started = false ∧ (ring 4).frn.refLoaded = false ∧ syncState (ring 4) = 4 ∧
    ({ ring 4 with frn := { s0.frn with refLoaded := true } } : State).frn.refLoaded = true := by decide +kernel

theorem case_can_counts : canBit (can 3 fun x => { x with tec := 256, st := 1 }) 0 0 = true ∧ (canAt (can 3 fun x => { x with tec := 256, st := 1 }) 0).st ≠ 2 ∧ 256 ≤ (canAt (can 3 fun x => { x with tec := 256, st := 1 }) 0).tec ∧ (canAt (can 3 id) 0).tec < 256 ∧
    canRuns (can 3 id) 0 = true ∧ canRuns s0 0 = false ∧ CanEnd.unacked ≠ .done ∧ (canAt (can 3 fun x => { x with st := 1 }) 0).st = 1 ∧ sending (vitalOut none) 0 = some .vital ∧ vitalNow (canAt (vitalOut (some 5)) 0) = { mark := true, cycle := 5, entries := [], first := true } ∧
    (canAt (vitalOut none) 0).vcur = none := by decide +kernel

/-! ### Well-formed and ill-formed commands, one for each check -/

theorem test_ill_formed_request : (Instr.pointMove { rqe 1 [] with args := [] }).wf = false ∧ (Instr.pointMove (rqe 1 [])).wf = true := by decide +kernel

theorem test_ill_formed_descriptor : (Instr.descriptorRead (.ok [0] none)).wf = false ∧ (Instr.descriptorRead (.ok (List.replicate 64 0) none)).wf = true := by decide +kernel

theorem test_ill_formed_can_frame : (Instr.canFrameReceived 0 0 (.frame (frame false (List.replicate 9 0)))).wf = false ∧ (Instr.canFrameReceived 0 0 (.frame (frame true (List.replicate 9 0)))).wf = true ∧
    (Instr.canFrameReceived 0 0 (.frame (frame true (List.replicate 65 0)))).wf = false := by decide +kernel

theorem test_ill_formed_word : (Instr.laneOutputWord .a (.cmpl ⟨0, 0, 0, 0, 0, 0, [], false, 0, [], false⟩)).wf = false ∧
    (Instr.laneOutputWord .a (.cmpl (mkCmpl opPointMove (rqe 1 []) 0 0 []))).wf = true := by decide +kernel

theorem test_ill_formed_record : (Instr.recordEntry 7 0 0 (List.replicate 13 0)).wf = false ∧ (Instr.recordEntry 7 0 0 (List.replicate 12 0)).wf = true := by decide +kernel

/-! ### The table gives no row any bits -/

theorem test_no_word_spells_a_command : decodeTableWord 32 0x12345678 = none ∧ s0.withFetchWord 32 0x12345678 = s0 := by decide +kernel

/-! ### Small results, each from a rule of spec/ -/

/-- The nine test bytes of R381. -/
def nine : Bytes := [0x31, 0x32, 0x33, 0x34, 0x35, 0x36, 0x37, 0x38, 0x39]

/-- R381, the check values of its table. -/
theorem test_check_values : crc32c nine = 0xE3069283 ∧ crc32iso nine = 0xCBF43926 ∧ crc64 nine = 0x6C40DF5F0B497347 ∧ vmp1 nine = 0x3010BF7F ∧ vmp2 nine = 0x1697D06A := by decide +kernel

/-- R89: a track section with FILTMAX 1 becomes clear on its second clear reading; an occupied reading takes CLEAR at once. -/
theorem test_track_filter : ifld (trkTable primaryView [] true (some 0) 1 true 0).1 10 1 = 0 ∧ ifld (trkTable primaryView [] true (some 0) 1 true (trkTable primaryView [] true (some 0) 1 true 0).1).1 10 1 = 1 ∧
    ifld (trkTable primaryView [] true (some 1) 1 true 0x400).1 10 1 = 0 := by decide +kernel

/-- R89, R90: a point whose detection differs from its command is UNPROVEN, and FAULTED when MOVET reaches MOVEMAX. -/
theorem test_point_moves : pntTable primaryView true (some 1) 2 10 true 0x100 = (0x301, true, false) ∧ (pntTable primaryView true (some 1) 2 10 true 0x301).2 = (true, true) ∧ (pntTable primaryView true (some 2) 2 10 true 0x301) = (0x500, false, false) := by decide +kernel

/-- R89: a field-bound signal whose lit aspect differs a third time goes to 0 and raises F. -/
theorem test_signal_mismatch : sigTable primaryView true (some 0) 3 true 0x82 = (0x03, false, true) ∧ (sigTable primaryView true (some 0) 3 true 0x81).2 = (false, false) := by decide +kernel

/-- R215: cycle 5 names lane A, cycle 8 none. -/
theorem test_required_check : requiredCheck 7 5 = 6 ∧ requiredCheck 7 8 = 7 ∧ requiredCheck 3 6 = 0 := by decide +kernel

/-- R392: code 1, severity 2, source 9, number 6, 256 ms, the third power cycle, one payload byte. -/
theorem test_record_layout : (recordBytes 1 2 9 6 256 3 [0xAB]).take 30 = [1, 0, 2, 9, 6, 0, 0, 0, 0, 1, 0, 0, 0, 0, 3, 0, 0, 0, 0xAB, 0, 0, 0, 0, 0, 0, 0, 0, 0, 0, 0] := by decide +kernel

/-- R366: the field supply falls to 16.0 V and comes back above 17.5 V. -/
theorem test_field_undervoltage : (match step { field with pending := [.vfldThreshold 16000] } with | .next t => t.vio.uv && !t.vio.ov | _ => false) = true := by decide +kernel

/-- R259: a write of 1 to a bit of EVG_SETPEND sets the pending bit, of EVG_CLRPEND clears it. -/
theorem test_pending_bits : (match step { s0 with pending := [.evgSetPend 0 2] } with | .next t => t.evg.pend.getLsbD 1 | _ => false) = true ∧
    (match step { s0 with evg := { s0.evg with pend := 2 }, pending := [.evgClrPend 0 2] } with | .next t => !t.evg.pend.getLsbD 1 | _ => false) = true := by decide +kernel

/-- The recorder has stopped for the power failure, so that no record's free content stands in the way. -/
def unrecorded (s : State) : State := { s with shale := { s.shale with pfwStop := true } }

/-- R205, R211: a lane whose digest differs from two equal ones leaves the group. -/
theorem test_vote_excludes : (match step { unrecorded concluded with pending := [.laneDigest .c 6] } with | .next t => (t.lanes.get .c).st == .out && t.sieve.agree == 3 && t.level == .reduced | _ => false) = true := by decide +kernel

/-- R215: the armed keep-clear hold lapses and the latch sets; while it is suspended nothing happens. -/
theorem test_keep_clear : (match step { unrecorded (armed false) with pending := [.keepClearLapse] } with | .next t => t.sieve.latch && t.levelCause == 8 | _ => false) = true ∧
    (match step { unrecorded (armed true) with pending := [.keepClearLapse] } with | .next t => t.sieve.latch | _ => true) = false := by decide +kernel

/-- R330: a cancel of a buffer that is not in arbitration ends its request with RES 6. -/
theorem test_can_cancel : (match step { can 1 requested with pending := [.txCan 0 2 0] } with | .next t => (txAt t 0 (.buf 1)).res == 6 && !(txAt t 0 (.buf 1)).pending | _ => false) = true := by decide +kernel

/-- R281: a frame in no window is cut and counted as babble. -/
theorem test_star_babble : (match step { star admitted [] with pending := [.frameCut 2 0 3 .noWindow] } with | .next t => t.reg (R.FSN_P_BABCNT 2) == 1 && t.reg (R.FSN_P_RXCNT 2) == 0 | _ => false) = true := by decide +kernel

/-- R394: the second record of a code with one token left is suppressed. -/
theorem test_record_rate : (match step { s0 with shale := { s0.shale with burst := 1 }, pending := [.recordEntry 7 0 0 []] } with
    | .next t => recTokens t 7 == 0 && t.shale.buf.length == 1 && t.shale.next == s0.shale.next + 1 | _ => false) = true := by decide +kernel

/-- R242: POINT_MOVE of a proven free point writes CMD 2 and MOVET 0 in every lane and completes DONE. -/
theorem test_point_move : (match step { serving [(1, 0xC00000)] with pending := [.pointMove (rqe 1 [2])] } with
    | .next t => allLanes.all fun l => wfld (ctxOf t l) (t.lanes.get l) 1 7 2 == 2 && wfld (ctxOf t l) (t.lanes.get l) 1 0 7 == 0 | _ => false) = true := by decide +kernel

end Sys2Proof.Tests
end

/-! ## Unassigned offsets (R69) and the access log (R62, R76) -/

namespace Sys2Proof.Machine

/-! ### Fields of a register -/

/-- A replaced field reads as the low bits of its value (R4). -/
theorem fld_putFld_same (v lsb w x : Nat) : fld (putFld v lsb w x) lsb w = x % 2 ^ w := by
  apply Nat.eq_of_testBit_eq
  intro j
  simp only [fld, Nat.testBit_mod_two_pow, Nat.testBit_div_two_pow, testBit_putFld, Nat.add_sub_cancel]
  by_cases hj : j < w
  · rw [if_pos ⟨by omega, by omega⟩]
  · simp [hj]

/-- A field that lies within n bits does not see the cut to n bits. -/
theorem fld_mod_two_pow (v n lsb w : Nat) (h : lsb + w ≤ n) : fld (v % 2 ^ n) lsb w = fld v lsb w := by
  apply Nat.eq_of_testBit_eq
  intro j
  simp only [fld, Nat.testBit_mod_two_pow, Nat.testBit_div_two_pow]
  by_cases hj : j < w
  · simp [show j + lsb < n by omega]
  · simp [hj]

/-- A field of a register that was just written is that field of the written number. -/
theorem State.regF_setReg_same (s : State) (off v lsb w : Nat) (hs : RegsOk s) (h : lsb + w ≤ 32) :
    (s.setReg off (BitVec.ofNat 32 v)).regF off lsb w = fld v lsb w := by
  rw [State.regF, State.regN, State.reg_setReg_same s off _ hs, BitVec.toNat_ofNat, fld_mod_two_pow v 32 lsb w h]

/-- A field reads as it was last written. -/
theorem State.regF_setF_same (s : State) (off lsb w x : Nat) (hs : RegsOk s) (h : lsb + w ≤ 32) :
    (s.setF off lsb w x).regF off lsb w = x % 2 ^ w := by
  rw [State.setF_eq, State.regF_setReg_same s off _ lsb w hs h, fld_putFld_same]

/-- A counter that holds at its maximum counts one. -/
theorem State.regF_bumpSat_same (s : State) (off lsb w : Nat) (hs : RegsOk s) (h : lsb + w ≤ 32) :
    (s.bumpSat off lsb w).regF off lsb w = min (s.regF off lsb w + 1) (2 ^ w - 1) := by
  have hw : 0 < 2 ^ w := Nat.two_pow_pos w
  rw [State.bumpSat, State.regF_setF_same s off lsb w _ hs h, Nat.mod_eq_of_lt (by omega)]

/-- A field keeps its value where its register does. -/
theorem RegsBut.regF_eq {l : List Nat} {s t : State} (h : RegsBut l s t) {off : Nat} (ho : off ∉ l) (lsb w : Nat) :
    t.regF off lsb w = s.regF off lsb w := by
  rw [State.regF, State.regF, State.regN, State.regN, h off ho]

/-! ### The access log (R62, R76) -/

/-- A field of GLB_ACCERR after a logged access is that field of the logged number: the count leaves it alone. -/
theorem State.logAccess_accerr (s : State) (off cause lsb w : Nat) (hs : RegsOk s) (h : lsb + w ≤ 32) :
    (s.logAccess off cause).regF R.GLB_ACCERR lsb w = fld (off % 2 ^ 22 + cause * 2 ^ 24) lsb w :=
  calc (s.logAccess off cause).regF R.GLB_ACCERR lsb w
    _ = (s.setReg R.GLB_ACCERR (BitVec.ofNat 32 (off % 2 ^ 22 + cause * 2 ^ 24))).regF R.GLB_ACCERR lsb w :=
      (State.setF_but _ R.GLB_ACCCNT _ _ _ [R.GLB_ACCCNT] (by simp)).regF_eq (by decide) lsb w
    _ = fld (off % 2 ^ 22 + cause * 2 ^ 24) lsb w := State.regF_setReg_same s _ _ lsb w hs h

/-- GLB_ACCERR holds the logged offset. -/
theorem State.logAccess_offset (s : State) (off : BitVec 22) (cause : Nat) (hs : RegsOk s) :
    (s.logAccess off.toNat cause).regF R.GLB_ACCERR 0 22 = off.toNat := by
  have hoff : off.toNat < 2 ^ 22 := off.isLt
  rw [State.logAccess_accerr s _ _ _ _ hs (by decide), fld]
  omega

/-- GLB_ACCERR holds the cause. -/
theorem State.logAccess_cause (s : State) (off cause : Nat) (hs : RegsOk s) (hc : cause < 16) :
    (s.logAccess off cause).regF R.GLB_ACCERR 24 4 = cause := by
  rw [State.logAccess_accerr s _ _ _ _ hs (by decide), fld]
  omega

/-- GLB_ACCCNT counts the logged access, up to 0xFFFF. -/
theorem State.logAccess_count (s : State) (off cause : Nat) (hs : RegsOk s) :
    (s.logAccess off cause).regF R.GLB_ACCCNT 0 16 = min (s.regF R.GLB_ACCCNT 0 16 + 1) 0xFFFF := by
  have hother (w : Word) : (s.setReg R.GLB_ACCERR w).regF R.GLB_ACCCNT 0 16 = s.regF R.GLB_ACCCNT 0 16 :=
    (State.setReg_but s _ w [R.GLB_ACCERR] (by simp)).regF_eq (by decide) 0 16
  rw [State.logAccess, State.regF_bumpSat_same _ _ _ _ (State.setReg_ok s _ _ hs) (by decide), hother]
  rfl

/-! ### The map of BAR0 (R61) -/

/-- The block of an offset is the block of its plain view. -/
theorem plainOf_block (off : Nat) : plainOf off / 0x10000 = off / 0x10000 := by
  unfold plainOf
  omega

/-- No block lies beyond 0x13. -/
theorem blockRows_beyond (b : Nat) (h : 0x13 < b) : blockRows b = [] := by
  obtain ⟨k, rfl⟩ : ∃ k, b = k + 0x14 := ⟨b - 0x14, by omega⟩
  rfl

/-- No register lies beyond 0x13_FFFF. -/
theorem rowAt_beyond (off : Nat) (h : 0x13 < off / 0x10000) : rowAt off = none := by
  have hhead : ¬ (off / 0x10000 ≤ 0x13 ∧ off % 0x10000 < 8) := by omega
  have hblock : mapBlock off = off / 0x10000 := if_neg (by omega)
  rw [rowAt, if_neg hhead, hblock, blockRows_beyond _ h, List.find?_nil]

/-! ### Accesses to an unassigned offset (R69) -/

/-- An open read of an unassigned offset returns 0 and is logged with cause 0x2. -/
theorem busRead_unassigned (s : State) (src : Src) (off : Nat) (hopen : readOpen s src (plainOf off) = true) (halign : off % 4 = 0)
    (hrow : rowAt (plainOf off) = none) : busRead s src off = { s.logAccess off 2 with lastRead := 0 } := by
  simp [busRead, hopen, halign, hrow]

/-- An open write to an unassigned offset is logged with cause 0x2, and does nothing else. -/
theorem busWrite_unassigned (s : State) (src : Src) (off : Nat) (v : Word) (hopen : writeOpen s src = true) (halign : off % 4 = 0)
    (hrow : rowAt (plainOf off) = none) : busWrite s src off v = s.logAccess off 2 := by
  simp [busWrite, hopen, halign, hrow]

/-- READ_SHADOW of four bytes is one 32-bit read of the bus. -/
theorem exec_readShadow_four (src : Src) (off : BitVec 22) (s : State) : exec (.readShadow src ⟨off, 4⟩) s = .next (busRead s src off.toNat) := rfl

/-- REGISTER_WRITE of four bytes is one 32-bit write of the bus. -/
theorem exec_registerWrite_four (src : Src) (off : BitVec 22) (v : DWord) (s : State) :
    exec (.registerWrite src off 4 v) s = .next (busWrite s src off.toNat (v.setWidth 32)) := rfl

/-- Settles O22: an access to an offset without a row only enters the log, the log holds its offset and cause, and the map has no row beyond 0x13_FFFF. -/
theorem unassignedOffsetsReadZeroAndLog : Obligations.UnassignedOffsetsReadZeroAndLog := by
  refine ⟨fun src off s hopen halign hrow => ?_, fun src off v s hopen halign hrow => ?_, fun off hoff => ?_, fun off cause s hc => ?_⟩
  · rw [exec_readShadow_four, busRead_unassigned s src _ hopen halign hrow]
  · rw [exec_registerWrite_four, busWrite_unassigned s src _ _ hopen halign hrow]
  · exact rowAt_beyond _ (by rw [plainOf_block]; omega)
  · exact ⟨State.logAccess_but s _ _, fun hs =>
      ⟨State.logAccess_offset s off cause hs, State.logAccess_cause s _ cause hs hc, State.logAccess_count s _ cause hs⟩⟩

end Sys2Proof.Machine

/-! ## Doorbells (R232, R235) and ring errors (R253) -/

namespace Sys2Proof.Machine

/-! ### Distances around a ring -/

/-- A ring holds 2^SIZE entries, so at least one (R233). -/
theorem sqSize_pos (s : State) (n : Nat) : 0 < sqSize s n := Nat.two_pow_pos _

theorem cqSize_pos (s : State) (n : Nat) : 0 < cqSize s n := Nat.two_pow_pos _

/-- The model's distance in natural numbers is the spec's difference modulo the size (R235). -/
theorem ringDist_eq_emod (size a b : Nat) (hpos : 0 < size) : (ringDist size a b : Int) = ((b : Int) - a) % size := by
  have hlt : a % size < size := Nat.mod_lt a hpos
  calc (ringDist size a b : Int)
    _ = ((b : Int) + size - (a : Int) % size) % size := by
      rw [ringDist, Int.natCast_mod, Int.natCast_sub (by omega), Int.natCast_add, Int.natCast_mod]
    _ = ((b : Int) - (a : Int) % size) % size := by
      rw [show (b : Int) + size - (a : Int) % size = b - (a : Int) % size + size by ring, Int.add_emod_right]
    _ = ((b : Int) - a) % size := Int.sub_emod_emod _ _ _

/-- A tail is acceptable exactly under the condition of R235. -/
theorem tailOk_iff (s : State) (n t : Nat) : tailOk s n t = true ↔
    t < sqSize s n ∧ (((sqAt s n).tail : Int) - (sqAt s n).head) % sqSize s n ≤ ((t : Int) - (sqAt s n).head) % sqSize s n := by
  simp [tailOk, ← ringDist_eq_emod _ _ _ (sqSize_pos s n)]

/-- A head is acceptable exactly under the condition of R235. -/
theorem headOk_iff (s : State) (n h : Nat) : headOk s n h = true ↔
    h < cqSize s n ∧ ((h : Int) - (cqAt s n).head) % cqSize s n ≤ (((cqAt s n).tail : Int) - (cqAt s n).head) % cqSize s n := by
  simp [headOk, ← ringDist_eq_emod _ _ _ (cqSize_pos s n)]

/-! ### Ring errors and the turn of fetching -/

/-- A ring error is recorded, counted and raised, and does nothing else (R253). -/
theorem ringError_isRingError (s : State) (n side cause : Nat) : RingError n side cause s (ringError s n side cause) :=
  evgRaise_raises _ _

/-- Ending the turn of a ring clears the turn in progress where it is that ring's, and nothing else (R253). -/
theorem endTurn_eq (s : State) (n : BitVec 4) :
    endTurn s n.toNat = { s with hif := { s.hif with turn := if (s.hif.turn.map (·.ring)) = some n then none else s.hif.turn } } := by
  have hring : (s.hif.turn.map fun t => t.ring.toNat) = some n.toNat ↔ (s.hif.turn.map (·.ring)) = some n := by
    cases s.hif.turn <;> simp [BitVec.toNat_inj]
  by_cases h : (s.hif.turn.map (·.ring)) = some n
  · rw [endTurn, if_pos (hring.mpr h), if_pos h]
  · rw [endTurn, if_neg (mt hring.mp h), if_neg h]

/-! ### Writes of an index, by the branches of R235 -/

theorem tailWrite_of_disabled (s : State) (k t : Nat) (h : sqOn s k = false) : tailWrite s k t = ringError s k 0 5 := if_pos h

theorem tailWrite_of_accepted (s : State) (k t : Nat) (h : sqOn s k = true) (hok : tailOk s k t = true) :
    tailWrite s k t = updSq s k fun q => { q with tail := t } := by
  simp [tailWrite, h, hok]

theorem tailWrite_of_refused (s : State) (k t : Nat) (h : sqOn s k = true) (hok : ¬ tailOk s k t = true) :
    tailWrite s k t = ringError (updSq (endTurn s k) k fun q => { q with err := true }) k 0 1 := by
  simp [tailWrite, h, hok]

theorem headWrite_of_disabled (s : State) (k h : Nat) (hoff : cqOn s k = false) : headWrite s k h = ringError s k 1 5 := if_pos hoff

theorem headWrite_of_accepted (s : State) (k h : Nat) (hon : cqOn s k = true) (hok : headOk s k h = true) :
    headWrite s k h = updCq s k fun c => { c with head := h } := by
  simp [headWrite, hon, hok]

theorem headWrite_of_refused (s : State) (k h : Nat) (hon : cqOn s k = true) (hok : ¬ headOk s k h = true) :
    headWrite s k h = ringError (updCq s k fun c => { c with err := true }) k 1 2 := by
  simp [headWrite, hon, hok]

/-! ### The two doorbells -/

/-- A module stopped in RETIRED serves no doorbell (R420). -/
theorem exec_submissionTail_retired (n : BitVec 4) (x : Bell) (s : State) (h : s.power.retired = true) : exec (.submissionTail n x) s = .next s :=
  if_pos h

theorem exec_completionHead_retired (n : BitVec 4) (x : Bell) (s : State) (h : s.power.retired = true) : exec (.completionHead n x) s = .next s :=
  if_pos h

section Served

variable {s : State} (hserved : s.power.retired = false) (n : BitVec 4) (v : Word) (r : Bool)

include hserved

/-- A served write carries its index to the ring. -/
theorem exec_submissionTail_write : exec (.submissionTail n (.write v)) s = .next (tailWrite s n.toNat v.toNat) := if_neg (by simp [hserved])

theorem exec_completionHead_write : exec (.completionHead n (.write v)) s = .next (headWrite s n.toNat v.toNat) := if_neg (by simp [hserved])

/-- A served read returns the index, and changes no other field (R232). -/
theorem exec_submissionTail_read : exec (.submissionTail n .read) s = .next { s with lastRead := BitVec.ofNat 32 (sqAt s n.toNat).tail } :=
  if_neg (by simp [hserved])

theorem exec_completionHead_read : exec (.completionHead n .read) s = .next { s with lastRead := BitVec.ofNat 32 (cqAt s n.toNat).head } :=
  if_neg (by simp [hserved])

/-- An access of another offset, width or alignment never reaches the ring (R232). -/
theorem exec_submissionTail_other : exec (.submissionTail n (.other r)) s = .next (otherAccess s r) := if_neg (by simp [hserved])

theorem exec_completionHead_other : exec (.completionHead n (.other r)) s = .next (otherAccess s r) := if_neg (by simp [hserved])

end Served

/-- Settles O13: each write of an index falls under one branch of R235, whose condition the model states as distances around the ring. -/
theorem doorbellsMoveAnIndexOrAreRingErrors : Obligations.DoorbellsMoveAnIndexOrAreRingErrors := by
  refine ⟨?tail, ?head, ?tailOff, ?headOff, ?retired, ?others⟩
  case tail =>
    rintro n v s _ _ hserved hon rfl rfl
    rw [exec_submissionTail_write hserved]
    refine ⟨fun hok => ?_, fun hbad => ⟨_, rfl, ?_⟩⟩
    · rw [tailWrite_of_accepted s _ _ hon ((tailOk_iff ..).mpr hok)]
    · rw [tailWrite_of_refused s _ _ hon (mt (tailOk_iff ..).mp hbad), endTurn_eq]
      exact ringError_isRingError _ _ _ _
  case head =>
    rintro n v s _ _ hserved hon rfl rfl
    rw [exec_completionHead_write hserved]
    refine ⟨fun hok => ?_, fun hbad => ⟨_, rfl, ?_⟩⟩
    · rw [headWrite_of_accepted s _ _ hon ((headOk_iff ..).mpr hok)]
    · rw [headWrite_of_refused s _ _ hon (mt (headOk_iff ..).mp hbad)]
      exact ringError_isRingError _ _ _ _
  case tailOff =>
    intro n v s hserved hoff
    rw [exec_submissionTail_write hserved, tailWrite_of_disabled s _ _ hoff]
    exact ⟨_, rfl, ringError_isRingError _ _ _ _⟩
  case headOff =>
    intro n v s hserved hoff
    rw [exec_completionHead_write hserved, headWrite_of_disabled s _ _ hoff]
    exact ⟨_, rfl, ringError_isRingError _ _ _ _⟩
  case retired =>
    exact fun n x s h => ⟨exec_submissionTail_retired n x s h, exec_completionHead_retired n x s h⟩
  case others =>
    intro n r s hserved
    refine ⟨exec_submissionTail_read hserved n, exec_completionHead_read hserved n, exec_submissionTail_other hserved n r, ?_⟩
    rw [exec_submissionTail_other hserved, exec_completionHead_other hserved]

end Sys2Proof.Machine

/-! ## The candidate of a class at the Event Gate (R260) -/

namespace Sys2Proof.Machine

/-- The delivery conditions, one by one (R260). -/
theorem evgDeliverable_iff (s : State) (c : EvClass) (k : Nat) : evgDeliverable s c k = true ↔
    s.evg.pend.getLsbD k = true ∧ evgClassOf s k = c ∧ evgEnabled s c k = true ∧ 1 ≤ evgPrioOf s k ∧
    ∀ top rest, evgStack s c = top :: rest → evgPrioOf s top < evgPrioOf s k := by
  unfold evgDeliverable
  cases evgStack s c with
  | nil => simp [and_assoc]
  | cons top rest => simp [and_assoc]

/-- The sources deliverable in a class, in ascending number. -/
def evgDeliverables (s : State) (c : EvClass) : List Nat := (List.range 128).filter (evgDeliverable s c)

theorem mem_evgDeliverables {s : State} {c : EvClass} {k : Nat} : k ∈ evgDeliverables s c ↔ k < 128 ∧ evgDeliverable s c k = true := by
  simp [evgDeliverables]

theorem evgDeliverables_ascending (s : State) (c : EvClass) : (evgDeliverables s c).Pairwise (· < ·) :=
  List.pairwise_lt_range.filter _

/-- The model's choice is the first source of the highest priority among the deliverable ones. -/
theorem evgCandidate_eq_argmax (s : State) (c : EvClass) : evgCandidate s c = (evgDeliverables s c).argmax (evgPrioOf s) := by
  unfold evgCandidate List.argmax
  congr 1
  funext best k
  cases best with
  | none => rfl
  | some b => rfl

/-- In an ascending list, what stands no later is no greater. -/
theorem le_of_idxOf_le {l : List Nat} (hl : l.Pairwise (· < ·)) {k j : Nat} (hk : k ∈ l) (hj : j ∈ l) (h : l.idxOf k ≤ l.idxOf j) : k ≤ j := by
  have hle := (hl.imp Nat.le_of_lt).rel_get_of_le (a := ⟨l.idxOf k, List.idxOf_lt_length_of_mem hk⟩) (b := ⟨l.idxOf j, List.idxOf_lt_length_of_mem hj⟩) h
  simpa using hle

/-- There is no candidate exactly where nothing is deliverable. -/
theorem evgCandidate_eq_none_iff (s : State) (c : EvClass) : evgCandidate s c = none ↔ ∀ k < 128, evgDeliverable s c k = false := by
  rw [evgCandidate_eq_argmax, List.argmax_eq_none, List.eq_nil_iff_forall_not_mem]
  simp [mem_evgDeliverables]

/-- Settles O18: the candidate is a maximum of the priorities, and the list it is taken from ascends, so that the first maximum has the lowest number. -/
theorem candidateIsTheHighestDeliverableSource : Obligations.CandidateIsTheHighestDeliverableSource := by
  refine ⟨fun c k s => evgDeliverable_iff s c k, fun c s => evgCandidate_eq_none_iff s c, fun c k s hc => ?_⟩
  rw [evgCandidate_eq_argmax, List.argmax_eq_some_iff] at hc
  obtain ⟨hk, hhighest, hfirst⟩ := hc
  obtain ⟨hlt, hdel⟩ := mem_evgDeliverables.mp hk
  refine ⟨hlt, hdel, fun j hj hjdel => ?_⟩
  have hjmem : j ∈ evgDeliverables s c := mem_evgDeliverables.mpr ⟨hj, hjdel⟩
  rcases (hhighest j hjmem).lt_or_eq with hlower | hequal
  · exact .inl hlower
  · exact .inr ⟨hequal, le_of_idxOf_le (evgDeliverables_ascending s c) hk hjmem (hfirst j hjmem hequal.ge)⟩

end Sys2Proof.Machine

/-! ## Claims (R261, R265) and completions (R263, R264) at the Event Gate -/

namespace Sys2Proof.Machine

/-! ### What delivery leaves (R265) -/

section Delivers

variable {s t : State} (h : Delivers s t)

include h

theorem Delivers.pend : t.evg.pend = s.evg.pend := by rw [h.1]

theorem Delivers.active : t.evg.active = s.evg.active := by rw [h.1]

theorem Delivers.line : t.evg.line = s.evg.line := by rw [h.1]

theorem Delivers.evgStack (c : EvClass) : evgStack t c = evgStack s c := by
  cases c <;> rw [h.1] <;> rfl

theorem Delivers.lastRead : t.lastRead = s.lastRead := by rw [h.1]

theorem Delivers.cq : t.hif.cq = s.hif.cq := by rw [h.1]

theorem Delivers.sq : t.hif.sq = s.hif.sq := by rw [h.1]

theorem Delivers.regsBut : RegsBut evgCounters s t := h.2.1

end Delivers

/-- Clearing a class's notify flag and delivering again is delivery's work alone. -/
theorem evgPoll_evgSetFlag_delivers (s : State) (c : EvClass) (b : Bool) : Delivers s (evgPoll (evgSetFlag s c b)) := by
  have hflag : Delivers s (evgSetFlag s c b) := by cases c <;> exact ⟨rfl, RegsBut.refl _ _, [], by simp [evgSetFlag]⟩
  exact hflag.trans (evgPoll_delivers _)

/-- Only the Event Gate's own state changes: no register, and no message. -/
def GateOnly (s u : State) : Prop := u = { s with evg := u.evg }

section GateOnly

variable {s u t : State} (hu : GateOnly s u) (h : Delivers u t)

include hu h

theorem GateOnly.regsBut_delivers : RegsBut evgCounters s t := by
  have hsame : RegsBut evgCounters s u := fun off _ => by rw [hu]; rfl
  exact hsame.trans h.regsBut

theorem GateOnly.work_delivers : EvgWork s t := by
  have hgate : EvgWork s u := by rw [hu]; rfl
  exact hgate.trans h.work

theorem GateOnly.cq_delivers : t.hif.cq = s.hif.cq := by rw [h.cq, hu]

theorem GateOnly.sq_delivers : t.hif.sq = s.hif.sq := by rw [h.sq, hu]

end GateOnly

/-- A read returns a value, and otherwise works at the gate. -/
theorem EvgWork.of_read {s t : State} {w : Word} (h : EvgWork { s with lastRead := w } t) :
    t = { s with regs := t.regs, out := t.out, lastRead := t.lastRead, evg := t.evg, hif := t.hif } := by
  unfold EvgWork at h
  rw [h]

theorem RegsBut.of_read {l : List Nat} {s t : State} {w : Word} (h : RegsBut l { s with lastRead := w } t) : RegsBut l s t := h

/-! ### The stacks and the bits of the sources -/

/-- A new stack of a class changes nothing but that class's stack. -/
theorem evgSetStack_gateOnly (s : State) (c : EvClass) (l : List Nat) : GateOnly s (evgSetStack s c l) := by cases c <;> rfl

/-- The stacks of the two classes are apart (R258). -/
theorem evgStack_evgSetStack_other (s : State) (l : List Nat) : ∀ {c d : EvClass}, d ≠ c → evgStack (evgSetStack s c l) d = evgStack s d
  | .normal, .normal, h => absurd rfl h
  | .normal, .fast, _ => rfl
  | .fast, .normal, _ => rfl
  | .fast, .fast, h => absurd rfl h

section Stacks

variable (s : State) (c : EvClass) (l : List Nat)

@[simp] theorem evgStack_evgSetStack_same : evgStack (evgSetStack s c l) c = l := by cases c <;> rfl

@[simp] theorem evgSetStack_pend : (evgSetStack s c l).evg.pend = s.evg.pend := by cases c <;> rfl

@[simp] theorem evgSetStack_active : (evgSetStack s c l).evg.active = s.evg.active := by cases c <;> rfl

@[simp] theorem evgSetStack_line : (evgSetStack s c l).evg.line = s.evg.line := by cases c <;> rfl

@[simp] theorem evgSetStack_lastRead : (evgSetStack s c l).lastRead = s.lastRead := by cases c <;> rfl

end Stacks

/-- The set of one source alone. -/
theorem evgBit_eq_withSource (k : Nat) : evgBit k = withSource 0 k := BitVec.zero_or.symm

theorem or_evgBit (b : BitVec 128) (k : Nat) : b ||| evgBit k = withSource b k := rfl

theorem getLsbD_evgBit (k j : Nat) (hk : k < 128) : (evgBit k).getLsbD j = decide (j = k) := by
  have htwo : evgBit k = BitVec.twoPow 128 k := rfl
  rw [htwo, BitVec.getLsbD_twoPow, decide_eq_true hk, Bool.true_and, decide_eq_decide.mpr eq_comm]

theorem evgIsLevel_lt {k : Nat} (h : evgIsLevel k = true) : k < 128 := by
  simp only [evgIsLevel, Bool.or_eq_true, beq_iff_eq] at h
  omega

/-! ### Claims -/

/-- A module stopped in RETIRED serves no claim (R420). -/
theorem exec_evgClaim_retired (c : EvClass) (s : State) (h : s.power.retired = true) : exec (.evgClaim c) s = .next s := if_pos h

section Claim

variable {s : State} (c : EvClass) (hserved : s.power.retired = false)

include hserved

/-- A served claim takes the candidate, and delivery follows. -/
theorem exec_evgClaim_some {k : Nat} (hc : evgCandidate s c = some k) :
    exec (.evgClaim c) s = .next (evgPoll (evgSetFlag (evgTake s c k) c false)) := by
  change execEvgClaim c s = _
  simp [execEvgClaim, hserved, hc]

/-- With no candidate a served claim reads 0, and delivery follows. -/
theorem exec_evgClaim_none (hc : evgCandidate s c = none) :
    exec (.evgClaim c) s = .next (evgPoll (evgSetFlag { s with lastRead := 0 } c false)) := by
  change execEvgClaim c s = _
  simp [execEvgClaim, hserved, hc]

end Claim

section Take

variable (s : State) (c : EvClass) (k : Nat)

/-- But for the value read, a claim changes the gate alone. -/
theorem evgTake_gateOnly : GateOnly { s with lastRead := BitVec.ofNat 32 (k + 256 * evgPrioOf s k + 2 ^ 31) } (evgTake s c k) := by cases c <;> rfl

theorem evgTake_lastRead : (evgTake s c k).lastRead = BitVec.ofNat 32 (k + 256 * evgPrioOf s k + 2 ^ 31) := by simp [evgTake]

theorem evgTake_pend : (evgTake s c k).evg.pend = s.evg.pend &&& ~~~(withSource 0 k) := by simp [evgTake, evgBit_eq_withSource]

theorem evgTake_active : (evgTake s c k).evg.active = withSource s.evg.active k := by simp [evgTake, or_evgBit]

theorem evgTake_line : (evgTake s c k).evg.line = s.evg.line := by simp [evgTake]

theorem evgTake_stack_same : evgStack (evgTake s c k) c = k :: evgStack s c := by simp [evgTake]

theorem evgTake_stack_other {d : EvClass} (h : d ≠ c) : evgStack (evgTake s c k) d = evgStack s d := by
  rw [evgTake, evgStack_evgSetStack_other _ _ h]
  cases d <;> simp only [evgStack]

end Take

/-! ### Completions -/

/-- The register in which a class is completed. -/
def completeReg : EvClass → Nat
  | .normal => R.EVG_NCOMPLETE
  | .fast => R.EVG_FCOMPLETE

/-- COMPLETE holds the seven WO bits of a source's number, and no field that keeps a value. -/
theorem rowAt_completeReg (c : EvClass) : ∃ r, rowAt (completeReg c) = some r ∧ r.w1c = 0 ∧ r.wo = 0x7F ∧ r.enc = [] := by
  have hrow : ((rowAt (completeReg c)).any fun r => r.w1c == 0 && r.wo == 0x7F && r.enc == []) = true := by cases c <;> decide +kernel
  simpa [Option.any_eq_true, and_assoc] using hrow

/-- The seven bits are the source's number. -/
theorem toNat_and_source (v : Word) : (v &&& 0x7F).toNat % 128 = v.toNat % 128 := by
  have hmask : v.toNat &&& 127 = v.toNat % 128 := Nat.and_two_pow_sub_one_eq_mod v.toNat 7
  simp [hmask]

section Complete

variable {s : State} {c : EvClass} {w : Word}

/-- The source at the top of the stack is popped, and delivery follows (R263). -/
theorem evgCompleteWrite_of_top {k : Nat} {rest : List Nat} (hstack : evgStack s c = k :: rest) (hw : w.toNat % 128 = k) :
    evgCompleteWrite s c w = evgPoll (evgSetFlag (evgPop s c k rest) c false) := by
  simp [evgCompleteWrite, hstack, hw]

/-- Any other completion fails (R264). -/
theorem evgCompleteWrite_of_other (hother : ∀ k rest, evgStack s c = k :: rest → w.toNat % 128 ≠ k) :
    evgCompleteWrite s c w = evgFail s c (w.toNat % 128) := by
  unfold evgCompleteWrite
  cases hstack : evgStack s c with
  | nil => rfl
  | cons k rest => exact if_neg fun h => hother k rest hstack h.symm

end Complete

section Pop

variable (s : State) (c : EvClass) (k : Nat) (rest : List Nat)

theorem evgPop_gateOnly : GateOnly s (evgPop s c k rest) := by
  rw [evgPop, GateOnly, evgSetStack_gateOnly]

theorem evgPop_stack_same : evgStack (evgPop s c k rest) c = rest := by simp [evgPop]

theorem evgPop_stack_other {d : EvClass} (h : d ≠ c) : evgStack (evgPop s c k rest) d = evgStack s d := by
  rw [evgPop, evgStack_evgSetStack_other _ _ h]
  cases d <;> simp only [evgStack] <;> split <;> rfl

theorem evgPop_active : (evgPop s c k rest).evg.active = s.evg.active &&& ~~~(withSource 0 k) := by
  rw [evgPop, evgSetStack_active, ← evgBit_eq_withSource]
  dsimp only
  split <;> rfl

/-- An edge source keeps its pending bit (R263). -/
theorem evgPop_pend_of_edge (h : evgIsLevel k = false) : (evgPop s c k rest).evg.pend = s.evg.pend := by simp [evgPop, h]

/-- A level source takes its pending bit from its line, unless SETPEND holds it; no other pending bit moves (R263). -/
theorem evgPop_pend_of_level (h : evgIsLevel k = true) (j : Nat) :
    (evgPop s c k rest).evg.pend.getLsbD j = if j = k then s.evg.line.getLsbD k || s.evg.sticky.getLsbD k else s.evg.pend.getLsbD j := by
  have hk : k < 128 := evgIsLevel_lt h
  simp only [evgPop, h, evgSetStack_pend, if_true]
  by_cases hset : (s.evg.line.getLsbD k || s.evg.sticky.getLsbD k) = true
  · rw [if_pos hset, hset, BitVec.getLsbD_or, getLsbD_evgBit k j hk]
    by_cases hj : j = k <;> simp [hj]
  · rw [if_neg hset, BitVec.getLsbD_and, BitVec.getLsbD_not, getLsbD_evgBit k j hk]
    by_cases hj : j = k
    · simp [hj, hset]
    · simpa [hj] using BitVec.lt_of_getLsbD

end Pop

/-- What a failed completion records (R264): the source, the class, the present top, and whether the stack is empty. -/
def failInfo (s : State) (c : EvClass) (w : Nat) : Word :=
  BitVec.ofNat 32 (w + (if c = .fast then 128 else 0) + 256 * (evgStack s c).headD 0 + (if evgStack s c = [] then 32768 else 0))

/-- A failed completion is recorded and counted, and source 69 is raised (R264). -/
theorem evgFail_raises (s : State) (c : EvClass) (w : Nat) :
    Raises 69 ((s.setReg R.EVG_FAULTINFO (failInfo s c w)).bump R.EVG_FAULTCNT 1) (evgFail s c w) := by
  have hclass : 128 * classNo c = if c = .fast then 128 else 0 := by cases c <;> rfl
  have hempty : 32768 * b2n (evgStack s c).isEmpty = if evgStack s c = [] then 32768 else 0 := by cases evgStack s c <;> rfl
  rw [failInfo, ← hclass, ← hempty]
  exact evgRaise_raises _ _

/-- A completion writes the record of a failed one, its count, and delivery's counters at most. -/
theorem evgCompleteWrite_but (s : State) (c : EvClass) (w : Word) :
    RegsBut ([R.EVG_FAULTINFO, R.EVG_FAULTCNT] ++ evgCounters) s (evgCompleteWrite s c w) := by
  have hfail : RegsBut ([R.EVG_FAULTINFO, R.EVG_FAULTCNT] ++ evgCounters) s (evgFail s c (w.toNat % 128)) :=
    ((State.setReg_but s _ _ _ (by simp)).trans (State.bump_but _ _ _ _ (by simp))).trans
      ((evgFail_raises s c _).regsBut.mono fun _ => List.mem_append_right _)
  by_cases hother : ∀ k rest, evgStack s c = k :: rest → w.toNat % 128 ≠ k
  · rw [evgCompleteWrite_of_other hother]
    exact hfail
  · push Not at hother
    obtain ⟨k, rest, hstack, hw⟩ := hother
    rw [evgCompleteWrite_of_top hstack hw]
    exact ((evgPop_gateOnly s c k rest).regsBut_delivers (evgPoll_evgSetFlag_delivers _ c false)).mono fun _ => List.mem_append_right _

/-- A write of COMPLETE that its register takes whole completes the source of its low seven bits. -/
theorem exec_evgComplete_clean {s : State} {c : EvClass} {v : Word} (h : CleanWrite s (completeReg c) v) :
    exec (.evgComplete c v) s = .next (evgCompleteWrite s c (v &&& 0x7F)) := by
  obtain ⟨r, hr, hw1c, hwo, henc⟩ := rowAt_completeReg c
  have heff (w : Wr) : wrReg s .pcie (completeReg c) w = evgCompleteWrite s c w.wo := by cases c <;> rfl
  have hkeep (w : Wr) : (wrReg s .pcie (completeReg c) w).reg (completeReg c) = s.reg (completeReg c) := by
    rw [heff]
    exact evgCompleteWrite_but s c _ _ (by cases c <;> decide)
  have hwrite : plainWrite s (completeReg c) v = evgCompleteWrite s c (wrOf r (liveReg s (completeReg c)) 0 v).1.wo := by
    rw [plainWrite, ownWrite_clean _ s _ v r h hr (by cases c <;> rfl) (by cases c <;> rfl) (by simp [hw1c]) (by simp [wrOf, badFields, henc])
      fun w => by rw [hkeep], heff]
  have hwrOf : (wrOf r (liveReg s (completeReg c)) 0 v).1.wo = v &&& 0x7F := by rw [← hwo]; rfl
  rw [hwrOf] at hwrite
  rw [← hwrite]
  rfl

/-- Settles O19: a claim takes the candidate, a completion pops the top or fails, and what follows is delivery's, which leaves the pending and active bits and the stacks. -/
theorem claimsAndCompletionsUseTheStack : Obligations.ClaimsAndCompletionsUseTheStack := by
  refine ⟨⟨?claimed, ?nothing, exec_evgClaim_retired⟩, ?popped, ?failed⟩
  case claimed =>
    intro c k s hserved hc
    have hd := evgPoll_evgSetFlag_delivers (evgTake s c k) c false
    have hu := evgTake_gateOnly s c k
    exact ⟨_, exec_evgClaim_some c hserved hc, hd.lastRead.trans (evgTake_lastRead s c k), hd.pend.trans (evgTake_pend s c k),
      hd.active.trans (evgTake_active s c k), (hd.evgStack c).trans (evgTake_stack_same s c k),
      fun d hne => (hd.evgStack d).trans (evgTake_stack_other s c k hne), hd.line.trans (evgTake_line s c k),
      (hu.regsBut_delivers hd).of_read, (hu.work_delivers hd).of_read, hu.cq_delivers hd, hu.sq_delivers hd⟩
  case nothing =>
    intro c s hserved hc
    have hd := evgPoll_evgSetFlag_delivers { s with lastRead := 0 } c false
    exact ⟨_, exec_evgClaim_none c hserved hc, hd.lastRead, hd.pend, hd.active, hd.evgStack, hd.regsBut, hd.work.of_read⟩
  case popped =>
    intro c v k rest s hclean hstack hv
    have hd := evgPoll_evgSetFlag_delivers (evgPop s c k rest) c false
    have hu := evgPop_gateOnly s c k rest
    refine ⟨_, exec_evgComplete_clean hclean, ?_⟩
    rw [evgCompleteWrite_of_top hstack ((toNat_and_source v).trans hv)]
    refine ⟨(hd.evgStack c).trans (evgPop_stack_same s c k rest), fun d hne => (hd.evgStack d).trans (evgPop_stack_other s c k rest hne),
      hd.active.trans (evgPop_active s c k rest), fun hedge => hd.pend.trans (evgPop_pend_of_edge s c k rest hedge), fun hlevel => ?_,
      hu.regsBut_delivers hd, hu.work_delivers hd⟩
    rw [hd.pend]
    exact ⟨by rw [evgPop_pend_of_level s c k rest hlevel, if_pos rfl], fun j hj => by rw [evgPop_pend_of_level s c k rest hlevel, if_neg hj]⟩
  case failed =>
    intro c v s hclean hother
    have hsource := toNat_and_source v
    refine ⟨_, exec_evgComplete_clean hclean, ?_⟩
    rw [evgCompleteWrite_of_other (by rwa [hsource]), hsource]
    exact evgFail_raises s c _

end Sys2Proof.Machine
